-- ==== Sys2Proof/Word.lean ====
section
/-! DEFINITION. The words the block's manual speaks of: bytes, 16-, 32- and 64-bit words (R12: bit 0 is the
least significant bit, multi-byte values are little-endian). -/

namespace Sys2Proof

/-- One byte of memory. -/
abbrev Byte := BitVec 8

/-- A 16-bit word: status codes (R17), generators (R72), the phase marker (Table 6.12). -/
abbrev Half := BitVec 16

/-- A 32-bit word: scalar registers and register-page registers. -/
abbrev Word := BitVec 32

/-- A 64-bit word: instructions, handles, ticks. -/
abbrev DWord := BitVec 64

end Sys2Proof
end

