-- ==== Sys2Proof/Machine/Fields.lean ====
section
/-! DEFINITION. The operands commands are made of: the fields of a core instruction word (Table 6.2; class and
operation are the command's row), a host access, an engine, a message vector. -/

namespace Sys2Proof.Machine

/-- Guard predicate and negate, the register fields, the class-specific bits and the immediate (Table 6.2).
(DESIGN CHOICE, log 50) -/
structure Fields where
  pg : BitVec 3
  pn : Bool
  rd : BitVec 5
  ra : BitVec 5
  rb : BitVec 5
  x : BitVec 3
  imm : BitVec 32
deriving DecidableEq, Repr

/-- A host access to a register with an effect of its own: the master identifier, whether it comes through the full
aperture or through a partition's aperture, its size code (0 to 3: 1, 2, 4, 8 B) and, of a write, its data
(Table 18.3). -/
structure HostAcc where
  mid : BitVec 8
  full : Bool
  size : BitVec 2
  data : BitVec 64
deriving DecidableEq, Repr

/-- An engine that resolves engine addresses (R312): a core's stream engine, a partition's Intake session, the
inbound link path working for a partition. -/
inductive Engine where
  | core (c : Fin 32)
  | intake (p : Fin 8)
  | link (p : Fin 8)
  | walker (f : Fin 2)
deriving DecidableEq, Repr

/-- Engine numbers of R312. -/
def Engine.num : Engine → Nat
  | .core c => c
  | .intake _ => 32
  | .link _ => 33
  | .walker f => 34 + f

/-- A message vector (R354, R384): one of a partition's four, an Intake session's, or the block's own. -/
inductive MsgVec where
  | part (p : Fin 8) (v : Fin 4)
  | session (p : Fin 8)
  | block
deriving DecidableEq, Repr

/-- Where an error is detected (Table 14.1): a bank of a physical core's tile memory, a unit of a store slice, a core's
queues and instruction buffer, an array, element lanes, a line buffer, slot state, an engine's Chart cache line, a stop's
walk queue (by Chart line) or pending-fault entry (by Chart index), an Intake lane, a Binnacle memory. `ue`:
uncorrectable. -/
inductive ErrSite where
  | tile (phys : Fin 34) (bank : Fin 64) (ue : Bool)
  | store (slice : Fin 16) (unit : Fin 32) (ue : Bool)
  | parity (phys : Fin 34)
  | array (phys : Fin 34) (arr : Fin 4)
  | element (phys : Fin 34) (lane : Fin 128)
  | lineBuffer (phys : Fin 34)
  | slotState (phys : Fin 34)
  | cacheLine (phys : Fin 34) (line : Nat)
  | sideLine (link : Bool) (line : Nat)
  | walks (stop : Fin 2) (line : Nat)
  | pending (stop : Fin 2) (index : Nat)
  | intake (lane : Fin 4)
  | binnacle (ctl : Fin 4) (ue : Bool)
deriving DecidableEq, Repr

/-- What a cell of a bound queue says (R498): a put of a handle by a task of a core at the sender, the queue unit's reply,
a notice of space. -/
inductive HandleMsg where
  | put (queue : Fin 64) (core : Fin 32) (task : Fin 4) (h : DWord)
  | reply (core : Fin 32) (task : Fin 4) (ok : Bool)
  | space (core : Fin 32) (task : Fin 4)
deriving DecidableEq, Repr

/-- A unit that can be sounded (R444), by kind, place and index of Table 14.5. -/
structure SoundUnit where
  kind : Fin 7
  idx : Fin 64
  sub : Fin 128
deriving DecidableEq, Repr

end Sys2Proof.Machine
end

