-- ==== Sys2Proof/Machine/AlmanacTypes.lean ====
section
/-! DEFINITION. Start-up and the Almanac (section 17): fuses, the repair area of the NVM, the phases, the image in use. -/

namespace Sys2Proof.Machine

/-- What manufacturing fuses hold (Table 17.1 phase 1): bad physical cores, economy dividers by physical core, the
device secret, the security version, the SHA-384 of the signer key, the lifecycle state. (DESIGN CHOICE, log 6) -/
structure Fuses where
  bad : List Nat
  eco : List Nat
  secret : List Byte
  secVersion : Nat
  signer : List Byte
  lifecycle : Nat
deriving DecidableEq, Repr

def Fuses.none : Fuses := ⟨[], [], [], 0, [], 0⟩

/-- The repair area of the NVM (R447, R507): retired physical cores, the count of moves of each logical core, spare banks
in use and failing units. It survives block reset. -/
structure Repair where
  seq : Nat
  retired : List Nat
  counts : List Nat
  spareBank : List (Option Nat)
  ssSpare : List (Option Nat)
  ssFailing : List Word
  dirty : Bool
deriving DecidableEq, Repr

def Repair.none : Repair :=
  { seq := 0, retired := [], counts := List.replicate 32 0, spareBank := List.replicate 34 Option.none,
    ssSpare := List.replicate 16 Option.none, ssFailing := List.replicate 16 0, dirty := false }

/-- ALM_STATE.state (Table 17.7). -/
inductive AlmState where
  | reset | reading | applying | ready | awaitHost | halted | activating
deriving DecidableEq, Repr

def AlmState.code : AlmState → Nat
  | .reset => 0
  | .reading => 1
  | .applying => 2
  | .ready => 3
  | .awaitHost => 4
  | .halted => 5
  | .activating => 6

/-- How far start-up has come within its state: which event comes next. -/
inductive Phase where
  | held | fuses | pll | boot | discover | copyA | copyB | apply | clear | done
deriving DecidableEq, Repr

/-- An operation in progress (R516). -/
inductive AlmOp where
  | program (len : Nat)
  | activate (len : Nat)
deriving DecidableEq, Repr

/-- The Almanac unit. `copyA` and `copyB` hold status and whether the copy was read; `images` the valid images read, by
copy number; `image` the one in use; `fwDigest` is the SHA-384 of the running firmware. -/
structure Almanac where
  st : AlmState
  phase : Phase
  copy : Nat
  busy : Bool
  done : Bool
  overflow : Bool
  copyA : Nat × Bool
  copyB : Nat × Bool
  seq : Nat
  mode : Nat
  addr4 : Bool
  nvMode : Bool
  nvSpeed : Nat
  srcLo : Word
  srcHi : Word
  len : Nat
  result : Nat
  agreed : List Nat
  images : List (Nat × List Byte)
  image : List Byte
  fwDigest : List Byte
  op : Option AlmOp
  fuses : Fuses
  repair : Repair
deriving DecidableEq, Repr

def Almanac.reset : Almanac :=
  { st := .reset, phase := .held, copy := 3, busy := false, done := false, overflow := false, copyA := (0, false),
    copyB := (0, false), seq := 0, mode := 0, addr4 := false, nvMode := false, nvSpeed := 0, srcLo := 0, srcHi := 0,
    len := 0, result := 0, agreed := List.replicate 7 0, images := [], image := [], fwDigest := [], op := Option.none,
    fuses := .none, repair := .none }

end Sys2Proof.Machine
end

