-- ==== Sys2Proof/Machine/PowerTypes.lean ====
section
/-! DEFINITION. What the power controller and the thermal unit hold (section 13), and the activity counts an interval
closes with. Energies and powers are whole numbers of grains: 2^149 grains are 1 pJ, so that a binary32 weight in pJ is
a whole number of them (R416, R511); a power is its energy in one interval of 2 µs. -/

namespace Sys2Proof.Machine

/-- Counts of one core's interval in the classes of Table 13.2: array issue cycles at 2, 4 and 1 operations a cell,
dummy cycles, element vectors, convolution vectors, 16 B tile accesses, A-cycles, and of the traffic it caused: flit
hops, shared-store accesses, fabric beats, near-memory beats, link frames. -/
structure Activity where
  i2 : Nat
  i4 : Nat
  i1 : Nat
  dummy : Nat
  elem : Nat
  conv : Nat
  tile : Nat
  clk : Nat
  mesh : Nat
  ss : Nat
  fab : Nat
  near : Nat
  lnk : Nat
deriving DecidableEq, Repr

def Activity.zero : Activity := ⟨0, 0, 0, 0, 0, 0, 0, 0, 0, 0, 0, 0, 0⟩

/-- Grains in 1 pJ, and an energy in µJ, to nearest, saturating (R434). -/
def pJ : Nat := 2 ^ 149
def microJ (grains : Nat) : Nat := min (2 ^ 32 - 1) ((2 * grains + 1000000 * pJ) / (2000000 * pJ))

/-- An entry of a phase table (R425): marker, need in mW per core, issue energy in grains, observations. -/
structure PhaseEntry where
  marker : Half
  need : Nat
  ei : Nat
  obs : Nat
deriving DecidableEq, Repr

/-- What the controller keeps of a logical core: divider, fused economy divider, last slack code, the phase in progress
and whether its grant holds, the A-cycle and throttle count at its start, the grant's limit, the issue density of the
last closed interval, and its figures of R422. -/
structure PwrCore where
  div : Nat
  slack : Nat
  marker : Half
  granted : Bool
  grant : Nat
  cyc0 : Nat
  thr0 : Nat
  dens : Nat
  act : Activity
deriving DecidableEq, Repr

def PwrCore.reset : PwrCore := ⟨8, 0, 0, false, 0, 0, 0, 0, .zero⟩

/-- A change of operating point in progress (R412). -/
inductive PointChange where
  | none
  | toNominal       -- the voltage rise is awaited
  | toEconomy       -- dividers changed, the voltage falls
  | trim
deriving DecidableEq, Repr

/-- A divider proposal for a chain job (R429): job, node, divider, effective tick, whether it has been applied. -/
structure DivProp where
  cjob : Nat
  node : Nat
  div : Nat
  tick : Nat
  done : Bool
deriving DecidableEq, Repr

/-- The power controller and the thermal unit. `hist` holds the energies of closed intervals, newest first (`closed`
have closed, and `msClosed` milliseconds), `bins` those
of closed 1 ms bins, `binNow` that of the open bin; `msMeasured` and `lastSampleE` are the measured energies of
the interval and of the millisecond; `limHist` sums and counts of limits of closed intervals; `openShare` what
records composed in the open interval have counted of it (R434). -/
structure PowerUnit where
  ctrl : Word
  cap : Nat
  capNext : Nat
  capMax : Nat
  economy : Bool
  change : PointChange
  lastChange : Option Nat
  window : Nat
  soft : Bool
  tmLost : Bool
  memCeil : Nat
  lnkCeil : Nat
  memShort : Bool
  lnkShort : Bool
  event : Word
  closed : Nat
  msClosed : Nat
  target : Nat
  hist : List Nat
  bins : List Nat
  binNow : Nat
  limHist : List (Nat × Nat)
  k : Nat
  msReckoned : Nat
  msMeasured : Nat
  lastSample : Nat
  lastSampleE : Nat
  resumeAt : Option Nat
  measuredNow : Bool
  floorBreak : Word
  steer : Word
  staged : List Nat
  active : List Nat
  budgets : List (Nat × Nat)
  phaseA : List PhaseEntry
  phaseB : List PhaseEntry
  cores : List PwrCore
  eco : List Nat
  trim : Nat
  slackNow : Nat
  slackMin : Nat
  goodSince : Option Nat
  weights : List Word
  weightsEco : List Word
  vNom : Nat
  vEco : Nat
  vNow : Nat
  vReq : Option Nat
  eTotal : Nat
  eJobs : Nat
  eIdle : Nat
  eUnattr : Int
  openShare : Nat
  eLatch : List Word
  logLo : Word
  logHi : Word
  logCfg : Word
  logTail : Nat
  logHead : Nat
  logDrop : Word
  props : List DivProp
  temps : List (Nat × Int × Nat)
  hot : Int
  hotSensor : Nat
  intHot : Option Int
  thmMax : Int
  thmOld : Option Int
  thmNow : Int
  thmSoft : Int
  trip : Bool
  ack : Bool
  tripCnt : Word
deriving DecidableEq, Repr

/-- The weights' reset value is zero: the Almanac gives them (R511). (DESIGN CHOICE, log 10) -/
def PowerUnit.reset : PowerUnit :=
  { ctrl := 0, cap := 4000, capNext := 4000, capMax := 4000, economy := false, change := .none, lastChange := none,
    window := 0, soft := false, tmLost := false, memCeil := 16, lnkCeil := 16, memShort := false, lnkShort := false,
    event := 0, closed := 0, msClosed := 0, target := 0, hist := [], bins := [], binNow := 0, limHist := [], k := 4096, msReckoned := 0,
    msMeasured := 0, lastSample := 0, lastSampleE := 0, resumeAt := none, measuredNow := false, floorBreak := 0, steer := 0,
    staged := [1024, 0, 0, 0, 0, 0, 0, 0], active := [1024, 0, 0, 0, 0, 0, 0, 0], budgets := List.replicate 8 (0, 0),
    phaseA := [], phaseB := [], cores := List.replicate 32 PwrCore.reset, eco := List.replicate 34 11, trim := 0,
    slackNow := 255, slackMin := 255, goodSince := none, weights := List.replicate 17 0,
    weightsEco := List.replicate 17 0, vNom := 0, vEco := 0, vNow := 0, vReq := none, eTotal := 0, eJobs := 0,
    eIdle := 0, eUnattr := 0, openShare := 0, eLatch := [0, 0, 0, 0], logLo := 0, logHi := 0, logCfg := 0, logTail := 0, logHead := 0,
    logDrop := 0, props := [], temps := [], hot := 0, hotSensor := 0, intHot := none, thmMax := -32768, thmOld := none, thmNow := -32768,
    thmSoft := 0x640, trip := false, ack := false, tripCnt := 0 }

end Sys2Proof.Machine
end

