-- ==== Sys2Proof/Syntax.lean ====
section
/-! DEFINITION. The block's commands: one constructor per row of the opcode table. An instruction names the core
whose running task issues it and carries its word's operand fields; an event names the unit it happens in; a host
write or read carries the access. -/

namespace Sys2Proof

/-- A command: an instruction a core issues, an event of a unit, packet, port or clock, or a host access. -/
inductive Instr where
  /-- Scalar add of s[ra] and b into s[rd], wrapping modulo 2^32. (R200) -/
  | add (c : Fin 32) (f : Machine.Fields)
  /-- Scalar subtract of b from s[ra] into s[rd], wrapping modulo 2^32. (R200) -/
  | sub (c : Fin 32) (f : Machine.Fields)
  /-- Bitwise AND of s[ra] and b into s[rd]. (R200) -/
  | and (c : Fin 32) (f : Machine.Fields)
  /-- Bitwise OR of s[ra] and b into s[rd]. (R200) -/
  | or (c : Fin 32) (f : Machine.Fields)
  /-- Bitwise XOR of s[ra] and b into s[rd]. (R200) -/
  | xor (c : Fin 32) (f : Machine.Fields)
  /-- Shift s[ra] left by b mod 32 into s[rd]. (R200) -/
  | shl (c : Fin 32) (f : Machine.Fields)
  /-- Logical right shift of s[ra] by b mod 32, filling with zeros. (R200) -/
  | shr (c : Fin 32) (f : Machine.Fields)
  /-- Arithmetic right shift of s[ra] by b mod 32, filling with the sign. (R200) -/
  | sra (c : Fin 32) (f : Machine.Fields)
  /-- Low 32 bits of s[ra] times b into s[rd], usable three A-cycles later. (R200) -/
  | mul (c : Fin 32) (f : Machine.Fields)
  /-- High 32 bits of the unsigned product of s[ra] and b into s[rd]. (R200) -/
  | mulhu (c : Fin 32) (f : Machine.Fields)
  /-- Signed minimum of s[ra] and b into s[rd]. (R200) -/
  | min (c : Fin 32) (f : Machine.Fields)
  /-- Signed maximum of s[ra] and b into s[rd]. (R200) -/
  | max (c : Fin 32) (f : Machine.Fields)
  /-- Unsigned minimum of s[ra] and b into s[rd]. (R200) -/
  | minu (c : Fin 32) (f : Machine.Fields)
  /-- Unsigned maximum of s[ra] and b into s[rd]. (R200) -/
  | maxu (c : Fin 32) (f : Machine.Fields)
  /-- Sets s[rd] to b. (R200) -/
  | mov (c : Fin 32) (f : Machine.Fields)
  /-- Sets predicate p[rd[2:0]] when s[ra] equals b. (R200) -/
  | ceq (c : Fin 32) (f : Machine.Fields)
  /-- Sets predicate p[rd[2:0]] when s[ra] differs from b. (R200) -/
  | cne (c : Fin 32) (f : Machine.Fields)
  /-- Sets predicate p[rd[2:0]] when s[ra] is signed less than b. (R200) -/
  | clt (c : Fin 32) (f : Machine.Fields)
  /-- Sets predicate p[rd[2:0]] when s[ra] is signed greater than or equal to b. (R200) -/
  | cge (c : Fin 32) (f : Machine.Fields)
  /-- Sets predicate p[rd[2:0]] when s[ra] is unsigned less than b. (R200) -/
  | cltu (c : Fin 32) (f : Machine.Fields)
  /-- Sets predicate p[rd[2:0]] when s[ra] is unsigned greater than or equal to b. (R200) -/
  | cgeu (c : Fin 32) (f : Machine.Fields)
  /-- Predicate AND of two predicates, the second optionally inverted. (R200) -/
  | pand (c : Fin 32) (f : Machine.Fields)
  /-- Predicate OR of two predicates, the second optionally inverted. (R200) -/
  | por (c : Fin 32) (f : Machine.Fields)
  /-- Predicate XOR of two predicates, the second optionally inverted. (R200) -/
  | pxor (c : Fin 32) (f : Machine.Fields)
  /-- Reads a program CSR into s[rd], latching the high word when a 64-bit counter's low word is read. (R224) -/
  | csrr (c : Fin 32) (f : Machine.Fields)
  /-- Writes s[ra] to a writable program CSR such as the phase marker. (R224) -/
  | csrw (c : Fin 32) (f : Machine.Fields)
  /-- Loads a 32-bit tile-memory word into s[rd], usable eight A-cycles later. (R200) -/
  | ld (c : Fin 32) (f : Machine.Fields)
  /-- Stores s[rb] to a 32-bit tile-memory word, retiring four A-cycles after issue. (R200) -/
  | st (c : Fin 32) (f : Machine.Fields)
  /-- Relative branch, popping loop levels whose body the target leaves. (R203) -/
  | br (c : Fin 32) (f : Machine.Fields)
  /-- Register-relative jump, popping loop levels whose body the target leaves. (R203) -/
  | jmp (c : Fin 32) (f : Machine.Fields)
  /-- Pushes a loop level with a count and body length, or skips the body when the count is 0. (R202) -/
  | loop (c : Fin 32) (f : Machine.Fields)
  /-- Occupies its issue cycle with no effect. (R198) -/
  | nop (c : Fin 32) (f : Machine.Fields)
  /-- Dispatches an array operation, copying its parameter block into the array queue. (R211) -/
  | arrOp (c : Fin 32) (f : Machine.Fields)
  /-- Dispatches a stationary load into the array queue. (R96) -/
  | arrLoad (c : Fin 32) (f : Machine.Fields)
  /-- Dispatches an element command with its parameter block into the element queue. (R152) -/
  | elpCmd (c : Fin 32) (f : Machine.Fields)
  /-- Dispatches a load of one of the four element-pipe configurations. (R151) -/
  | elpCfg (c : Fin 32) (f : Machine.Fields)
  /-- Dispatches a load of one of the four function tables. (R149) -/
  | elpTable (c : Fin 32) (f : Machine.Fields)
  /-- Dispatches a bind of a state handle, setting its fields and making it resident. (R159) -/
  | elpBind (c : Fin 32) (f : Machine.Fields)
  /-- Dispatches a swap-out of a state handle to its home engine address. (R163) -/
  | elpSwapout (c : Fin 32) (f : Machine.Fields)
  /-- Dispatches a swap-in of a state handle from its home engine address. (R163) -/
  | elpSwapin (c : Fin 32) (f : Machine.Fields)
  /-- Dispatches a window command to the convolution engine queue. (R177) -/
  | cnvWin (c : Fin 32) (f : Machine.Fields)
  /-- Dispatches a global-average command to the convolution engine queue. (R190) -/
  | cnvGavg (c : Fin 32) (f : Machine.Fields)
  /-- Dispatches a descriptor list for a stream slot into the stream queue. (R262) -/
  | strGo (c : Fin 32) (f : Machine.Fields)
  /-- Waits until the named stream slot has finished. (R217) -/
  | strWait (c : Fin 32) (f : Machine.Fields)
  /-- Sets a predicate while the named stream slot is busy. (R214) -/
  | strTest (c : Fin 32) (f : Machine.Fields)
  /-- Waits until the named half of the core's buffer has landed. (R274) -/
  | bufAwait (c : Fin 32) (f : Machine.Fields)
  /-- Dispatches a release of a landed buffer half into the stream queue. (R275) -/
  | bufRelease (c : Fin 32) (f : Machine.Fields)
  /-- Injects a put packet carrying a handle to a handle queue and waits for the reply. (R279) -/
  | hqPut (c : Fin 32) (f : Machine.Fields)
  /-- Injects a get request to a handle queue and waits for the handle. (R280) -/
  | hqGet (c : Fin 32) (f : Machine.Fields)
  /-- Sets a predicate when the named handle queue holds a handle. (R214) -/
  | hqTest (c : Fin 32) (f : Machine.Fields)
  /-- Dispatches a 64 B mailbox message to a logical core of the job. (R246) -/
  | mbSend (c : Fin 32) (f : Machine.Fields)
  /-- Claims the earliest unclaimed mailbox entry and dispatches its copy into tile memory. (R251) -/
  | mbRecv (c : Fin 32) (f : Machine.Fields)
  /-- Sets a predicate when the mailbox holds an unclaimed message. (R251) -/
  | mbTest (c : Fin 32) (f : Machine.Fields)
  /-- Dispatches an arrival at a barrier into the message queue. (R255) -/
  | barArrive (c : Fin 32) (f : Machine.Fields)
  /-- Waits while the core's arrivals at a barrier exceed its completions. (R255) -/
  | barWait (c : Fin 32) (f : Machine.Fields)
  /-- Issues a full, acquire or release waypoint over the named units and scope. (R240) -/
  | wpt (c : Fin 32) (f : Machine.Fields)
  /-- Task 0 waits until tasks 1 to 3 are idle and then for the final waypoint. (R222) -/
  | wptFinal (c : Fin 32) (f : Machine.Fields)
  /-- Makes an idle task ready at an entry with copies of s0 to s3. (R215) -/
  | taskDecl (c : Fin 32) (f : Machine.Fields)
  /-- Makes the running task ready and switches if another task is ready. (R220) -/
  | taskYield (c : Fin 32) (f : Machine.Fields)
  /-- Makes the running task idle. (R216) -/
  | taskEnd (c : Fin 32) (f : Machine.Fields)
  /-- A waiting task becomes ready in the A-cycle after its wait condition ceases. (R219) -/
  | taskReady (c : Fin 32) (t : Fin 4)
  /-- An instruction-buffer line fill completes and the held task resumes. (R204) -/
  | instructionBufferMiss (c : Fin 32)
  /-- 2^26 A-cycles without progress stop the core with status 0x0309. (R223) -/
  | coreHang (c : Fin 32)
  /-- A start packet reaches a core, which starts task 0 with its start registers. (R196) -/
  | startPacket (c : Fin 32)
  /-- The array unit takes the command at its queue head and checks it in the stated order. (R94) -/
  | arrayQueueTake (c : Fin 32)
  /-- A stationary load's last row is written and the slot becomes valid and usable. (R96) -/
  | slotLoadComplete (c : Fin 32)
  /-- The array unit issues the tile-memory read of the next streamed vector when fewer than 27 are ahead. (R102) -/
  | streamedVectorRead (c : Fin 32)
  /-- A returned vector is broadcast into the row feeders of every masked array once all have room. (R102) -/
  | broadcastWrite (c : Fin 32)
  /-- In each A-cycle of an operation in issue each masked array issues or freezes. (R104) -/
  | arrayIssueCycle (c : Fin 32)
  /-- A file column reads a finished entry toward the element pipe, applying any row scale. (R114) -/
  | drainRead (c : Fin 32)
  /-- During a gap the arrays issue a dummy cycle at the configured density. (R127) -/
  | stationKeepingDummy (c : Fin 32)
  /-- The element unit takes the command at its queue head and checks it in the stated order. (R153) -/
  | elementQueueTake (c : Fin 32)
  /-- A configuration load completes and applies to later commands. (R151) -/
  | configLoadComplete (c : Fin 32)
  /-- A function table load completes and the table counts as loaded. (R149) -/
  | tableLoadComplete (c : Fin 32)
  /-- A vector enters stage 0 once its inputs are held and lane-register gaps are met. (R144) -/
  | elementVectorEntry (c : Fin 32)
  /-- The output writer converts a vector and writes it to tile memory when granted a bank. (R155) -/
  | outputWriterWrite (c : Fin 32)
  /-- A waiting chunk runs once its handle is resident at its generation. (R160) -/
  | chunkResume (c : Fin 32)
  /-- The state file write-back retires and waiting swaps or binds may proceed. (R162) -/
  | stateWritebackDone (c : Fin 32)
  /-- A state swap-out makes the handle absent, or a swap-in makes it resident. (R163) -/
  | swapComplete (c : Fin 32) (h : Fin 16) (data : List Byte)
  /-- The convolution engine takes a window or global-average command and checks it. (R178) -/
  | convQueueTake (c : Fin 32)
  /-- A line load read of one plane-row is issued into a free line slot. (R174) -/
  | lineLoadRead (c : Fin 32)
  /-- The engine forms the next window vector of a sweep for the bound operation. (R180) -/
  | vectorFormation (c : Fin 32)
  /-- A global average writes its last mean and finishes. (R190) -/
  | globalAverageFinish (c : Fin 32)
  /-- The message unit takes an mb.send, using a credit or requesting credits. (R247) -/
  | mbSendTake (c : Fin 32)
  /-- A credit request reaches a receiver, which grants from its pool or lists the request. (R247) -/
  | creditRequest (src : Fin 32) (dst : Fin 32)
  /-- A credit grant reaches the sender and releases the held mb.send. (R247) -/
  | creditGrant (src : Fin 32) (dst : Fin 32)
  /-- Unused credits returned by a sender reach the receiver's pool. (R247) -/
  | creditReturn (src : Fin 32) (dst : Fin 32)
  /-- A mailbox message occupies an entry of its receiver's mailbox. (R250) -/
  | messageArrival (src : Fin 32) (dst : Fin 32)
  /-- The message unit copies a claimed message to tile memory and frees its entry. (R251) -/
  | mbRecvTake (c : Fin 32)
  /-- The message unit takes a bar.arrive, increments the arrival count and sends an arrival. (R255) -/
  | barArriveTake (c : Fin 32)
  /-- An arrival reaches the barrier unit, which completes the phase on the last one. (R256) -/
  | barrierArrival (c : Fin 32) (b : Fin 256)
  /-- A completion packet reaches a participant and increments its completion count. (R256) -/
  | barrierCompletion (c : Fin 32) (b : Fin 256)
  /-- A waypoint's prior set has finished and been performed and its task may continue. (R240) -/
  | waypointSatisfied (c : Fin 32) (t : Fin 4)
  /-- A release's condition holds and the signalling commands it held proceed. (R242) -/
  | releaseConditionMet (c : Fin 32) (t : Fin 4)
  /-- The final waypoint retires once all writes are acknowledged and the core sends its completion notice. (R41) -/
  | finalWaypointRetire (c : Fin 32)
  /-- The stream engine takes a str.go for an idle slot, reads and checks its descriptor list. (R262) -/
  | strGoTake (c : Fin 32)
  /-- The next descriptor of a list starts after the previous one finishes, with its start checks. (R262) -/
  | descriptorStart (c : Fin 32) (k : Fin 6)
  /-- A buf.release at the stream queue head empties a landed half and increments its generation. (R275) -/
  | bufReleaseTake (c : Fin 32)
  /-- A slot waiting on a landed destination half proceeds once the half is empty at its generation. (R273) -/
  | halfWaitEnd (c : Fin 32) (k : Fin 6)
  /-- A slot issues its next request of up to 1 KiB within the outstanding limits. (R269) -/
  | streamRequestIssue (c : Fin 32)
  /-- Read data returns to a stream slot and is written to its destination. (R269) -/
  | streamReadReturn (c : Fin 32) (k : Fin 6) (n : Nat)
  /-- A transfer finishes when all requests are issued, reads returned and writes performed at core scope. (R270) -/
  | transferFinished (c : Fin 32) (k : Fin 6)
  /-- A put packet reaches the handle queue unit, which appends it or refuses it. (R279) -/
  | hqPutPacket (c : Fin 32) (t : Fin 4)
  /-- A get request reaches the handle queue unit, which replies with the oldest handle or lists it. (R280) -/
  | hqGetRequest (c : Fin 32) (t : Fin 4)
  /-- An accepted or refused reply to a put reaches the core. (R279) -/
  | hqPutReply (c : Fin 32) (t : Fin 4)
  /-- A get reply writes the handle to the register pair. (R280) -/
  | hqGetReply (c : Fin 32) (t : Fin 4)
  /-- A space notice reaches a refused core, whose put is issued again. (R279) -/
  | hqSpaceNotice (c : Fin 32) (t : Fin 4)
  /-- A forwarded chain packet is written by the active chain receive and forwarded to the successor. (R286) -/
  | chainForwardPacket (c : Fin 32) (k : Fin 8)
  /-- A Chart walk request reaches a walker stop and joins, queues or is answered with retry. (R310) -/
  | walkRequest (e : Machine.Engine)
  /-- 64 F-cycles after a retry reply the engine sends its walk request again. (R310) -/
  | walkRequestResend (e : Machine.Engine)
  /-- A free walker takes the oldest queued line and issues its read. (R310) -/
  | walkerTake (f : Fin 2)
  /-- A Chart line returns, is checked, and faults create or join pending entries. (R311) -/
  | chartLineReturn (f : Fin 2) (line : Nat)
  /-- A fill reply fills the engine's Chart cache and the waiting request issues. (R311) -/
  | walkFillReply (e : Machine.Engine)
  /-- A halt reply reaches a faulting engine, which stalls on the fault. (R313) -/
  | walkHaltReply (e : Machine.Engine)
  /-- A retry reply reaches an engine whose walk request found the queue full. (R310) -/
  | walkRetryReply (e : Machine.Engine)
  /-- A fault record packet reaches the ring writer at the control stop. (R314) -/
  | faultRecordPacket (f : Fin 2)
  /-- The ring writer writes a fault record into the partition's fault ring when it has room. (R315) -/
  | faultRecordWrite (p : Fin 8)
  /-- A replay write releases a pending fault entry for re-walk or abort. (R316) -/
  | chtReplay (p : Fin 8) (a : Machine.HostAcc)
  /-- A release reaches the walker, which re-reads the line or refuses the waiters. (R316) -/
  | replayRelease (f : Fin 2)
  /-- An edit go writes a value into consecutive Chart entries or refuses the range. (R318) -/
  | chartEdit (a : Machine.HostAcc)
  /-- A read go copies a Chart entry into CHT_EDIT_VALUE. (R318) -/
  | chartRead (a : Machine.HostAcc)
  /-- An edit or read completes and sets done. (R318) -/
  | chartEditDone
  /-- A move go copies a 64 KiB page between its home and a near frame. (R318) -/
  | pageMove (a : Machine.HostAcc)
  /-- The last write of a page move is acknowledged and done is set. (R318) -/
  | pageMoveDone
  /-- An invalidation go starts sending a Chart range and segment mask to every engine. (R319) -/
  | invalidation (a : Machine.HostAcc)
  /-- An invalidation reaches an engine, which drops lines, reloads segments and marks walks. (R319) -/
  | invalidationReachEngine (e : Machine.Engine)
  /-- An engine acknowledges an invalidation; the last acknowledgement completes it. (R319) -/
  | invalidationAck (e : Machine.Engine)
  /-- A write to CHT_FRING_CFG enables or disables the fault ring, aborting pending entries on disable. (R315) -/
  | faultRingCfgWrite (p : Fin 8) (a : Machine.HostAcc)
  /-- A write to CHT_FRING_HEAD frees ring space for waiting records. (R315) -/
  | faultRingHeadWrite (p : Fin 8) (a : Machine.HostAcc)
  /-- A doorbell arrives, is stamped, and starts a hot run, updates or appends a dispatch entry, or is dropped. (R341) -/
  | doorbell (p : Fin 8) (a : Machine.HostAcc)
  /-- The hot-start logic starts a run of a pinned job once earlier window writes have retired. (R45) -/
  | hotRunStart (p : Fin 8) (r : Fin 8)
  /-- Control core 0 takes the next dispatch queue entry and fetches its ring's next descriptor. (R36) -/
  | dispatchTake
  /-- A fetched descriptor is checked for currency and admitted or refused. (R37) -/
  | descriptorFetchReturn (p : Fin 8) (r : Fin 8)
  /-- Every 1 µs a non-current descriptor is read again, up to 64 times, then doorbell_ahead is set. (R344) -/
  | descriptorReread (p : Fin 8) (r : Fin 8)
  /-- An image header and section table are read and checked. (R226) -/
  | imageHeaderReturn (p : Fin 8) (r : Fin 8) (entries : List Word) (data : List Byte)
  /-- An image load completes and its digest is checked before the cores start. (R227) -/
  | imageLoadDone (c : Fin 32) (data : List Byte)
  /-- A core's completion notice reaches the control stop; the last one leads to the record write. (R42) -/
  | completionNotice (c : Fin 32)
  /-- The fabric acknowledges a completion record write, fixing the completion tick. (R43) -/
  | completionRecordAck (p : Fin 8)
  /-- A vector's outstanding message is acknowledged and any deferred message is sent. (R355) -/
  | interruptMessageAck (v : Machine.MsgVec)
  /-- A write names a hot ring whose pinned job ends after its pending runs. (R348) -/
  | hstUnpin (p : Fin 8) (a : Machine.HostAcc)
  /-- A write moves the partition window base for later accesses. (R330) -/
  | hstWinBaseWrite (p : Fin 8) (a : Machine.HostAcc)
  /-- A write advances the completion ring head, freeing room for waiting records. (R350) -/
  | hstCringHeadWrite (p : Fin 8) (a : Machine.HostAcc)
  /-- A write enables or disables the completion ring, ignored while the partition is busy. (R350) -/
  | hstCringCfgWrite (p : Fin 8) (a : Machine.HostAcc)
  /-- A write configures or enables a submission ring, resetting its positions and stamp. (R335) -/
  | hstRingCfgWrite (p : Fin 8) (r : Fin 8) (a : Machine.HostAcc)
  /-- A host window or full-aperture write to on-chip memory is accepted, checked and sent to its bank. (R329) -/
  | windowWrite (mid : BitVec 8) (addr : BitVec 28) (size : BitVec 2) (data : DWord)
  /-- A host window or full-aperture read of on-chip memory returns its data. (R329) -/
  | windowRead (mid : BitVec 8) (addr : BitVec 28) (size : BitVec 2)
  /-- A window write retires at its bank, releasing starts that waited for it. (R47) -/
  | windowWriteRetire (n : Nat)
  /-- A write to a register with no behaviour of its own takes effect under its access code. (R542) -/
  | registerWrite (mid : BitVec 8) (addr : BitVec 28) (size : BitVec 2) (data : DWord)
  /-- A read returns the highest temperature reading and clears it. (R13) -/
  | thmMaxRead (a : Machine.HostAcc)
  /-- A read returns the tick counter's low word and latches its high word. (R540) -/
  | glbTickLoRead (a : Machine.HostAcc)
  /-- A read returns the low core-tick word and latches the high word. (R410) -/
  | prtCoreTicksLoRead (p : Fin 8) (a : Machine.HostAcc)
  /-- A read of an energy register's low word latches its high word. (R440) -/
  | energyLoRead (k : Fin 4) (a : Machine.HostAcc)
  /-- A write of tail T to a session's sample ring bell publishes sample records. (R363) -/
  | itkBell (p : Fin 8) (a : Machine.HostAcc)
  /-- A decode lane frees and takes a pending video frame or the next sample. (R360) -/
  | intakeLaneFree (l : Fin 4)
  /-- Every 1 µs a non-current sample record is read again, up to 64 times, then sample_ahead is set. (R364) -/
  | sampleRecordReread (p : Fin 8)
  /-- A lane finishes a sample, resolving its slot as decoded, concealed or failed. (R369) -/
  | sampleResolve (l : Fin 4)
  /-- A sample unresolved at its budget is aborted and its slot resolves late. (R376) -/
  | sampleBudgetAbort (l : Fin 4)
  /-- A batch whose slots resolved and writes were acknowledged is prepared in sequence. (R370) -/
  | batchPrepared (p : Fin 8)
  /-- A write frees the oldest prepared batch's buffer. (R371) -/
  | itkBatchFree (p : Fin 8) (a : Machine.HostAcc)
  /-- A write closes the open batch, resolving its untaken slots as empty. (R372) -/
  | itkFlush (p : Fin 8) (a : Machine.HostAcc)
  /-- A write enables or disables a session, checking the buffer stride on enable. (R383) -/
  | itkSessionCfgWrite (p : Fin 8) (a : Machine.HostAcc)
  /-- A video start of frame takes the lowest free slot or drops the frame. (R377) -/
  | startOfFrame (n : Fin 4) (ts : DWord) (fnum : Word)
  /-- A video beat's pixels enter the stream's line buffer toward staging. (R528) -/
  | videoBeat (n : Fin 4) (d : DWord)
  /-- A line ends and its length is fixed by repetition or truncation. (R378) -/
  | endOfLine (n : Fin 4)
  /-- A frame ends, its line count is fixed, and it becomes pending or is dropped when empty. (R378) -/
  | endOfFrame (n : Fin 4)
  /-- An audio block start takes a slot for the audio stream. (R377) -/
  | audioBlockStart (n : Fin 2) (ts : DWord) (fnum : Word)
  /-- Two audio samples enter the audio stream's staging. (R528) -/
  | audioBeat (n : Fin 2) (d : Word)
  /-- An audio block ends and is dispatched without a lane. (R378) -/
  | audioBlockEnd (n : Fin 2)
  /-- A statistics beat is attached to its frame or discarded. (R381) -/
  | statisticsBeat (n : Fin 4) (kind : Bool) (fnum : Word) (data : DWord) (first : Bool)
  /-- A frame record is written once the frame's tensor and statistics writes are acknowledged. (R382) -/
  | frameRecordWrite (n : Fin 6)
  /-- A write frees a recorded frame's slot. (R382) -/
  | frmFree (n : Fin 6) (a : Machine.HostAcc)
  /-- A write configures or enables a frame stream. (R383) -/
  | frmCtrlWrite (n : Fin 6) (a : Machine.HostAcc)
  /-- Setting enable in PRT_CTRL enables the partition if its make-up is valid. (R388) -/
  | partitionEnable (p : Fin 8) (a : Machine.HostAcc)
  /-- Writing reset in PRT_CTRL starts a reset that abandons the partition's jobs. (R450) -/
  | partitionResetRequest (p : Fin 8) (a : Machine.HostAcc)
  /-- A commit makes all staged shares active together if each resource sums to 1,024. (R391) -/
  | prtShareCommit (a : Machine.HostAcc)
  /-- At each 1 ms report window the partition report registers are latched. (R405) -/
  | reportWindowClose
  /-- A write requests watch mode for one partition, refused unless the conditions hold. (R406) -/
  | watchEnter (a : Machine.HostAcc)
  /-- Watch-mode entry completes with other cores off and the PLL at 2.2 GHz. (R407) -/
  | watchEntryComplete
  /-- A write of exit starts a wake from watch mode. (R409) -/
  | watchExit (a : Machine.HostAcc)
  /-- The wake completes and waiting doorbells are taken. (R409) -/
  | wakeComplete
  /-- At each 2 µs interval the controller sets the power target, budgets and core limits. (R420) -/
  | powerIntervalClose (acts : List Machine.Activity) (other : Machine.Activity) (itk : Nat)
  /-- At each 1 ms boundary k is updated and memory and link ceilings move. (R418) -/
  | oneMsBoundary
  /-- The block moves between nominal and economy points. (R412) -/
  | operatingPointChange
  /-- The regulator acknowledges a voltage request and the dividers change. (R412) -/
  | pwVreqAck
  /-- A margin monitor's slack code adjusts the voltage trim. (R413) -/
  | marginReport (c : Fin 32) (code : BitVec 8)
  /-- A rail current sample contributes to measured power. (R418) -/
  | currentSample (rail : Fin 4) (data : Half)
  /-- 100 µs without a current sample returns control to reckoned power and sets tm_lost. (R418) -/
  | telemetryLost
  /-- A temperature sample updates readings and may trip or release the trip. (R437) -/
  | temperatureSample (sensor : Fin 64) (t : Half)
  /-- A sensor silent for 1 ms counts as reading 118 °C. (R531) -/
  | sensorSilent (sensor : Fin 64)
  /-- A write acknowledges an asserted trip. (R438) -/
  | thmTripAck (a : Machine.HostAcc)
  /-- A write sets the cap, limited to PWR_CAP_MAX, from the next interval. (R419) -/
  | pwrCapWrite (a : Machine.HostAcc)
  /-- A commit makes staged power shares active if they sum to 1,024. (R424) -/
  | pwrShareCommit (a : Machine.HostAcc)
  /-- At the effective tick every instance applies the common divider of the job. (R429) -/
  | dividerApply (cj : Half)
  /-- A check detects an error, which is logged and sounded and may start a reset. (R444) -/
  | errorDetected (e : Machine.ErrSite) (detail : Word)
  /-- A sounding ends and classifies the fault as transient or lasting. (R446) -/
  | soundingComplete (u : Machine.SoundUnit) (mismatch : Bool)
  /-- At every tick that is a multiple of 2^32 transient counts halve. (R446) -/
  | transientCountHalve
  /-- All writes and packets of the partition are drained, so sounding and clearing begin. (R451) -/
  | partitionResetDrained (p : Fin 8)
  /-- Sounding, clearing and retirement end and the reset completes. (R451) -/
  | partitionResetComplete (p : Fin 8)
  /-- A control core's watchdog expires and that control core restarts. (R443) -/
  | watchdogExpiry (c : Fin 4)
  /-- A control-core restart completes and its duty resumes. (R443) -/
  | controlCoreRestartDone (c : Fin 4)
  /-- A report go queues the nonce and address for an attestation report. (R464) -/
  | reportRequest (a : Machine.HostAcc)
  /-- The Lodestar takes a one-tick snapshot and signs the report when no hold applies. (R467) -/
  | reportSnapshot
  /-- All report writes are acknowledged; LDS_RPT_SEQ increments and rpt_done is set. (R468) -/
  | reportWritten
  /-- An install go reads and unwraps a key blob into a key slot. (R469) -/
  | keyInstall (a : Machine.HostAcc)
  /-- An install completes and writes its result to LDS_KEY_RESULT. (R470) -/
  | keyInstallDone
  /-- A clear empties a key slot under the idle condition. (R470) -/
  | keyClear (a : Machine.HostAcc)
  /-- A scrub go starts clearing a partition, resetting it first if it is busy. (R481) -/
  | scrubGo (a : Machine.HostAcc)
  /-- A scrub completes: the epoch increments, scrub clears and the message is sent. (R484) -/
  | scrubComplete (p : Fin 8)
  /-- Writing lock makes the access tables and peer entries immutable until reset. (R476) -/
  | ldsAccLockWrite (a : Machine.HostAcc)
  /-- A handshake message is received and keys are derived or the peer refused. (R478) -/
  | linkHandshake (l : Fin 4) (key : List Byte) (eph : List Byte) (sig : List Byte) (start : Nat)
  /-- A frame counter reaching 2^47 starts a new handshake. (R479) -/
  | rekeyTrigger (l : Fin 4)
  /-- A counter reaching 2^48 − 2^32 without new keys stops the direction and takes the link down. (R479) -/
  | counterEnd (l : Fin 4)
  /-- Every lane of a link reports SerDes lock and training begins. (R489) -/
  | laneLock (l : Fin 4)
  /-- A lane losing lock on an up link starts a retrain. (R529) -/
  | laneLockLoss (l : Fin 4) (lane : Fin 8)
  /-- A training set is received and the link advances or fails training. (R489) -/
  | trainingSet (l : Fin 4) (node : BitVec 8) (major : BitVec 8) (minor : BitVec 8) (slow : Bool) (width : Nat) (pass : BitVec 8) (date : Bool)
  /-- 1 ms after a failure the link restarts training. (R489) -/
  | trainingRetry (l : Fin 4)
  /-- A frame slot begins and a data, idle or control frame is sent. (R488) -/
  | frameSlot (l : Fin 4)
  /-- A data frame is checked and accepted, forwarded in transit, or rejected for replay. (R492) -/
  | dataFrameReceive (l : Fin 4) (bs : List Byte)
  /-- An acknowledgement frees acknowledged frames from the replay buffer. (R492) -/
  | linkAck (l : Fin 4) (seq : Nat)
  /-- A negative acknowledgement makes the sender resend from the named frame. (R492) -/
  | linkNack (l : Fin 4) (seq : Nat)
  /-- A credit return restores send credits of a class. (R491) -/
  | linkCreditReturn (l : Fin 4) (cls : Fin 4) (n : Nat)
  /-- A link lane sounding ends and the link retrains at ×4 or goes down. (R493) -/
  | linkSoundingComplete (l : Fin 4) (failed : BitVec 8)
  /-- Every 10 µs an instance sends a timestamped request toward the time master. (R496) -/
  | timeExchange (l : Fin 4)
  /-- A time reply gives the offset, and the tick counter slews toward the master. (R496) -/
  | timeReply (l : Fin 4) (t2 : DWord) (t3 : DWord) (hops : BitVec 8)
  /-- A remote read request cell is served through the inbound window. (R497) -/
  | remoteReadRequest (l : Fin 5) (len : Nat)
  /-- Remote read response frames return data to the requester. (R497) -/
  | remoteReadResponse (l : Fin 5)
  /-- Remote write frames are performed through the inbound window and acknowledged. (R497) -/
  | remoteWrite (l : Fin 5) (last : Bool)
  /-- A write acknowledgement cell retires a remote write. (R497) -/
  | remoteWriteAck (l : Fin 5) (tag : Half)
  /-- An error cell for a refused remote access stops the sending core with 0x0806. (R497) -/
  | remoteErrorCell (l : Fin 5) (tag : Half)
  /-- A handle cell for a bound queue is delivered to the remote queue unit or the core. (R498) -/
  | handleCell (l : Fin 5) (m : Machine.HandleMsg)
  /-- A member's local chain-barrier completion reaches the root. (R499) -/
  | chainBarrierArrivalCell (l : Fin 5) (cj : Half) (bar : BitVec 8) (ph : Half)
  /-- A chain-wide completion reaches a member, which delivers it to its cores. (R499) -/
  | chainBarrierCompletionCell (l : Fin 5) (cj : Half) (bar : BitVec 8)
  /-- A divider proposal from another instance sets the job's common divider and effective tick. (R429) -/
  | dividerProposalCell (l : Fin 5) (cj : Half) (div : Nat) (tick : DWord)
  /-- A down notice ends multi-instance jobs that count a lost node. (R500) -/
  | downNotice (l : Fin 5) (nodes : List Nat)
  /-- A restart cell resets the job's partition and replays the job. (R501) -/
  | restartCell (l : Fin 5) (cj : Half) (n : Nat)
  /-- Assertion of RST_POR_N resets the block. (R534) -/
  | porAssert
  /-- Deassertion of RST_POR_N starts the start-up phases. (R504) -/
  | porDeassert (nvMode : Bool) (nvSpeed : BitVec 2)
  /-- Fuse sensing ends and the PLL lock begins. (R504) -/
  | fuseSenseDone (f : Machine.Fuses)
  /-- The Meridian PLL locks and clocks are released. (R504) -/
  | pllLock
  /-- ROM boot and remap end, or the block halts with too few good cores. (R504) -/
  | binnacleBootDone
  /-- NVM discovery selects the read mode. (R506) -/
  | nvmDiscoveryDone (mode : BitVec 4) (addr4 : Bool)
  /-- An Almanac copy is read and checked, and the copy to use is chosen. (R509) -/
  | copyReadDone (data : List Byte)
  /-- Firmware starts and the sections, defaults and commits are applied. (R511) -/
  | sectionsApplied
  /-- The Chart region and memories are cleared and the block becomes ready. (R504) -/
  | chartClearDone
  /-- The Lodestar finishes deriving the device key. (R462) -/
  | deviceKeyDerived
  /-- A load go checks a pushed image in await-host and continues start-up. (R515) -/
  | almLoad (a : Machine.HostAcc)
  /-- A program go checks an image and writes it to the copy not in use. (R516) -/
  | almProgram (a : Machine.HostAcc)
  /-- An activate go replaces the running firmware when every partition is idle. (R516) -/
  | almActivate (a : Machine.HostAcc)
  /-- A program or activation ends, setting done and ALM_RESULT. (R516) -/
  | almOperationDone (nvOk : Bool)
  /-- A power-down request is answered with NACK or the block prepares for down-ready. (R533) -/
  | pwDownReq (level : Bool)
  /-- After pending writes are acknowledged PW_DOWN_ACK rises and PW_MODE reads 3. (R533) -/
  | downReady
  /-- A read response beat arrives on a fabric or near-memory channel. (R522) -/
  | fabricReadResponse (ch : Nat) (tag : Nat) (data : List Byte) (last : Bool) (err : Bool)
  /-- A write acknowledgement arrives on a fabric or near-memory channel. (R522) -/
  | fabricWriteAck (ch : Nat) (tag : Nat) (err : Bool)
  /-- 1 µs after an error an access made for no job is retried once. (R524) -/
  | fabricRetry (n : Nat)
  /-- A host write to FRM_Sn_REC_HEAD advances a stream's frame record ring head and frees room for frame records waiting on a full ring. (R382) -/
  | frmRecHeadWrite (n : Fin 6) (a : Machine.HostAcc)
  /-- An edge of the IEEE 1149.1 test clock advances the test port, which carries out BYPASS, SAMPLE/PRELOAD, EXTEST or IDCODE and ignores internal scan while R474 applies. (R535) -/
  | testPortTck (rise : Bool) (tms : Bool) (tdi : Bool) (trst : Bool)
deriving DecidableEq, Repr

end Sys2Proof
end

