-- ==== Sys2Proof/Decode.lean ====
section
/-! DEFINITION. The command a word spells by the opcode table's bits. The table gives no row any bits (its `fields` are
empty): a core instruction's class, operation and operand fields reach the block as the command's own operands (Table 6.2),
and every other row is an event or a host access. So no word spells a command. -/

namespace Sys2Proof

/-- No row of the opcode table has bits. (DEDUCED, log 4) -/
def decodeTableWord (_nbits _w : Nat) : Option Instr := none

end Sys2Proof
end

