-- ==== Sys2Proof/Machine/Bits.lean ====
section
/-! DEFINITION. Bit fields, byte order and small list helpers every unit uses (R12: fields are [high:low], bit 0
least significant, memory little-endian). -/

namespace Sys2Proof.Machine

/-- Field [hi:lo] of a number. -/
def fld (hi lo x : Nat) : Nat := (x >>> lo) % 2 ^ (hi + 1 - lo)

/-- Bit [n] of a number. -/
def bitOf (n x : Nat) : Bool := x.testBit n

/-- 1 for true. -/
def b2n (b : Bool) : Nat := if b then 1 else 0

/-- A value placed at bit `lo`. -/
def at' (lo x : Nat) : Nat := x <<< lo

/-- A field of `w` bits read as two's complement. -/
def sext (w x : Nat) : Int := if x.testBit (w - 1) then (x % 2 ^ w : Nat) - (2 ^ w : Int) else (x % 2 ^ w : Nat)

/-- An integer narrowed to `w` bits, two's complement. -/
def narrow (w : Nat) (x : Int) : Nat := (x % (2 ^ w : Int)).toNat

/-- The little-endian value of a byte list. -/
def ofLe : List Byte → Nat
  | [] => 0
  | b :: bs => b.toNat + 256 * ofLe bs

/-- `n` little-endian bytes of a value. -/
def toLe : Nat → Nat → List Byte
  | 0, _ => []
  | n + 1, x => BitVec.ofNat 8 x :: toLe n (x / 256)

/-- The big-endian value of a byte list. -/
def ofBe (bs : List Byte) : Nat := bs.foldl (fun a b => a * 256 + b.toNat) 0

/-- `n` big-endian bytes of a value. -/
def toBe (n x : Nat) : List Byte := (toLe n x).reverse

/-- `n` bytes at offset `off` of a byte list, zeros beyond its end. -/
def slice (bs : List Byte) (off n : Nat) : List Byte :=
  let r := (bs.drop off).take n
  r ++ List.replicate (n - r.length) 0#8

/-- The little-endian field of `n` bytes at an offset. -/
def leAt (bs : List Byte) (off n : Nat) : Nat := ofLe (slice bs off n)

/-- One element of a list changed by a function; an index beyond the list changes nothing. -/
def modAt {α : Type} (l : List α) (i : Nat) (f : α → α) : List α :=
  match l, i with
  | [], _ => []
  | x :: xs, 0 => f x :: xs
  | x :: xs, i + 1 => x :: modAt xs i f

/-- One element of a list replaced. -/
def setAt {α : Type} (l : List α) (i : Nat) (x : α) : List α := modAt l i (fun _ => x)

/-- Remove the element at an index. -/
def dropAt {α : Type} (l : List α) (i : Nat) : List α := l.take i ++ l.drop (i + 1)

/-- The sum of a list. -/
def sumNat (l : List Nat) : Nat := l.foldl (· + ·) 0

/-- Ceiling division. -/
def cdiv (a b : Nat) : Nat := (a + b - 1) / b

/-- A counter of `w` bits that stops at its largest value. -/
def satAdd (w a b : Nat) : Nat := min (2 ^ w - 1) (a + b)

/-- One more on a 32-bit word, wrapping. -/
def inc32 (x : Word) (n : Nat) : Word := x + BitVec.ofNat 32 n

/-- One more on a 32-bit saturating counter. -/
def sat32 (x : Word) (n : Nat) : Word := BitVec.ofNat 32 (satAdd 32 x.toNat n)

/-- Split a list into pieces of `n`. -/
def chunks {α : Type} (n : Nat) : Nat → List α → List (List α)
  | 0, _ => []
  | k + 1, l => l.take n :: chunks n k (l.drop n)

/-- x before the first entry of an ordered list that it may precede. -/
def insertBy {α : Type} (le : α → α → Bool) (x : α) : List α → List α
  | [] => [x]
  | y :: ys => if le x y then x :: y :: ys else y :: insertBy le x ys

/-- A list in the order of `le`, equals in their old order. -/
def sortBy {α : Type} (le : α → α → Bool) (l : List α) : List α := l.foldr (insertBy le) []

end Sys2Proof.Machine
end

