-- ==== Sys2Proof/Machine/Flags.lean ====
section
/-! DEFINITION. The sticky numeric flags of CORE_NUM_STATUS (R87, Table 2.9) and how they gather. -/

namespace Sys2Proof.Machine

/-- The five flags of Table 2.9. -/
structure NumFlags where
  nanIn : Bool
  invalid : Bool
  overflow : Bool
  intSat : Bool
  mxNan : Bool
deriving DecidableEq, Repr

/-- No flag raised. -/
def NumFlags.none : NumFlags := ⟨false, false, false, false, false⟩

/-- A flag raised by either stays raised: the flags are sticky (Table 2.9). -/
def NumFlags.or (a b : NumFlags) : NumFlags :=
  ⟨a.nanIn || b.nanIn, a.invalid || b.invalid, a.overflow || b.overflow, a.intSat || b.intSat, a.mxNan || b.mxNan⟩

def NumFlags.ofNan (b : Bool) : NumFlags := { NumFlags.none with nanIn := b }
def NumFlags.ofInvalid (b : Bool) : NumFlags := { NumFlags.none with invalid := b }
def NumFlags.ofOverflow (b : Bool) : NumFlags := { NumFlags.none with overflow := b }
def NumFlags.ofIntSat (b : Bool) : NumFlags := { NumFlags.none with intSat := b }
def NumFlags.ofMx (b : Bool) : NumFlags := { NumFlags.none with mxNan := b }

/-- The flags of a list of results. -/
def NumFlags.all (l : List NumFlags) : NumFlags := l.foldl NumFlags.or NumFlags.none

/-- CORE_NUM_STATUS as a register (Table 2.9). -/
def NumFlags.toWord (f : NumFlags) : Word :=
  BitVec.ofNat 32 (b2n f.nanIn + 2 * b2n f.invalid + 4 * b2n f.overflow + 8 * b2n f.intSat + 16 * b2n f.mxNan)

/-- The flags a W1C write leaves: each 1 clears its flag (Table 0.4). -/
def NumFlags.clearBy (f : NumFlags) (w : Word) : NumFlags :=
  ⟨f.nanIn && !w.getLsbD 0, f.invalid && !w.getLsbD 1, f.overflow && !w.getLsbD 2, f.intSat && !w.getLsbD 3,
    f.mxNan && !w.getLsbD 4⟩

end Sys2Proof.Machine
end

