-- ==== Sys2Proof/Machine/Float.lean ====
section
/-! DEFINITION. Numbers: the formats of Tables 2.1 and 2.2, exact values, rounding (R70 to R75), conversion
(R80 to R82), binary32 arithmetic and compensated pairs (R84 to R86). -/

namespace Sys2Proof.Machine

/-- An exact value: NaN, an infinity, or (-1)^neg × m × 2^e. Zero keeps its sign. -/
inductive Val where
  | nan
  | inf (neg : Bool)
  | fin (neg : Bool) (m : Nat) (e : Int)
deriving DecidableEq, Repr

/-- How a floating format spends its top exponent (Table 2.2). -/
inductive TopCode where
  | ieee      -- all ones: infinity or NaN
  | onlyNan   -- E4M3: all ones with mantissa 0b111 is NaN, the rest are numbers
  | finite    -- the MX element formats: no infinity, no NaN
deriving DecidableEq, Repr

/-- A floating format: exponent and mantissa widths, bias, top code, and the canonical NaN of R56. -/
structure FloatFmt where
  eb : Nat
  mb : Nat
  bias : Nat
  top : TopCode
  qnan : Nat
deriving DecidableEq, Repr

def FloatFmt.e4m3 : FloatFmt := ⟨4, 3, 7, .onlyNan, 0x7F⟩
def FloatFmt.e5m2 : FloatFmt := ⟨5, 2, 15, .ieee, 0x7F⟩
def FloatFmt.e2m3 : FloatFmt := ⟨2, 3, 1, .finite, 0⟩
def FloatFmt.e3m2 : FloatFmt := ⟨3, 2, 3, .finite, 0⟩
def FloatFmt.e2m1 : FloatFmt := ⟨2, 1, 1, .finite, 0⟩
def FloatFmt.b16 : FloatFmt := ⟨5, 10, 15, .ieee, 0x7E00⟩
def FloatFmt.bf16 : FloatFmt := ⟨8, 7, 127, .ieee, 0x7FC0⟩
def FloatFmt.b32 : FloatFmt := ⟨8, 23, 127, .ieee, 0x7FC00000⟩

/-- The unit of the smallest subnormal: 2^(1 − bias − mb). -/
def FloatFmt.qmin (f : FloatFmt) : Int := 1 - (f.bias : Int) - (f.mb : Int)

/-- The encoding of the largest finite magnitude (Table 2.2). -/
def FloatFmt.maxRaw (f : FloatFmt) : Nat :=
  match f.top with
  | .ieee => (2 ^ f.eb - 1) * 2 ^ f.mb - 1
  | .onlyNan => 2 ^ (f.eb + f.mb) - 2
  | .finite => 2 ^ (f.eb + f.mb) - 1

/-- The encoding of infinity, for the formats that have one. -/
def FloatFmt.infRaw (f : FloatFmt) : Nat := (2 ^ f.eb - 1) * 2 ^ f.mb

/-- Set the sign bit of a magnitude. -/
def FloatFmt.sign (f : FloatFmt) (neg : Bool) (raw : Nat) : Nat := if neg then raw + 2 ^ (f.eb + f.mb) else raw

/-- Decoding (R55, Table 2.2). -/
def FloatFmt.decode (f : FloatFmt) (raw : Nat) : Val :=
  let s := raw.testBit (f.eb + f.mb)
  let e := (raw >>> f.mb) % 2 ^ f.eb
  let m := raw % 2 ^ f.mb
  if f.top = .ieee ∧ e = 2 ^ f.eb - 1 then (if m = 0 then .inf s else .nan)
  else if f.top = .onlyNan ∧ e = 2 ^ f.eb - 1 ∧ m = 2 ^ f.mb - 1 then .nan
  else if e = 0 then .fin s m f.qmin
  else .fin s (2 ^ f.mb + m) (f.qmin + (e : Int) - 1)

/-- The rounding modes of R70; a stochastic rounding carries the generator's current state r (R74). -/
inductive Rnd where
  | rne
  | rtz
  | sto (r : Nat)
deriving DecidableEq, Repr

/-- The magnitude m × 2^e as a whole number of 2^q, rounded (R70, R74). (DEDUCED, log 35) -/
def roundAt (mode : Rnd) (m : Nat) (e q : Int) : Nat :=
  if q ≤ e then m * 2 ^ (e - q).toNat
  else
    let k := (q - e).toNat
    let t := m >>> k
    let rem := m % 2 ^ k
    match mode with
    | .rne => if 2 ^ k < 2 * rem ∨ (2 * rem = 2 ^ k ∧ t % 2 = 1) then t + 1 else t
    | .rtz => t
    | .sto r => if 65536 ≤ rem * 65536 / 2 ^ k + r then t + 1 else t

/-- A nonzero magnitude rounded to the format's precision: the encoding it has with an unbounded exponent range
above, which exceeds `maxRaw` exactly when the rounded magnitude exceeds the maximum finite value. -/
def FloatFmt.roundMag (f : FloatFmt) (mode : Rnd) (m : Nat) (e : Int) : Nat :=
  if m = 0 then 0
  else
    let q := max ((m.log2 : Int) + e - f.mb) f.qmin
    (q - f.qmin).toNat * 2 ^ f.mb + roundAt mode m e q

/-- Rounding to a floating format with the overflow rule of R71: the encoding, and whether it overflowed. A stochastic rounding that
keeps a magnitude above the maximum finite value at that value is no overflow. (DESIGN CHOICE, log 79) -/
def FloatFmt.round (f : FloatFmt) (mode : Rnd) (neg : Bool) (m : Nat) (e : Int) : Nat × Bool :=
  let raw := f.roundMag mode m e
  if raw ≤ f.maxRaw then (f.sign neg raw, false)
  else
    match mode with
    | .rtz => (f.sign neg f.maxRaw, true)
    | _ => (f.sign neg f.infRaw, true)

/-! ## binary32 -/

/-- The value of a binary32 word. -/
def f32Val (w : Nat) : Val := FloatFmt.b32.decode w

/-- An exact value rounded to binary32; NaN becomes the canonical NaN (R56). -/
def f32Round (mode : Rnd) (v : Val) : Nat × NumFlags :=
  match v with
  | .nan => (FloatFmt.b32.qnan, .none)
  | .inf s => (FloatFmt.b32.sign s FloatFmt.b32.infRaw, .none)
  | .fin s m e => let r := FloatFmt.b32.round mode s m e; (r.1, .ofOverflow r.2)

def Val.isNan : Val → Bool
  | .nan => true
  | _ => false

def Val.isInf : Val → Bool
  | .inf _ => true
  | _ => false

def Val.isZero : Val → Bool
  | .fin _ 0 _ => true
  | _ => false

def Val.neg : Val → Val
  | .nan => .nan
  | .inf s => .inf (!s)
  | .fin s m e => .fin (!s) m e

def Val.abs : Val → Val
  | .nan => .nan
  | .inf _ => .inf false
  | .fin _ m e => .fin false m e

def Val.sgn : Val → Bool
  | .nan => false
  | .inf s => s
  | .fin s _ _ => s

/-- An integer as an exact value. -/
def Val.ofInt (i : Int) : Val := .fin (decide (i < 0)) i.natAbs 0

/-- The signed significand at unit 2^q, for q at or below e. -/
def scaledInt (s : Bool) (m : Nat) (e q : Int) : Int :=
  let x : Int := (m * 2 ^ (e - q).toNat : Nat)
  if s then -x else x

/-- The exact product (R65); 0 × ∞ is NaN. -/
def Val.mul : Val → Val → Val
  | .nan, _ => .nan
  | _, .nan => .nan
  | .inf a, .inf b => .inf (a != b)
  | .inf a, .fin b m _ => if m = 0 then .nan else .inf (a != b)
  | .fin a m _, .inf b => if m = 0 then .nan else .inf (a != b)
  | .fin a m e, .fin b n f => .fin (a != b) (m * n) (e + f)

/-- The exact sum; opposite infinities give NaN; an exact zero sum is +0 unless both are −0. -/
def Val.add : Val → Val → Val
  | .nan, _ => .nan
  | _, .nan => .nan
  | .inf a, .inf b => if a = b then .inf a else .nan
  | .inf a, .fin _ _ _ => .inf a
  | .fin _ _ _, .inf b => .inf b
  | .fin a m e, .fin b n f =>
    let q := min e f
    let x := scaledInt a m e q + scaledInt b n f q
    if x = 0 then .fin (a && b && decide (m = 0) && decide (n = 0)) 0 q else .fin (decide (x < 0)) x.natAbs q

def Val.sub (a b : Val) : Val := a.add b.neg

/-- Ordering key of two values that are not NaN: a < b. Zeros compare equal. -/
def Val.lt : Val → Val → Bool
  | .nan, _ => false
  | _, .nan => false
  | .inf a, .inf b => a && !b
  | .inf a, .fin _ _ _ => a
  | .fin _ _ _, .inf b => !b
  | .fin a m e, .fin b n f =>
    let q := min e f
    decide (scaledInt a m e q < scaledInt b n f q)

/-- Numeric equality: +0 equals −0, NaN equals nothing (R79). -/
def Val.eqv (a b : Val) : Bool := !a.isNan && !b.isNan && !a.lt b && !b.lt a

/-- The smaller of two values that are not NaN; −0 is below +0 (R79). -/
def Val.vmin (a b : Val) : Val :=
  if a.lt b then a else if b.lt a then b else if a.sgn then a else b

/-- The larger of two values that are not NaN; +0 is above −0 (R79). -/
def Val.vmax (a b : Val) : Val :=
  if a.lt b then b else if b.lt a then a else if a.sgn then b else a

/-- The flags of an operation on binary32 values (Table 2.9): nan_in for a NaN operand, invalid for a NaN made
from operands that are none, overflow from the rounding. -/
def opFlags (args : List Val) (r : Val) (ovf : NumFlags) : NumFlags :=
  let n := args.any Val.isNan
  NumFlags.or (.ofNan n) (NumFlags.or (.ofInvalid (r.isNan && !n)) ovf)

/-- One binary32 operation: the exact result rounded once to nearest even (section 2, Conversion). -/
def f32Op (args : List Val) (r : Val) : Nat × NumFlags :=
  let o := f32Round .rne r
  (o.1, opFlags args r o.2)

def f32Add (a b : Nat) : Nat × NumFlags := f32Op [f32Val a, f32Val b] ((f32Val a).add (f32Val b))
def f32Sub (a b : Nat) : Nat × NumFlags := f32Op [f32Val a, f32Val b] ((f32Val a).sub (f32Val b))
def f32Mul (a b : Nat) : Nat × NumFlags := f32Op [f32Val a, f32Val b] ((f32Val a).mul (f32Val b))
def f32Fma (a b c : Nat) : Nat × NumFlags :=
  f32Op [f32Val a, f32Val b, f32Val c] (((f32Val a).mul (f32Val b)).add (f32Val c))
def f32Neg (a : Nat) : Nat := if a.testBit 31 then a - 2 ^ 31 else a + 2 ^ 31

/-! ## Integers -/

/-- The range of an integer code with its u bit (R53). -/
def intRange (code : Nat) (u : Bool) : Int × Int :=
  let w := match code with
    | 0 => 4
    | 1 => 8
    | 2 => 16
    | _ => 32
  if u ∧ code ≠ 3 then (0, 2 ^ w - 1) else (-(2 ^ (w - 1)), 2 ^ (w - 1) - 1)

/-- Saturation to a range, with int_sat (R66, Table 2.6). -/
def satInt (lo hi x : Int) : Int × NumFlags :=
  if x < lo then (lo, .ofIntSat true) else if hi < x then (hi, .ofIntSat true) else (x, .none)

def satI32 (x : Int) : Int × NumFlags := satInt (-(2 ^ 31)) (2 ^ 31 - 1) x

/-- An exact value rounded to an integer in a mode. -/
def roundInt (mode : Rnd) (neg : Bool) (m : Nat) (e : Int) : Int :=
  let x : Int := roundAt mode m e 0
  if neg then -x else x

/-! ## Format codes (Table 2.1) -/

/-- A format: code, unsigned bit u and tiered bit t (R51). -/
structure Fmt where
  code : Nat
  u : Bool
  t : Bool
deriving DecidableEq, Repr

/-- The six bits a parameter block gives a format: code in [3:0], u in [4], t in [5]. -/
def Fmt.ofBits (x : Nat) : Fmt := ⟨x % 16, x.testBit 4, x.testBit 5⟩

def Fmt.isInt (f : Fmt) : Bool := f.code ≤ 3
def Fmt.isFloat (f : Fmt) : Bool := 4 ≤ f.code && f.code ≤ 8
def Fmt.isMx (f : Fmt) : Bool := 9 ≤ f.code && f.code ≤ 14

/-- A code that is not reserved, with u and t only where they are meaningful (R51, R52). -/
def Fmt.meaningful (f : Fmt) : Bool := f.code < 15 && (!f.u || f.code ≤ 2) && (!f.t || f.isMx)

/-- Element width in bits (Table 2.1). -/
def Fmt.bits (f : Fmt) : Nat :=
  match f.code with
  | 0 => 4
  | 1 => 8
  | 2 => 16
  | 3 => 32
  | 4 => 8
  | 5 => 8
  | 6 => 16
  | 7 => 16
  | 8 => 32
  | 9 => 8
  | 10 => 8
  | 11 => 6
  | 12 => 6
  | 13 => 4
  | 14 => 8
  | _ => 8

/-- The floating format of a floating or MX code's elements. -/
def Fmt.float (f : Fmt) : FloatFmt :=
  match f.code with
  | 4 => .e4m3
  | 5 => .e5m2
  | 6 => .b16
  | 7 => .bf16
  | 9 => .e4m3
  | 10 => .e5m2
  | 11 => .e2m3
  | 12 => .e3m2
  | 13 => .e2m1
  | _ => .b32

/-- Bytes that `n` elements occupy (R54, R60). -/
def Fmt.bytes (f : Fmt) (n : Nat) : Nat := cdiv (n * f.bits) 8

/-- Element `i` of packed bytes (R54, R60): elements are packed from bit 0 up, little-endian. -/
def Fmt.raw (f : Fmt) (bs : List Byte) (i : Nat) : Nat :=
  let lo := i * f.bits
  (leAt bs (lo / 8) 5 >>> (lo % 8)) % 2 ^ f.bits

/-- Elements packed into bytes. -/
def Fmt.pack (f : Fmt) (raws : List Nat) : List Byte :=
  toLe (f.bytes raws.length) (raws.foldr (fun r a => r % 2 ^ f.bits + a * 2 ^ f.bits) 0)

/-- An integer element's value (R53). -/
def Fmt.int (f : Fmt) (raw : Nat) : Int := if f.u then (raw : Int) else sext f.bits raw

/-- An element's exact value; MXINT8 carries the factor 2^−6 (R59). -/
def Fmt.val (f : Fmt) (raw : Nat) : Val :=
  if f.isInt then .ofInt (f.int raw)
  else if f.code = 14 then
    let i := sext 8 raw
    .fin (decide (i < 0)) i.natAbs (-6)
  else f.float.decode raw

/-- An element scaled by its block's E8M0 scale byte (R58, R65, R69): 0xFF makes it NaN. -/
def mxScale (k : Nat) (v : Val) : Val :=
  if k = 255 then .nan
  else
    match v with
    | .fin s m e => .fin s m (e + (k : Int) - 127)
    | x => x

/-! ## Conversion (R80 to R82) -/

/-- Conversion of an exact value to a floating code 0x4 to 0x8 (Table 2.6, R81). `nanOp`: the source is an
operand of the conversion, so a NaN sets nan_in (Table 2.9). -/
def convFloat (f : Fmt) (sat : Bool) (mode : Rnd) (v : Val) : Nat × NumFlags :=
  let g := f.float
  match v with
  | .nan => (g.qnan, .ofNan true)
  | .inf s =>
    if f.code = 8 then (g.sign s g.infRaw, .none)
    else if sat then
      (if f.code = 4 ∨ f.code = 5 then (g.sign s g.maxRaw, .ofOverflow true)
       else (g.sign s g.maxRaw, .ofOverflow true))
    else if f.code = 4 then (g.qnan, .ofInvalid true)
    else (g.sign s g.infRaw, .none)
  | .fin s m e =>
    let raw := g.roundMag mode m e
    if raw ≤ g.maxRaw then (g.sign s raw, .none)
    else if f.code = 8 then
      let r := g.round mode s m e
      (r.1, .ofOverflow true)
    else if sat then (g.sign s g.maxRaw, .ofOverflow true)
    else if f.code = 4 then (g.qnan, .ofOverflow true)
    else if f.code = 5 then (g.sign s g.infRaw, .ofOverflow true)
    else
      let r := g.round mode s m e
      (r.1, .ofOverflow true)

/-- Conversion of an exact value to an integer code (Table 2.6). -/
def convInt (f : Fmt) (mode : Rnd) (v : Val) : Nat × NumFlags :=
  let r := intRange f.code f.u
  match v with
  | .nan => (0, NumFlags.or (.ofInvalid true) (.ofNan true))
  | .inf s => (narrow f.bits (if s then r.1 else r.2), .ofIntSat true)
  | .fin s m e =>
    let x := satInt r.1 r.2 (roundInt mode s m e)
    (narrow f.bits x.1, x.2)

/-- The largest element exponent of an MX code (R82). -/
def mxEmax (code : Nat) : Int :=
  match code with
  | 9 => 8
  | 10 => 15
  | 11 => 2
  | 12 => 4
  | 13 => 2
  | _ => 0

/-- floor(log2) of the magnitude of a finite nonzero value. -/
def Val.exp : Val → Int
  | .fin _ m e => (m.log2 : Int) + e
  | _ => 0

/-- One block converted to an MX code (R82): the scale byte, the element encodings and the flags. The list pairs
each lane's value with its rounding. (DEDUCED, log 35) -/
def convMx (f : Fmt) (vs : List (Val × Rnd)) : Nat × List Nat × NumFlags :=
  let anyInf := vs.any (fun p => p.1.isInf)
  let anyNan := vs.any (fun p => p.1.isNan)
  if anyInf || anyNan then
    (255, vs.map (fun _ => 0), NumFlags.or (.ofInvalid anyInf) (.ofNan anyNan))
  else
    let nz := vs.filter (fun p => !p.1.isZero)
    match nz with
    | [] => (0, vs.map (fun _ => 0), .none)
    | p :: ps =>
      let top := ps.foldl (fun a q => max a q.1.exp) p.1.exp
      let x := max (top - mxEmax f.code) (-127)
      let el := fun (q : Val × Rnd) =>
        match q.1 with
        | .fin s m e =>
          if f.code = 14 then
            let i := roundInt q.2 s m (e + 6 - x)
            narrow 8 (max (-127) (min 127 i))
          else
            let g := f.float
            g.sign s (min g.maxRaw (g.roundMag q.2 m (e - x)))
        | _ => 0
      ((x + 127).toNat, vs.map el, .none)

/-! ## Compensated pairs (R84 to R86) -/

/-- A compensated pair of binary32 words. -/
abbrev Pair := Nat × Nat

/-- R86: when v of a pair result is NaN or infinite, e is +0. -/
def pairFix (p : Pair) : Pair :=
  match f32Val p.1 with
  | .fin _ _ _ => p
  | _ => (p.1, 0)

/-- Only invalid and overflow come from the intermediate operations of a pair operation (R86). -/
def midFlags (l : List NumFlags) : NumFlags :=
  let a := NumFlags.all l
  { a with nanIn := false }

/-- fast_two_sum of R85. -/
def fastTwoSum (a b : Nat) : Pair × NumFlags :=
  let s := f32Add a b
  let d := f32Sub s.1 a
  let t := f32Sub b d.1
  (pairFix (s.1, t.1), midFlags [s.2, d.2, t.2])

/-- two_sum of R85. -/
def twoSum (a b : Nat) : Pair × NumFlags :=
  let s := f32Add a b
  let bb := f32Sub s.1 a
  let c := f32Sub s.1 bb.1
  let d := f32Sub a c.1
  let e := f32Sub b bb.1
  let t := f32Add d.1 e.1
  ((s.1, t.1), midFlags [s.2, bb.2, c.2, d.2, e.2, t.2])

/-- pair_add of R85. -/
def pairAdd (x y : Pair) : Pair × NumFlags :=
  let st := twoSum x.1 y.1
  let ee := f32Add x.2 y.2
  let t := f32Add st.1.2 ee.1
  let r := fastTwoSum st.1.1 t.1
  (r.1, NumFlags.or (midFlags [st.2, ee.2, t.2, r.2])
    (.ofNan ([x.1, x.2, y.1, y.2].any (fun w => (f32Val w).isNan))))

/-- pair_mul of R85. -/
def pairMul (x y : Pair) : Pair × NumFlags :=
  let p := f32Mul x.1 y.1
  let q := f32Fma x.1 y.1 (f32Neg p.1)
  let q1 := f32Fma x.1 y.2 q.1
  let q2 := f32Fma x.2 y.1 q1.1
  let r := fastTwoSum p.1 q2.1
  (r.1, NumFlags.or (midFlags [p.2, q.2, q1.2, q2.2, r.2])
    (.ofNan ([x.1, x.2, y.1, y.2].any (fun w => (f32Val w).isNan))))

/-- pair_fma of R85: the pair product added to a pair, with no single rounding. -/
def pairFma (x y z : Pair) : Pair × NumFlags :=
  let m := pairMul x y
  let a := pairAdd m.1 z
  (a.1, NumFlags.or (midFlags [m.2, a.2])
    (.ofNan ([x.1, x.2, y.1, y.2, z.1, z.2].any (fun w => (f32Val w).isNan))))

/-! ## The stochastic generators (R72, R73) -/

/-- One step of a generator (R72). -/
def genStep (s : Half) : Half :=
  let t := s >>> 1
  if s.getLsbD 0 then t ^^^ 0xB400#16 else t

/-- The state a generator is loaded with from the job's rounding seed (R73). -/
def genSeed (seed : Word) (id : Nat) : Half :=
  let s := BitVec.ofNat 16 seed.toNat ^^^ BitVec.ofNat 16 (seed.toNat >>> 16) ^^^ BitVec.ofNat 16 (id * 0x9E37)
  if s = 0#16 then 1#16 else s

/-- The column generator's number: logical_core × 128 + array × 32 + column (R73). -/
def columnId (core col : Nat) : Nat := core * 128 + col

/-- The element-pipe lane generator's number: 4096 + logical_core × 128 + lane (R73). -/
def laneId (core lane : Nat) : Nat := 4096 + core * 128 + lane

/-- A rounding-mode field's mode (R70) with the generator state a stochastic rounding uses; none for 0b11. -/
def rndOf (field : Nat) (r : Half) : Option Rnd :=
  match field with
  | 0 => some .rne
  | 1 => some .rtz
  | 2 => some (.sto r.toNat)
  | _ => none

end Sys2Proof.Machine
end

