-- ==== Sys2Proof/Machine/Accum.lean ====
section
/-! DEFINITION. Cell terms and accumulation steps (R64 to R69, R79, R125) over exact values. -/

namespace Sys2Proof.Machine

/-- The cell modes of Table 3.2. -/
inductive CellMode where
  | mac | l1 | l2 | minplus | maxplus | eqcount
deriving DecidableEq, Repr

def CellMode.ofCode : Nat → Option CellMode
  | 0 => some .mac
  | 1 => some .l1
  | 2 => some .l2
  | 3 => some .minplus
  | 4 => some .maxplus
  | 5 => some .eqcount
  | _ => none

def CellMode.code : CellMode → Nat
  | .mac => 0
  | .l1 => 1
  | .l2 => 2
  | .minplus => 3
  | .maxplus => 4
  | .eqcount => 5

/-- An operand of a cell: its integer value, its exact value, and the flags its reading raises. -/
structure Opd where
  int : Int
  val : Val
  fl : NumFlags
deriving DecidableEq, Repr

/-- A term of a cell: the integer, the exact value, the flags. -/
structure Term where
  int : Int
  val : Val
  fl : NumFlags
deriving DecidableEq, Repr

/-- An element read as an operand; an MX element takes its block's scale byte (R65, R69). A NaN element raises
nan_in; a scale of 0xFF raises mx_nan_scale and makes the operand NaN. -/
def Fmt.opd (f : Fmt) (scale raw : Nat) : Opd :=
  let v := f.val raw
  if f.isInt then ⟨f.int raw, v, .none⟩
  else
    let n := NumFlags.ofNan v.isNan
    if f.isMx then ⟨0, mxScale scale v, n.or (.ofMx (decide (scale = 255)))⟩ else ⟨0, v, n⟩

/-- The term of a mode on two operands (R65, R79). invalid: a NaN made from operands that are none. -/
def cellTerm (mode : CellMode) (a b : Opd) : Term :=
  let v := match mode with
    | .mac => a.val.mul b.val
    | .l1 => (a.val.sub b.val).abs
    | .l2 => let d := a.val.sub b.val; d.mul d
    | .minplus => a.val.add b.val
    | .maxplus => a.val.add b.val
    | .eqcount => .fin false 0 0
  let i := match mode with
    | .mac => a.int * b.int
    | .l1 => (Int.natAbs (a.int - b.int) : Int)
    | .l2 => (a.int - b.int) * (a.int - b.int)
    | .minplus => a.int + b.int
    | .maxplus => a.int + b.int
    | .eqcount => if a.val.eqv b.val then 1 else 0
  ⟨i, v, (a.fl.or b.fl).or (.ofInvalid (v.isNan && !a.val.isNan && !b.val.isNan))⟩

/-- Integer accumulation (R66, R79): the exact sum, or the extreme, saturated to INT32. -/
def intStep (mode : CellMode) (acc : Option Int) (ts : List Int) : Int × NumFlags :=
  match mode with
  | .minplus =>
    let l := acc.toList ++ ts
    satI32 (l.tail.foldl min (l.headD 0))
  | .maxplus =>
    let l := acc.toList ++ ts
    satI32 (l.tail.foldl max (l.headD 0))
  | _ => satI32 (acc.getD 0 + ts.foldl (· + ·) 0)

/-- A finite term truncated toward zero to a whole number of 2^u (R67, step 3). -/
def truncTerm (u : Int) : Val → Int
  | .fin s m e =>
    let x : Int := roundAt .rtz m e u
    if s then -x else x
  | _ => 0

/-- The sum of R67 over its terms, before the rounding of step 5. -/
def sumTerms (ts : List Val) : Val :=
  if ts.any Val.isNan then .nan
  else
    let pos := ts.any (fun t => t.isInf && !t.sgn)
    let neg := ts.any (fun t => t.isInf && t.sgn)
    if pos && neg then .nan
    else if pos then .inf false
    else if neg then .inf true
    else
      match ts.filter (fun t => !t.isZero) with
      | [] => .fin (ts.all Val.sgn) 0 0
      | t :: r =>
        let top := r.foldl (fun a x => max a x.exp) t.exp
        let u := top - 40
        let x := (ts.map (truncTerm u)).foldl (· + ·) 0
        .fin (decide (x < 0)) x.natAbs u

/-- Floating accumulation (R67, and R79 for min-plus and max-plus). -/
def floatStep (mode : CellMode) (rnd : Rnd) (acc : Option Nat) (ts : List Val) : Nat × NumFlags :=
  let a := acc.toList.map f32Val
  let all := a ++ ts
  let nanAcc := NumFlags.ofNan (a.any Val.isNan)
  let r := match mode with
    | .minplus => if all.any Val.isNan then .nan else all.tail.foldl Val.vmin (all.headD .nan)
    | .maxplus => if all.any Val.isNan then .nan else all.tail.foldl Val.vmax (all.headD .nan)
    | _ => sumTerms all
  let o := f32Round rnd r
  (o.1, nanAcc.or (o.2.or (.ofInvalid (r.isNan && !all.any Val.isNan))))

/-- One accumulation step on an entry: its new 32-bit value and the flags raised. -/
def accStep (flt : Bool) (mode : CellMode) (rnd : Rnd) (acc : Option Nat) (ts : List Term) : Nat × NumFlags :=
  let tf := NumFlags.all (ts.map Term.fl)
  if flt then
    let r := floatStep mode rnd acc (ts.map Term.val)
    (r.1, tf.or r.2)
  else
    let r := intStep mode (acc.map (sext 32)) (ts.map Term.int)
    (narrow 32 r.1, tf.or r.2)

end Sys2Proof.Machine
end

