-- ==== Sys2Proof/Machine/Sparse.lean ====
section
/-! DEFINITION. Sparse storage in one canonical form: a list of (key, value) pairs, keys strictly rising, no entry
equal to what an unlisted key reads as. Tile memory, the shared store, the accumulator files, lane registers, the state
file and barrier counts are held so. -/

namespace Sys2Proof.Machine

/-- A canonical list of (key, value) pairs. -/
abbrev Sparse (α : Type) := List (Nat × α)

/-- The value at a key; an unlisted key reads as the default `d`. -/
def Sparse.get {α : Type} (d : α) : Sparse α → Nat → α
  | [], _ => d
  | (k, v) :: m, a => if a = k then v else if a < k then d else Sparse.get d m a

/-- Write the value at a key, keeping the canonical form: writing the default removes the entry. -/
def Sparse.set {α : Type} [DecidableEq α] (d : α) : Sparse α → Nat → α → Sparse α
  | [], a, x => if x = d then [] else [(a, x)]
  | (k, v) :: m, a, x =>
    if a = k then (if x = d then m else (a, x) :: m)
    else if a < k then (if x = d then (k, v) :: m else (a, x) :: (k, v) :: m)
    else (k, v) :: Sparse.set d m a x

/-- Every key at or above `lo`, strictly rising, and no value equal to the default. -/
def Sparse.wfFrom {α : Type} [DecidableEq α] (d : α) : Nat → Sparse α → Bool
  | _, [] => true
  | lo, (k, v) :: m => decide (lo ≤ k) && !decide (v = d) && Sparse.wfFrom d (k + 1) m

/-- The canonical form. -/
def Sparse.wf {α : Type} [DecidableEq α] (d : α) (m : Sparse α) : Bool := Sparse.wfFrom d 0 m

/-- Drop every entry whose key lies in [lo, lo + n): those keys read as the default again. -/
def Sparse.clear {α : Type} (m : Sparse α) (lo n : Nat) : Sparse α :=
  m.filter fun e => e.1 < lo || lo + n ≤ e.1

/-- Keep only the entries a predicate on keys admits. -/
def Sparse.keep {α : Type} (m : Sparse α) (p : Nat → Bool) : Sparse α := m.filter fun e => p e.1

/-- Byte memory: an unlisted address reads as 0 (the memories are cleared at start-up, R504). -/
abbrev Mem := List Host.Cell

/-- One byte read. (DESIGN CHOICE, log 7) -/
def Mem.byte (m : Mem) (a : Nat) : Byte := Sparse.get 0#8 m a

/-- One byte written. -/
def Mem.put (m : Mem) (a : Nat) (b : Byte) : Mem := Sparse.set 0#8 m a b

/-- The canonical form of byte memory. -/
def Mem.wf (m : Mem) : Bool := Sparse.wf 0#8 m

/-- `n` bytes read from an address. -/
def Mem.read (m : Mem) (a : Nat) : Nat → List Byte
  | 0 => []
  | n + 1 => m.byte a :: Mem.read m (a + 1) n

/-- Bytes written from an address up. -/
def Mem.write (m : Mem) (a : Nat) : List Byte → Mem
  | [] => m
  | b :: bs => Mem.write (m.put a b) (a + 1) bs

end Sys2Proof.Machine
end

