-- ==== Sys2Proof/Machine/ArrayTypes.lean ====
section
/-! DEFINITION. What the matrix arrays of a core hold (section 3): array commands, stationary slots, accumulator
entries, operations in flight, and the counters of Table 3.8. -/

namespace Sys2Proof.Machine

/-- The grouping of the cells (Table 3.2). -/
inductive Form where
  | normal | quadrant | gimbal
deriving DecidableEq, Repr

/-- Which operand stays still (Table 3.1). -/
inductive Heading where
  | w | o | i
deriving DecidableEq, Repr

def Form.ofCode : Nat → Option Form
  | 0 => some .normal
  | 1 => some .quadrant
  | 2 => some .gimbal
  | _ => none

def Form.code : Form → Nat
  | .normal => 0
  | .quadrant => 1
  | .gimbal => 2

def Heading.ofCode : Nat → Option Heading
  | 0 => some .w
  | 1 => some .o
  | 2 => some .i
  | _ => none

def Heading.code : Heading → Nat
  | .w => 0
  | .o => 1
  | .i => 2

/-- The parameters of an array operation (Table 3.2). A reserved form, heading or mode is `none`. -/
structure ArrOp where
  form : Option Form
  heading : Option Heading
  transposed : Bool
  mode : Option CellMode
  mask : Nat
  slot : Nat
  rnd : Nat
  accInit : Bool
  drain : Bool
  conv : Bool
  fs : Fmt
  fv : Fmt
  fc : Fmt
  n : Nat          -- count (W, I) or ksteps (O, gimbal)
  rows : Nat       -- krows or mrows
  ncols : Nat
  accBase : List Nat   -- acc_base of quadrants 0 to 3; the first alone outside quadrant form
  srcV : Nat
  vstride : Int
  srcC : Nat
  sclV : Nat
  sclC : Nat
  sclT : Nat
deriving DecidableEq, Repr

/-- A stationary load (R96). -/
structure ArrLoad where
  mask : Nat
  slot : Nat
  fmt : Fmt
  src : Nat
  rowStride : Int
  arrayStride : Int
  scale : Nat
deriving DecidableEq, Repr

/-- A command of the array queue. -/
inductive ArrCmd where
  | op (o : ArrOp)
  | load (l : ArrLoad)
deriving DecidableEq, Repr

/-- A queued unit command with the task that dispatched it, its instruction address, and its number in the
core's dispatch order (the prior sets of R239 name commands by that number). -/
structure QTag where
  task : Nat
  pc : Nat
  id : Nat
deriving DecidableEq, Repr

/-- A stationary slot of one array (R98): valid bit, the format of its last taken load, loads not yet complete,
and its contents: 32 rows of packed elements and 32 column scale bytes. -/
structure Slot where
  valid : Bool
  fmt : Fmt
  taken : Bool
  loading : Nat
  dataFmt : Fmt
  rows : List (List Byte)
  scales : List Byte
deriving DecidableEq, Repr

/-- A weight slot that holds nothing. (DESIGN CHOICE, log 8) -/
def Slot.empty : Slot := ⟨false, ⟨0, false, false⟩, false, 0, ⟨0, false, false⟩, [], []⟩

/-- An accumulator entry (R109): value, kind (true: binary32), valid bit, modulo-3 residue (R130). -/
structure AccEntry where
  val : Nat
  flt : Bool
  valid : Bool
  res : Nat
deriving DecidableEq, Repr

/-- An accumulator entry that holds no valid value (R109). (DESIGN CHOICE, log 8) -/
def AccEntry.empty : AccEntry := ⟨0, false, false, 0⟩

/-- One streamed vector or step as read: elements and MX scale bytes (R99). -/
structure Vec where
  data : List Byte
  scales : List Byte
deriving DecidableEq, Repr

/-- One group of 32 K steps as an array's column feed holds it (R100, R103): its number, the element bytes of the
array's columns side by side, and their scale bytes. -/
structure ColGroup where
  g : Nat
  data : List Byte
  scales : List Byte
deriving DecidableEq, Repr

/-- A K step on its way down the rows of an array (R119): its number, its streamed elements, and the column group it
belongs to. -/
structure KFed where
  k : Nat
  vec : Vec
  grp : ColGroup
deriving DecidableEq, Repr

/-- One masked array's progress through an operation: vectors or steps issued in row 0, the first half of a
two-cycle vector issued (R95), indices whose last step is complete (W, I) or that are written (O, gimbal), column
groups requested, the A-cycles until the last of them is held, and the last two of them (R103). In O heading and
gimbal form `pipe` is the skew: entry r holds the K steps that row r processed in the array's last advance, those that
row 0 issued r advances earlier (R119); and entry r of `ripe` counts the A-cycles until the working values of row r,
whose last step has come, may be written (R116). -/
structure ArrLane where
  issued : Nat
  half : Bool
  stepped : Nat
  gReq : Nat
  gWait : Nat
  held : List ColGroup
  pipe : List (List KFed)
  ripe : List Nat
deriving DecidableEq, Repr

/-- Nothing issued, no column group requested. -/
def ArrLane.start (g : Nat) : ArrLane := ⟨0, false, 0, 0, g, [], [], []⟩

/-- An operation the array unit has taken: its tag, parameters, whether its first issue cycle has come, vectors
read, those read and not broadcast, the number broadcast, those still in a feeder (the oldest is number
`fedBase`), the four arrays' progress, the working values of the cells in O heading and gimbal form (R116, keyed as
the entries they will be written to), indices drained, indices that entered the element pipe, and A-cycles since it was taken,
counted to 3 (R180). -/
structure ArrAct where
  tag : QTag
  op : ArrOp
  started : Bool
  read : Nat
  inflight : List Vec
  bcast : Nat
  fedBase : Nat
  fed : List Vec
  lanes : List ArrLane
  work : Sparse AccEntry
  drained : Nat
  entered : Nat
  since : Nat
deriving DecidableEq, Repr

/-- One drained index on its way to the element pipe (R114): the operation's number, the values of the 128 lanes,
which of them the operation wrote (R135), and their kind. -/
structure DrainVec where
  op : Nat
  idx : Nat
  flt : Bool
  vals : List Nat
  act : List Bool
deriving DecidableEq, Repr

/-- A stationary load the load path holds (R96). -/
structure LoadAct where
  tag : QTag
  load : ArrLoad
deriving DecidableEq, Repr

/-- The counters of Table 3.8. -/
structure ArrCounters where
  issue : Word
  frzBcast : Word
  frzFeed : Word
  frzDrain : Word
  throttle : Word
  stkeep : Word
deriving DecidableEq, Repr

def ArrCounters.zero : ArrCounters := ⟨0, 0, 0, 0, 0, 0⟩

/-- The array unit of a core. `slots` is indexed 2a + s; accumulator entries are keyed 16384a + 512c + index;
`recent` lists (array, entry index, A-cycles left) of steps whose write is not complete (R112); `sinceIssue` counts
A-cycles since the last issue cycle (R120, R126); `last` is the form, heading and axis of the last operation that
issued and its mask. `trip` throttles every A-cycle (R437); `ramp` holds D_0 and the present density of a barrier ramp
(R428). -/
structure ArrayUnit where
  queue : List (QTag × ArrCmd)
  ops : List ArrAct
  loads : List LoadAct
  slots : List Slot
  acc : Sparse AccEntry
  drainOut : List DrainVec
  recent : List (Nat × Nat × Nat)
  limit : Nat
  budget : Nat
  throttled : Bool
  sinceIssue : Nat
  last : Option (Form × Heading × Bool × Nat)
  gapBudget : Nat
  stkeep : Nat
  trip : Bool
  ramp : Option (Nat × Nat)
  cnt : ArrCounters
  repair : List Nat
deriving DecidableEq, Repr

def ArrayUnit.reset : ArrayUnit :=
  { queue := [], ops := [], loads := [], slots := List.replicate 8 Slot.empty, acc := [], drainOut := [],
    recent := [], limit := 64, budget := 0, throttled := false, sinceIssue := 0, last := none, gapBudget := 0,
    stkeep := 0x61, trip := false, ramp := none, cnt := .zero, repair := [0, 0, 0, 0] }

end Sys2Proof.Machine
end

