-- ==== Sys2Proof/Machine/ArrayUnit.lean ====
section
/-! DEFINITION. The array unit's rules (section 3) as functions of the unit and the core's tile memory: the checks
of R94, the vectors and groups of R99 and R100, accumulation steps into entries, freezes, drains. -/

namespace Sys2Proof.Machine

/-- Bytes of tile memory per core (2 MiB). -/
def tileBytes : Nat := 2097152

/-! ## What an operation is -/

def ArrOp.isW (o : ArrOp) : Bool := o.heading = some .w
def ArrOp.isO (o : ArrOp) : Bool := o.heading = some .o
def ArrOp.isI (o : ArrOp) : Bool := o.heading = some .i
def ArrOp.gimbal (o : ArrOp) : Bool := o.form = some .gimbal
def ArrOp.quadrant (o : ArrOp) : Bool := o.form = some .quadrant

/-- Array a is in the mask. -/
def ArrOp.has (o : ArrOp) (a : Nat) : Bool := o.mask.testBit a

/-- The arrays of the mask, in increasing number. -/
def ArrOp.arrays (o : ArrOp) : List Nat := (List.range 4).filter o.has

/-- The operand beside the streamed one: stationary in W and I, column-fed in O and gimbal (Table 3.1). -/
def ArrOp.other (o : ArrOp) : Fmt := if o.isO then o.fc else o.fs

/-- The weight operand's format (Table 3.1). -/
def ArrOp.weight (o : ArrOp) : Fmt := if o.isW then o.fs else if o.isI then o.fv else o.fc

/-- The entries' kind (R64): binary32 for floating and MX operands, INT32 for integers and the equality count. -/
def ArrOp.flt (o : ArrOp) : Bool := !o.fv.isInt && decide (o.mode ≠ some .eqcount)

/-- Columns that form terms in array a (R93). -/
def ArrOp.cols (o : ArrOp) (a : Nat) : Nat :=
  if o.gimbal then min 32 (o.ncols - 128 * a)
  else if o.quadrant then o.ncols
  else if (List.range 4).any (fun b => a < b && o.has b) then 32 else o.ncols

/-- Operations per cell per A-cycle (R78). -/
def ArrOp.rate (o : ArrOp) : Nat :=
  let b := max o.fv.bits o.other.bits
  if b = 16 then 1 else if o.mode = some .mac ∧ b = 4 then 4 else 2

/-- Vectors or steps that may issue together (R95). -/
def ArrOp.width (o : ArrOp) : Nat := if o.rate = 4 ∧ !o.quadrant then 2 else 1

/-- Distinct entry indices per file column that the operation writes, in increasing order (R114, R122). -/
def ArrOp.indices (o : ArrOp) : List Nat :=
  let b := o.accBase.headD 0
  if o.gimbal then (List.range 4).flatMap (fun q => (List.range o.rows).map (fun r => b + 8 * q + r))
  else if o.isO then (List.range o.rows).map (b + ·)
  else if o.quadrant then
    (sortBy (fun x y => decide (x ≤ y)) ((List.range 4).flatMap (fun q => (List.range o.n).map (o.accBase.getD q 0 + ·)))).eraseDups
  else (List.range o.n).map (b + ·)

/-- File column c of array a at index i is an entry that the operation's terms reach (Table 3.4, R93). -/
def ArrOp.writes (o : ArrOp) (a c i : Nat) : Bool :=
  let b := o.accBase.headD 0
  o.has a &&
  (if o.gimbal then
    b ≤ i && i < b + 32 && (i - b) % 8 < o.rows && 128 * a + 32 * ((i - b) / 8) + c < o.ncols
  else if o.isO then b ≤ i && i < b + o.rows && c < o.cols a
  else if o.quadrant then
    [0, 1, 2, 3].any fun q =>
      q % 2 = c / 16 && c % 16 < o.ncols && o.accBase.getD q 0 ≤ i && i < o.accBase.getD q 0 + o.n
  else if o.transposed then b ≤ i && i < b + o.n && c < o.rows
  else b ≤ i && i < b + o.n && c < o.cols a)

def accKey (a c i : Nat) : Nat := a * 16384 + c * 512 + i

/-! ## The checks of R94 -/

/-- The pairing that a cell mode accepts (R76, R77, Table 2.5). -/
def pairingOk (mode : CellMode) (x y : Fmt) : Bool :=
  let mxPartner := fun (f : Fmt) => f.isMx || f.code = 4 || f.code = 5
  match mode with
  | .mac =>
    (x.code ≤ 1 && y.code ≤ 1) ||
    (4 ≤ x.code && x.code ≤ 7 && 4 ≤ y.code && y.code ≤ 7) ||
    (x.isMx && mxPartner y) || (y.isMx && mxPartner x)
  | _ => x.code = y.code && x.u = y.u && (x.code ≤ 2 || (4 ≤ x.code && x.code ≤ 7)) && !x.t && !y.t

/-- A byte range [a, a + n) lies in tile memory (R101). -/
def inTile (a : Int) (n : Nat) : Bool := n = 0 || (0 ≤ a && a + (n : Int) ≤ (tileBytes : Int))

/-- Bytes of one streamed vector or step (R99). -/
def ArrOp.vecBytes (o : ArrOp) : Nat := o.fv.bytes (if o.gimbal then 8 else 32)

/-- Column groups of an operation in O heading or gimbal form (R100). -/
def ArrOp.groups (o : ArrOp) : Nat := cdiv o.n 32

/-- The stride J of R100. -/
def ArrOp.colJ (o : ArrOp) : Nat := if o.gimbal then 512 else 128

/-- The feed column at which array a's columns begin (R100). -/
def ArrOp.feedBase (o : ArrOp) (a : Nat) : Nat := if o.gimbal then 128 * a else 32 * a

/-- The feed columns of array a that are read: none at or beyond ncols (R93, R100). -/
def ArrOp.feedCols (o : ArrOp) (a : Nat) : Nat := if o.gimbal then min 128 (o.ncols - 128 * a) else o.cols a

/-- One past the last column of the feed that is read (R100). -/
def ArrOp.colEnd (o : ArrOp) : Nat := o.arrays.foldl (fun m a => max m (o.feedBase a + o.feedCols a)) 0

/-- One past the last file column of array a that the operation writes (Table 3.4). -/
def ArrOp.fileCols (o : ArrOp) (a : Nat) : Nat :=
  if o.quadrant then 16 + o.ncols else if o.transposed then o.rows else o.cols a

/-- Row-scale entries that drain reads (R114). -/
def ArrOp.scaleEntries (o : ArrOp) : Nat :=
  if o.isI then o.n else if o.gimbal then o.ncols
  else o.arrays.foldl (fun m a => max m (32 * a + o.fileCols a)) 0

/-- Alignment and extent of an operation's operands (R101): true when they hold. -/
def ArrOp.alignOk (o : ArrOp) : Bool :=
  let b := o.other.bytes 32
  (o.conv ||
    (o.srcV % 8 = 0 && o.vstride % 8 = 0 && inTile o.srcV o.vecBytes &&
      inTile ((o.srcV : Int) + ((o.n : Int) - 1) * o.vstride) o.vecBytes &&
      (!o.fv.isMx ||
        inTile o.sclV (if o.isO then o.groups * (if o.gimbal then 8 else 32) else o.n)))) &&
  (!o.isO ||
    (o.srcC % 16 = 0 && inTile o.srcC (((o.groups - 1) * o.colJ + o.colEnd) * b) &&
      (!o.fc.isMx || inTile o.sclC ((o.groups - 1) * o.colJ + o.colEnd)))) &&
  (!o.weight.t || (o.sclT % 2 = 0 && (!o.drain || inTile o.sclT (2 * o.scaleEntries))))

/-- The combinations of Table 3.3, gimbal masks and transposed MX operands (R94, first check). -/
def ArrOp.combOk (o : ArrOp) : Bool :=
  match o.form, o.heading, o.mode with
  | some f, some h, some m =>
    (match f, h with
      | .normal, .o => !o.transposed
      | .normal, _ => true
      | .quadrant, .o => false
      | .quadrant, _ => !o.transposed
      | .gimbal, .o => !o.transposed && decide (m = .mac) && o.accInit && o.mask = 15
      | .gimbal, _ => false) && !(o.transposed && o.fs.isMx)
  | _, _, _ => false

/-- The format fields the operation uses (R94, second check). -/
def ArrOp.fmtOk (o : ArrOp) : Bool :=
  o.fv.meaningful && o.other.meaningful && pairingOk (o.mode.getD .mac) o.fv o.other &&
  (if o.isI then !o.fs.t else !o.fv.t)

/-- The other parameter ranges of Table 3.2 (R94, fourth check). -/
def ArrOp.rangeOk (o : ArrOp) : Bool :=
  o.mask ≠ 0 && o.mask < 16 && o.slot < 2 && 1 ≤ o.n &&
  (if o.isO then o.n ≤ 65536 else o.n ≤ 512) &&
  1 ≤ o.rows && o.rows ≤ (if o.gimbal then 8 else if o.quadrant then 16 else 32) &&
  1 ≤ o.ncols && o.ncols ≤ (if o.gimbal then 512 else if o.quadrant then 16 else 32) &&
  (if o.quadrant then o.accBase.all (· ≤ 511) else o.accBase.headD 0 ≤ 511)

/-- The entry range of R110. -/
def ArrOp.entryOk (o : ArrOp) : Bool :=
  let b := o.accBase.headD 0
  if o.gimbal then b + 31 ≤ 511
  else if o.isO then b + o.rows - 1 ≤ 511
  else if o.quadrant then o.accBase.all (fun q => q + o.n - 1 ≤ 511)
  else b + o.n - 1 ≤ 511

/-- Quadrants that share file columns use disjoint entry ranges (R122). -/
def ArrOp.quadOk (o : ArrOp) : Bool :=
  !o.quadrant ||
  (let d := fun (p q : Nat) =>
    let x := o.accBase.getD p 0
    let y := o.accBase.getD q 0
    decide (x + o.n ≤ y ∨ y + o.n ≤ x)
   d 0 2 && d 1 3)

/-- Slot validity and format (R98): the status, when the check fails. -/
def ArrOp.slotCheck (o : ArrOp) (slots : List Slot) : Option Nat :=
  if o.isO then none
  else
    let l := o.arrays.map (fun a => slots.getD (2 * a + o.slot) Slot.empty)
    if l.any (fun s => !(s.valid || s.taken)) then some 0x0407
    else if l.any (fun s => s.fmt.code ≠ o.fs.code || s.fmt.u ≠ o.fs.u) then some 0x0401
    else none

/-- An entry as the program order sees it (R111): the kind the latest operation taken before gives it, else the
kind it holds when valid. -/
def ArrayUnit.entryKind (u : ArrayUnit) (a c i : Nat) : Option Bool :=
  match (u.ops.filter (fun x => x.op.writes a c i)).getLast? with
  | some x => some x.op.flt
  | none =>
    let e := Sparse.get AccEntry.empty u.acc (accKey a c i)
    if e.valid then some e.flt else none

/-- Entry validity and kind with acc_init = 0 (R111). -/
def ArrOp.kindOk (o : ArrOp) (u : ArrayUnit) : Bool :=
  o.accInit ||
  o.arrays.all fun a => o.indices.all fun i => (List.range 32).all fun c =>
    !o.writes a c i || decide (u.entryKind a c i = some o.flt)

/-- The checks of R94 in their order; `conv` is the binding check of R179 for an operation that takes its streamed
operand from the convolution engine. `none`: the operation is taken. (DEDUCED, log 36) -/
def ArrOp.check (o : ArrOp) (u : ArrayUnit) (conv : Bool) : Option Nat :=
  if !o.combOk then some 0x0406
  else if !o.fmtOk then some 0x0401
  else if o.rnd = 3 then some 0x0402
  else if !o.rangeOk then some 0x0406
  else if !o.alignOk then some 0x0409
  else if o.conv && !conv then some 0x0605
  else
    match o.slotCheck u.slots with
    | some s => some s
    | none =>
      if !o.entryOk then some 0x0403
      else if !o.quadOk then some 0x0404
      else if !o.kindOk u then some 0x0405
      else none

/-- The checks of a stationary load (R94, R101). -/
def ArrLoad.check (l : ArrLoad) : Option Nat :=
  let rowB := l.fmt.bytes 32
  let arrays := (List.range 4).filter l.mask.testBit
  if l.mask = 0 ∨ 16 ≤ l.mask ∨ 2 ≤ l.slot then some 0x0406
  else if l.fmt.code = 3 ∨ l.fmt.code = 8 ∨ l.fmt.code = 15 ∨ (l.fmt.u ∧ 2 < l.fmt.code) then some 0x0401
  else if l.src % 16 ≠ 0 ∨ l.rowStride % 16 ≠ 0 ∨ l.arrayStride % 16 ≠ 0 then some 0x0409
  else if arrays.all (fun a =>
      inTile ((l.src : Int) + a * l.arrayStride) rowB &&
      inTile ((l.src : Int) + a * l.arrayStride + 31 * l.rowStride) rowB &&
      (!l.fmt.isMx || inTile (l.scale + 32 * a) 32)) then none
  else some 0x0409

/-! ## Queue and loads -/

/-- The operation still has vectors to issue in some masked array. -/
def ArrAct.unissued (x : ArrAct) : Bool :=
  x.op.arrays.any (fun a => (x.lanes.getD a (ArrLane.start 0)).issued < x.op.n)

/-- R97: a load waits while an operation in issue or pending reads the slot. -/
def ArrayUnit.loadHeld (u : ArrayUnit) (l : ArrLoad) : Bool :=
  u.ops.any fun x => x.unissued && !x.op.isO && x.op.slot = l.slot && x.op.mask &&& l.mask ≠ 0

/-- R120: one operation in issue and one pending. -/
def ArrayUnit.roomForOp (u : ArrayUnit) : Bool := (u.ops.filter ArrAct.unissued).length < 2

/-- Bytes of one column group over the mask, G of R118. -/
def ArrOp.groupBytes (o : ArrOp) : Nat :=
  if o.gimbal then 512 * o.fc.bytes 32 else 32 * o.arrays.length * o.fc.bytes 32

/-- A-cycles until a requested column group is held (R103). -/
def ArrOp.groupWait (o : ArrOp) : Nat := 6 + cdiv o.groupBytes 1024

def ArrAct.new (tag : QTag) (o : ArrOp) : ArrAct :=
  { tag := tag, op := o, started := false, read := 0, inflight := [], bcast := 0, fedBase := 0, fed := [],
    lanes := List.replicate 4 (ArrLane.start 0), work := [], drained := 0, entered := 0, since := 0 }

/-- Take a load (R96, R98): its slots take its format and count as valid for the checks. -/
def ArrayUnit.takeLoad (u : ArrayUnit) (tag : QTag) (l : ArrLoad) : ArrayUnit :=
  let mark := fun (s : List Slot) (a : Nat) =>
    if l.mask.testBit a then
      modAt s (2 * a + l.slot) (fun x => { x with fmt := { l.fmt with t := false }, taken := true, loading := x.loading + 1 })
    else s
  { u with loads := u.loads ++ [⟨tag, l⟩], slots := (List.range 4).foldl mark u.slots }

/-- The last row of a load is written (R96): slot contents, valid bit. -/
def ArrayUnit.finishLoad (u : ArrayUnit) (tile : Mem) (l : ArrLoad) : ArrayUnit :=
  let rowB := l.fmt.bytes 32
  let fill := fun (s : List Slot) (a : Nat) =>
    if l.mask.testBit a then
      modAt s (2 * a + l.slot) (fun x =>
        { x with
          valid := true, loading := x.loading - 1, dataFmt := { l.fmt with t := false },
          rows := (List.range 32).map (fun (r : Nat) =>
            tile.read ((l.src : Int) + (a : Int) * l.arrayStride + (r : Int) * l.rowStride).toNat rowB),
          scales := if l.fmt.isMx then tile.read (l.scale + 32 * a) 32 else [] })
    else s
  { u with slots := (List.range 4).foldl fill u.slots }

/-! ## Streamed vectors -/

/-- Vector or step i of the streamed operand, read from tile memory (R99). -/
def ArrOp.readVec (o : ArrOp) (tile : Mem) (i : Nat) : Vec :=
  let a := ((o.srcV : Int) + i * o.vstride).toNat
  let g := i / 32
  { data := tile.read a o.vecBytes
    scales :=
      if !o.fv.isMx then []
      else if o.gimbal then tile.read (o.sclV + 8 * g) 8
      else if o.isO then tile.read (o.sclV + 32 * g) 32
      else tile.read (o.sclV + i) 1 }

/-- Vectors issued by the masked array that has issued fewest (R102). -/
def ArrAct.slowest (x : ArrAct) : Nat :=
  (x.op.arrays.map (fun a => (x.lanes.getD a (ArrLane.start 0)).issued)).foldl min x.op.n

/-- Vectors or steps that one read takes: two at 4 operations per cell per A-cycle (R99). -/
def ArrAct.together (x : ArrAct) : Nat := if x.op.rate = 4 ∧ x.read + 2 ≤ x.op.n then 2 else 1

/-- R102: the next read may be issued: all it takes stay within the 27 read and not yet issued. -/
def ArrAct.mayRead (x : ArrAct) : Bool :=
  !x.op.conv && x.read < x.op.n && x.read + x.together ≤ x.slowest + 27

/-- The operation whose next streamed vector is to be read: the oldest with vectors unread. -/
def ArrayUnit.readIdx (u : ArrayUnit) : Option Nat :=
  u.ops.findIdx? (fun x => !x.op.conv && x.read < x.op.n)

/-- Feeder entries array a holds (R102). -/
def ArrayUnit.feeders (u : ArrayUnit) (a : Nat) : Nat :=
  (u.ops.map fun x => if x.op.has a then x.bcast - (x.lanes.getD a (ArrLane.start 0)).issued else 0).sum

/-- The operation whose vector is next at the broadcast: the oldest not wholly broadcast. -/
def ArrayUnit.bcastIdx (u : ArrayUnit) : Option Nat := u.ops.findIdx? (fun x => x.bcast < x.op.n)

/-- The broadcast writes the oldest returned vector into the feeders of every masked array (R102). -/
def ArrAct.broadcast (x : ArrAct) : ArrAct :=
  match x.inflight with
  | [] => x
  | v :: r => { x with inflight := r, bcast := x.bcast + 1, fed := x.fed ++ [v] }

/-! ## Accumulation -/

/-- What accumulation steps change: the entries, the column generators and the numeric flags. -/
structure AccState where
  acc : Sparse AccEntry
  gens : List Half
  fl : NumFlags
deriving DecidableEq, Repr

/-- One step through file column c of array a on entry i (R111, R113): an entry that receives no term is not
written. `useAcc`: the accumulator value takes part. -/
def ArrOp.step (o : ArrOp) (a c i : Nat) (useAcc : Bool) (ts : List Term) (s : AccState) : AccState :=
  if ts.isEmpty then s
  else
    let key := accKey a c i
    let col := 32 * a + c
    let gen := s.gens.getD col 1#16
    let e := Sparse.get AccEntry.empty s.acc key
    let r := accStep o.flt (o.mode.getD .mac) ((rndOf o.rnd gen).getD .rne) (if useAcc then some e.val else none) ts
    { acc := Sparse.set AccEntry.empty s.acc key ⟨r.1, o.flt, true, r.1 % 3⟩
      gens := if o.flt ∧ o.rnd = 2 then setAt s.gens col (genStep gen) else s.gens
      fl := s.fl.or r.2 }

/-- Stationary element (r, c) of a slot as an operand: its block's scale lies along the rows of column c. -/
def Slot.opd (s : Slot) (r c : Nat) : Opd :=
  s.dataFmt.opd (s.scales.getD c 0#8).toNat (s.dataFmt.raw (s.rows.getD r []) c)

/-- Element j of a streamed vector as an operand. `row`: which scale byte (O and gimbal have one per row). -/
def ArrOp.vecOpd (o : ArrOp) (v : Vec) (row j : Nat) : Opd :=
  o.fv.opd (v.scales.getD row 0#8).toNat (o.fv.raw v.data j)

/-- The quadrants in an order in which those that share file columns come in increasing entry index (R113, R122). -/
def ArrOp.quadOrder (o : ArrOp) : List Nat :=
  let base := fun (q : Nat) => o.accBase.getD q 0
  (if base 2 < base 0 then [2, 0] else [0, 2]) ++ (if base 3 < base 1 then [3, 1] else [1, 3])

/-- All accumulation steps of vector m on array a, W and I headings (Table 3.4). -/
def ArrOp.vectorSteps (o : ArrOp) (slots : List Slot) (a m : Nat) (v : Vec) (s : AccState) : AccState :=
  let slot := slots.getD (2 * a + o.slot) Slot.empty
  let mode := o.mode.getD .mac
  let b := o.accBase.headD 0
  let cell := fun (r c j : Nat) => cellTerm mode (o.vecOpd v 0 j) (slot.opd r c)
  if o.quadrant then
    o.quadOrder.foldl (fun s q =>
      let r0 := 16 * (q / 2)
      let c0 := 16 * (q % 2)
      (List.range o.ncols).foldl (fun s c =>
        o.step a (c0 + c) (o.accBase.getD q 0 + m) (!o.accInit)
          ((List.range o.rows).map (fun r => cell (r0 + r) (c0 + c) (r0 + r))) s) s) s
  else if o.transposed then
    (List.range o.rows).foldl (fun s r =>
      o.step a r (b + m) (!o.accInit) ((List.range (o.cols a)).map (fun j => cell r j j)) s) s
  else
    (List.range (o.cols a)).foldl (fun s c =>
      o.step a c (b + m) (!o.accInit) ((List.range o.rows).map (fun r => cell r c r)) s) s

/-- Column group g of array a, read from tile memory (R100): the elements and scale bytes of the array's columns,
which lie side by side. -/
def ArrOp.readGroup (o : ArrOp) (tile : Mem) (a g : Nat) : ColGroup :=
  let b := o.fc.bytes 32
  let blk := g * o.colJ + o.feedBase a
  ⟨g, tile.read (o.srcC + blk * b) (o.feedCols a * b), if o.fc.isMx then tile.read (o.sclC + blk) (o.feedCols a) else []⟩

/-- Column-fed element of a K step for the array's feed column j (R100). -/
def ArrOp.colOpd (o : ArrOp) (s : KFed) (j : Nat) : Opd :=
  o.fc.opd (s.grp.scales.getD j 0#8).toNat (o.fc.raw s.grp.data (32 * j + s.k % 32))

/-- Strips of an array: four in gimbal form (R123), else one. -/
def ArrOp.strips (o : ArrOp) : Nat := if o.gimbal then 4 else 1

/-- The entry index of row r in strip q, O heading and gimbal form (Table 3.4). -/
def ArrOp.rowIdx (o : ArrOp) (q r : Nat) : Nat := o.accBase.headD 0 + 8 * q + r

/-- The accumulation steps that row r of strip q of array a forms from the K steps it processes in one A-cycle (one, or
two that issued together), on the working values (R95, R116, R124). `file` is the accumulator file: with acc_init = 0
the row's first step takes its working value from the entry. -/
def ArrOp.rowSteps (o : ArrOp) (file : Sparse AccEntry) (a q r : Nat) (ks : List KFed) (s : AccState) : AccState :=
  let mode := o.mode.getD .mac
  let i := o.rowIdx q r
  let first := ks.any (fun k => k.k = 0)
  (List.range (min 32 (o.feedCols a - 32 * q))).foldl (fun s c =>
    let key := accKey a c i
    let s1 : AccState :=
      if first && !o.accInit then
        { s with acc := Sparse.set AccEntry.empty s.acc key (Sparse.get AccEntry.empty file key) }
      else s
    o.step a c i (!(o.accInit && first))
      (ks.map (fun k => cellTerm mode (o.vecOpd k.vec r r) (o.colOpd k (32 * q + c)))) s1) s

/-! ## One A-cycle (R104 to R108) -/

/-- Indices an array's drain queue holds: those whose last step is complete and that have not entered the element
pipe (R114). -/
def ArrayUnit.drainHeld (u : ArrayUnit) (a : Nat) : Nat :=
  (u.ops.map fun x =>
    if x.op.drain && x.op.has a then (x.lanes.getD a (ArrLane.start 0)).stepped - x.entered else 0).sum

/-- The slots an operation reads are complete. -/
def ArrayUnit.slotsReady (u : ArrayUnit) (o : ArrOp) : Bool :=
  o.isO || o.arrays.all (fun a => (u.slots.getD (2 * a + o.slot) Slot.empty).loading = 0)

/-- The causes of R104 on one array. -/
inductive Freeze where
  | dry        -- cause 1, the broadcast holds no vector
  | behind     -- cause 1, the broadcast is held back by another array's full feeders
  | feed       -- cause 2
  | drain      -- cause 3
  | order      -- cause 4
deriving DecidableEq, Repr

/-- Vectors or steps the array issues together in this A-cycle (R95, R115). -/
def ArrAct.take (x : ArrAct) (u : ArrayUnit) (a : Nat) : Nat :=
  let l := x.lanes.getD a (ArrLane.start 0)
  let left := x.op.n - l.issued
  if x.op.width = 2 ∧ 2 ≤ left then
    (if !x.op.isO ∧ x.op.drain ∧ 3 ≤ u.drainHeld a then 1 else 2)
  else 1

/-- The entry indices of an array that the next issue cycle reads (R112, R116): none in the first cycle of a two-cycle
vector; in O heading and gimbal form those of row 0 at its first step, when acc_init = 0. -/
def ArrAct.nextIdx (x : ArrAct) (a n : Nat) : List Nat :=
  let l := x.lanes.getD a (ArrLane.start 0)
  if x.op.rate = 1 && !l.half then []
  else if x.op.isO then (if l.issued = 0 && !x.op.accInit then (List.range x.op.strips).map (x.op.rowIdx · 0) else [])
  else if x.op.quadrant then
    ((List.range n).flatMap (fun k => x.op.accBase.map (fun b => b + l.issued + k))).eraseDups
  else (List.range n).map (fun k => x.op.accBase.headD 0 + l.issued + k)

/-- The entry indices that rows 1 and on read in the array's next advance: rows that come to their first step with
acc_init = 0 (R116). -/
def ArrAct.skewIdx (x : ArrAct) (a : Nat) : List Nat :=
  if !x.op.isO || x.op.accInit then []
  else
    let l := x.lanes.getD a (ArrLane.start 0)
    (List.range (x.op.rows - 1)).flatMap fun r =>
      if (l.pipe.getD r []).any (fun k => k.k = 0) then (List.range x.op.strips).map (x.op.rowIdx · (r + 1)) else []

/-- The operation's last write to an entry of array a or its drain of it is still to come: in O heading and gimbal form
the working value is not written, or a requested drain has not read the entry (R112, R116). -/
def ArrAct.owes (x : ArrAct) (a i : Nat) : Bool :=
  x.op.has a &&
  ((x.op.drain && (x.op.indices.drop x.drained).contains i) ||
   (x.op.isO && (x.op.indices.drop (x.lanes.getD a (ArrLane.start 0)).stepped).contains i))

/-- An entry of array a that operation number k may not read yet (R112): an earlier operation owes it a write or a
drain, or a write of it is not complete. -/
def ArrayUnit.notYet (u : ArrayUnit) (k a i : Nat) : Bool :=
  (u.ops.take k).any (fun x => x.owes a i) || u.recent.any (fun r => r.1 = a && r.2.1 = i)

/-- A row of array a below row 0 must read an entry that it may not read yet: no row of the array advances. -/
def ArrayUnit.skewStuck (u : ArrayUnit) (a : Nat) : Bool :=
  u.ops.zipIdx.any fun x => (x.1.skewIdx a).any (u.notYet x.2 a)

/-- The feeders of some masked array other than a are full (R102, R108). -/
def ArrayUnit.othersFull (u : ArrayUnit) (x : ArrAct) (a : Nat) : Bool :=
  x.op.arrays.any fun b => b ≠ a && 16 ≤ u.feeders b

/-- Why an array freezes in this A-cycle (R104, causes 1 to 4), for operation number k of the list. -/
def ArrayUnit.freeze (u : ArrayUnit) (k : Nat) (x : ArrAct) (a : Nat) : Option Freeze :=
  let l := x.lanes.getD a (ArrLane.start 0)
  let n := x.take u a
  let idx := x.nextIdx a n
  if x.bcast < l.issued + n then (if !x.inflight.isEmpty && u.othersFull x a then some .behind else some .dry)
  else if x.op.isO && decide ((if l.gWait = 0 then l.gReq else l.gReq - 1) ≤ (l.issued + n - 1) / 32) then some .feed
  else if 4 ≤ u.drainHeld a then some .drain
  else if idx.any (u.notYet k a) || u.skewStuck a then some .order
  else none

/-- The array requests its next column group (R103): what it holds is what tile memory holds at the request.
(DEDUCED, log 36) -/
def ArrLane.request (l : ArrLane) (o : ArrOp) (tile : Mem) (a : Nat) : ArrLane :=
  { l with gReq := l.gReq + 1, gWait := o.groupWait,
           held := l.held.drop (l.held.length - 1) ++ [o.readGroup tile a l.gReq] }

/-- The K steps of row 0 go into the skew; each row takes those of the row above it (R119). -/
def ArrLane.push (l : ArrLane) (rows : Nat) (ks : List KFed) : ArrLane := { l with pipe := (ks :: l.pipe).take rows }

/-- Leading indices that are complete after `m` vectors (R114): an index counts once every quadrant that writes it has
reached it, and drains come in increasing index. (DEDUCED, log 36) -/
def ArrOp.leading (o : ArrOp) (m : Nat) : Nat :=
  if o.quadrant then
    (o.indices.takeWhile (fun i => o.accBase.all (fun b => i < b || b + o.n ≤ i || i < b + m))).length
  else m

/-- Array a issues: a vector forms its accumulation steps (W, I), a K step enters row 0 (O, gimbal), its counts move
on. -/
def ArrAct.issueOn (x : ArrAct) (u : ArrayUnit) (tile : Mem) (a : Nat) (s : AccState) : ArrAct × AccState × List Nat :=
  let l := x.lanes.getD a (ArrLane.start 0)
  let n := x.take u a
  let last := l.issued + n
  if x.op.rate = 1 && !l.half then
    ({ x with lanes := setAt x.lanes a ({ l with half := true }.push x.op.rows []) }, s, [])
  else
    let vecs := (List.range n).map (fun k => (l.issued + k, x.fed.getD (l.issued + k - x.fedBase) ⟨[], []⟩))
    if x.op.isO then
      let ks := vecs.map (fun v => (⟨v.1, v.2, (l.held.find? (fun h => h.g = v.1 / 32)).getD ⟨0, [], []⟩⟩ : KFed))
      let l1 := { l with issued := last, half := false }.push x.op.rows ks
      let newGroup := (l.issued % 32 = 0 || (last - 1) % 32 = 0) && l.gReq < x.op.groups
      ({ x with lanes := setAt x.lanes a (if newGroup then l1.request x.op tile a else l1) }, s, [])
    else
      ({ x with lanes := setAt x.lanes a { l with issued := last, half := false, stepped := x.op.leading last } },
        vecs.foldl (fun s v => x.op.vectorSteps u.slots a v.1 v.2 s) s, x.nextIdx a n)

/-- Feeder entries every masked array has consumed are dropped. -/
def ArrAct.trim (x : ArrAct) : ArrAct :=
  { x with fed := x.fed.drop (x.slowest - x.fedBase), fedBase := max x.fedBase x.slowest }

/-- What an A-cycle brings whether the arrays issue or not: column groups come closer, the first one is requested, and
completed rows come closer to their write (R103, R116). -/
def ArrAct.age (x : ArrAct) (tile : Mem) : ArrAct :=
  { x with
    lanes := (List.range 4).map (fun a =>
      let l := x.lanes.getD a (ArrLane.start 0)
      let l1 := { l with gWait := l.gWait - 1, ripe := l.ripe.map (· - 1) }
      if x.op.isO && x.op.has a && l.gReq = 0 then l1.request x.op tile a else l1) }

/-- The working values of operation number k's next index on array a are written to their entries (R116): when the
index's row is complete, one index per A-cycle, in increasing index, while the drain queue has room and no earlier
operation owes the entries a write or a drain. (DEDUCED, log 36) -/
def ArrayUnit.writeBack (u : ArrayUnit) (k a : Nat) : ArrayUnit :=
  match u.ops[k]? with
  | none => u
  | some x =>
    let l := x.lanes.getD a (ArrLane.start 0)
    let i := x.op.indices.getD l.stepped 0
    if x.op.isO && x.op.has a && l.stepped < x.op.indices.length &&
        decide (l.ripe[l.stepped % x.op.rows]? = some 0) && (!x.op.drain || u.drainHeld a < 4) &&
        !(u.ops.take k).any (fun y => y.owes a i) then
      { u with
        ops := setAt u.ops k { x with lanes := setAt x.lanes a { l with stepped := l.stepped + 1 } }
        acc := (List.range 32).foldl (fun acc c =>
          if x.op.writes a c i then
            Sparse.set AccEntry.empty acc (accKey a c i) (Sparse.get AccEntry.empty x.work (accKey a c i))
          else acc) u.acc }
    else u

/-- The rows of array a process what its advance gave them (R113, R119): all the steps of the A-cycle in increasing
entry index. A row that processes its last step comes to its write 4 A-cycles later (R112, R116). -/
def ArrayUnit.rowsOf (u : ArrayUnit) (a : Nat) (gens : List Half) (fl : NumFlags) : ArrayUnit × List Half × NumFlags :=
  let todo := u.ops.zipIdx.flatMap (fun x =>
    if !x.1.op.isO then []
    else
      let pipe := (x.1.lanes.getD a (ArrLane.start 0)).pipe
      (List.range x.1.op.strips).flatMap (fun q => (List.range x.1.op.rows).filterMap (fun r =>
        let ks := pipe.getD r []
        if ks.isEmpty then none else some (x.1.op.rowIdx q r, x.2, q, r, ks))))
  let sorted := sortBy (fun x y => decide (x.1 ≤ y.1)) todo
  sorted.foldl (fun (p : ArrayUnit × List Half × NumFlags) w =>
    match p.1.ops[w.2.1]? with
    | none => p
    | some x =>
      let s := x.op.rowSteps p.1.acc a w.2.2.1 w.2.2.2.1 w.2.2.2.2 ⟨x.work, p.2.1, p.2.2⟩
      let done := w.2.2.1 + 1 = x.op.strips && w.2.2.2.2.any (fun k => k.k + 1 = x.op.n)
      let lanes := if done then modAt x.lanes a (fun l => { l with ripe := l.ripe ++ [4] }) else x.lanes
      ({ p.1 with ops := setAt p.1.ops w.2.1 { x with work := s.acc, lanes := lanes } }, s.gens, s.fl))
    (u, gens, fl)

/-- The rows of array a move on without a new step in row 0, for every operation but number k, whose issue has moved
its own (R119). -/
def ArrayUnit.skewOn (u : ArrayUnit) (k : Option Nat) (a : Nat) : ArrayUnit :=
  { u with ops := u.ops.zipIdx.map (fun x =>
      if x.1.op.isO && decide (k ≠ some x.2) then
        { x.1 with lanes := modAt x.1.lanes a (fun l => l.push x.1.op.rows []) }
      else x.1) }

/-- The operation is finished (R117). -/
def ArrAct.finished (x : ArrAct) : Bool :=
  if x.op.drain then x.entered = x.op.indices.length
  else x.op.arrays.all (fun a => (x.lanes.getD a (ArrLane.start 0)).stepped = x.op.indices.length)

/-- The issue-limit budget of R107 for one A-cycle: the budget, and whether the cycle is throttled. -/
def throttleStep (budget limit : Nat) : Nat × Bool :=
  if 64 ≤ budget + limit then (budget + limit - 64, false) else (budget + limit, true)

/-- The budget and throttling of a core's A-cycle; a trip throttles every one (R437). -/
def ArrayUnit.throttle (u : ArrayUnit) : Nat × Bool := if u.trip then (u.budget, true) else throttleStep u.budget u.limit

/-- The first counter of R108 that applies. -/
def ArrCounters.bump (c : ArrCounters) (throttled : Bool) (fz : List Freeze) : ArrCounters :=
  if throttled then { c with throttle := sat32 c.throttle 1 }
  else if fz.isEmpty then { c with issue := sat32 c.issue 1 }
  else if fz.contains .dry then { c with frzBcast := sat32 c.frzBcast 1 }
  else if fz.contains .behind || fz.contains .feed then { c with frzFeed := sat32 c.frzFeed 1 }
  else { c with frzDrain := sat32 c.frzDrain 1 }

/-- R120: an operation of another form, heading or axis than the one before waits 32 A-cycles after its last issue
cycle. -/
def ArrayUnit.gapOk (u : ArrayUnit) (o : ArrOp) : Bool :=
  match u.last with
  | none => true
  | some (f, h, t, _) =>
    (decide (o.form = some f) && decide (o.heading = some h) && o.transposed == t) || 32 ≤ u.sinceIssue + 1

/-! ## Station-keeping (R126, R127) -/

/-- Dummy cycles per 64 A-cycles of gap (Table 3.10): 0 acts as 1, above 64 acts as 64. -/
def stkeepDensity (cfg : Nat) : Nat := max 1 (min 64 (fld 7 1 cfg))

/-- A gap: some operation has issued and none is in issue (R126). -/
def ArrayUnit.inGap (u : ArrayUnit) : Bool := u.last.isSome && !u.ops.any (fun x => x.started && x.unissued)

/-- An A-cycle without an operation in issue. In a gap a dummy cycle issues under the density rule in gap A-cycles 0 to
255 when station-keeping is enabled and the A-cycle is not throttled (R127). During a barrier ramp its density holds
instead, without the limit of 256 A-cycles (R427, R428). -/
def ArrayUnit.idleCycle (u : ArrayUnit) (allowed throttled : Bool) : ArrayUnit :=
  let u1 := { u with sinceIssue := u.sinceIssue + 1 }
  if !u.inGap then u1
  else
    let window := u.ramp.isSome || u.sinceIssue < 256
    let density := match u.ramp with
      | some r => r.2
      | none => stkeepDensity u.stkeep
    let gb := if window then throttleStep u.gapBudget density else (u.gapBudget, true)
    let fire := allowed && u.stkeep.testBit 0 && window && !gb.2 && !throttled
    { u1 with
      gapBudget := gb.1
      cnt := if fire then { u.cnt with stkeep := sat32 u.cnt.stkeep 1 } else u.cnt }

/-! ## One A-cycle (R104, R108) -/

/-- The operation that may issue: the oldest with vectors or steps unissued, its number and itself. -/
def ArrayUnit.front (u : ArrayUnit) : Option (Nat × ArrAct) :=
  match u.ops.findIdx? ArrAct.unissued with
  | none => none
  | some k => u.ops[k]?.map (fun x => (k, x))

/-- Arrays of the operation that have vectors or steps left to issue. -/
def ArrAct.live (x : ArrAct) : List Nat :=
  x.op.arrays.filter (fun a => (x.lanes.getD a (ArrLane.start 0)).issued < x.op.n)

/-- The arrays that issue for operation number k in this A-cycle: none when it is throttled or the operation may not
begin; else those that no cause freezes (R104, R118, R120). -/
def ArrayUnit.goes (u : ArrayUnit) (throttled : Bool) (k : Nat) (x : ArrAct) : List Nat :=
  if throttled || (!x.started && !(u.slotsReady x.op && u.gapOk x.op)) then []
  else x.live.filter (fun a => (u.freeze k x a).isNone)

/-- One A-cycle of the arrays: throttle, issue or freeze of every masked array of the operation in issue, or a gap
A-cycle; the counters of R108; the hazards of R112 and the working-value writes of R116. An array that does not freeze
advances: outside the mask, and with no operation in issue, only the rows already fed move on. A frozen array writes no
entry but those that a freeze of cause 4 waits for. (DEDUCED, log 36) -/
def ArrayUnit.cycle (u : ArrayUnit) (tile : Mem) (gens : List Half) (fl : NumFlags) (allowed : Bool) :
    ArrayUnit × List Half × NumFlags :=
  let th := u.throttle
  let u0 := { u with budget := th.1, throttled := th.2 }
  let aged : ArrayUnit :=
    { u0 with
      ops := u0.ops.map (fun x => x.age tile)
      recent := (u0.recent.filter (fun r => 1 < r.2.2)).map (fun r => (r.1, r.2.1, r.2.2 - 1)) }
  let writes := fun (as : List Nat) (w : ArrayUnit) =>
    (List.range w.ops.length).foldl (fun w k => as.foldl (fun w a => w.writeBack k a) w) w
  let rows := fun (fed : Nat → Option Nat) (as : List Nat) (p : ArrayUnit × List Half × NumFlags) =>
    as.foldl (fun (p : ArrayUnit × List Half × NumFlags) a => (p.1.skewOn (fed a) a).rowsOf a p.2.1 p.2.2) p
  let close := fun (p : ArrayUnit × List Half × NumFlags) =>
    ({ p.1 with ops := p.1.ops.filter (fun x => !x.finished) }, p.2)
  let idle :=
    close (rows (fun _ => none) ((List.range 4).filter (fun a => !u0.skewStuck a))
      (writes (List.range 4) (aged.idleCycle allowed th.2), gens, fl))
  match u0.front with
  | none => idle
  | some (k, x) =>
    let go := u0.goes th.2 k x
    if !x.started && go.isEmpty then idle
    else
      let fz := x.live.filterMap (fun a => u0.freeze k x a)
      let moving := if th.2 then []
        else (List.range 4).filter (fun a => go.contains a || (!x.live.contains a && !u0.skewStuck a))
      let writing := if th.2 then []
        else (List.range 4).filter (fun a =>
          !x.live.contains a || (match u0.freeze k x a with
            | none => true
            | some .order => true
            | some _ => false))
      let r := go.foldl (fun (p : ArrAct × AccState × List (Nat × Nat × Nat)) a =>
          let q := p.1.issueOn u0 tile a p.2.1
          (q.1, q.2.1, p.2.2 ++ q.2.2.map (fun i => (a, i, 3))))
        ((aged.ops[k]?).getD x, (⟨u0.acc, gens, fl⟩ : AccState), [])
      let x' := ({ r.1 with started := true }).trim
      let last := if x'.unissued then u0.last
        else match x'.op.form, x'.op.heading with
          | some f, some h => some (f, h, x'.op.transposed, x'.op.mask)
          | _, _ => u0.last
      close (rows (fun a => if go.contains a then some k else none) moving
        (writes writing { aged with
          ops := setAt aged.ops k x'
          acc := r.2.1.acc
          recent := aged.recent ++ r.2.2
          sinceIssue := if x'.unissued then aged.sinceIssue else 0
          last := last
          gapBudget := if x'.unissued then aged.gapBudget else 0
          cnt := aged.cnt.bump th.2 fz },
        r.2.1.gens, r.2.1.fl))

/-! ## Drain (R63, R114) -/

/-- The row scale's number for a lane of an index (R114). -/
def ArrOp.scaleIndex (o : ArrOp) (a c i : Nat) : Nat :=
  let b := o.accBase.headD 0
  if o.isI then
    (if o.quadrant then
      i - (((List.range 4).find? (fun q =>
        q % 2 = c / 16 && o.accBase.getD q 0 ≤ i && i < o.accBase.getD q 0 + o.n)).map (o.accBase.getD · 0)).getD b
    else i - b)
  else if o.gimbal then 128 * a + 32 * (((i - b) / 8) % 4) + c
  else 32 * a + c

/-- The value file column c of array a drains at an index, with the row scale of R63 applied; a lane whose entry
the operation did not write enters as +0 (R135). A NaN entry or a NaN row scale raises nan_in at the multiplication, a place that
Table 2.9 does not list. (DESIGN CHOICE, log 79) -/
def ArrOp.drainLane (o : ArrOp) (u : ArrayUnit) (tile : Mem) (a c i : Nat) : Nat × NumFlags :=
  let e := Sparse.get AccEntry.empty u.acc (accKey a c i)
  if !o.writes a c i then (0, .none)
  else if o.weight.t && o.flt then
    let j := o.scaleIndex a c i
    let t := FloatFmt.b16.decode (ofLe (tile.read (o.sclT + 2 * j) 2))
    f32Op [f32Val e.val, t] ((f32Val e.val).mul t)
  else (e.val, .none)

/-- The operation whose next index drains: the oldest draining operation with indices left. -/
def ArrayUnit.drainIdx (u : ArrayUnit) : Option Nat :=
  u.ops.findIdx? (fun x => x.op.drain && x.drained < x.op.indices.length)

/-- Its next index is complete in every array of the mask. -/
def ArrAct.drainReady (x : ArrAct) : Bool :=
  x.op.arrays.all (fun a => x.drained < (x.lanes.getD a (ArrLane.start 0)).stepped)

/-- A drain read: the next index of all file columns of the mask goes toward the element pipe. -/
def ArrayUnit.drainRead (u : ArrayUnit) (tile : Mem) : ArrayUnit × NumFlags :=
  match u.drainIdx with
  | none => (u, .none)
  | some k =>
    match u.ops[k]? with
    | none => (u, .none)
    | some x =>
      if !x.drainReady then (u, .none)
      else
        let i := x.op.indices.getD x.drained 0
        let l := (List.range 128).map (fun j => x.op.drainLane u tile (j / 32) (j % 32) i)
        ({ u with
            ops := setAt u.ops k { x with drained := x.drained + 1 }
            drainOut := u.drainOut ++ [⟨x.tag.id, i, x.op.flt, l.map Prod.fst,
              (List.range 128).map (fun j => x.op.writes (j / 32) (j % 32) i)⟩] },
          NumFlags.all (l.map Prod.snd))

/-- A drained vector has entered the element pipe: its index leaves the drain queues (R114, R117). -/
def ArrayUnit.drainEntered (u : ArrayUnit) (id : Nat) : ArrayUnit :=
  { u with
    drainOut := u.drainOut.tail
    ops := (u.ops.map (fun x => if x.tag.id = id then { x with entered := x.entered + 1 } else x)).filter
      (fun x => !x.finished) }

/-! ## Registers -/

/-- Queue entries in use (R207): a command holds its entry until the unit has finished it. -/
def ArrayUnit.depth (u : ArrayUnit) : Nat := u.queue.length + u.ops.length + u.loads.length

/-- ARR_STATUS (Table 3.9). With no operation in issue busy is 0, and so are form, heading, axis and mode, of which the table does not
say it. (DESIGN CHOICE, log 79) -/
def ArrayUnit.status (u : ArrayUnit) : Word :=
  let sv := (List.range 8).foldl (fun n i => n + (if (u.slots.getD i Slot.empty).valid then 2 ^ (12 + i) else 0)) 0
  let q := 2 ^ 20 * min 8 u.depth
  match u.ops.find? (fun x => x.started && x.unissued) with
  | none => BitVec.ofNat 32 (sv + q)
  | some x =>
    BitVec.ofNat 32 (x.op.mask + 16 * (x.op.form.getD .normal).code + 64 * (x.op.heading.getD .w).code +
      256 * b2n x.op.transposed + 512 * (x.op.mode.getD .mac).code + sv + q)

/-- Valid bits and slot bits cleared at the start of a job (R98, R111). -/
def ArrayUnit.clearValid (u : ArrayUnit) : ArrayUnit :=
  { u with
    slots := u.slots.map (fun s => { s with valid := false, taken := false, loading := 0 })
    acc := (u.acc.map (fun e => (e.1, { e.2 with valid := false }))).filter (fun e => e.2 ≠ AccEntry.empty) }

/-- Counters and the throttle budget cleared at the start of a job or hot run (R107, R131). -/
def ArrayUnit.clearRun (u : ArrayUnit) : ArrayUnit := { u with cnt := .zero, budget := 0 }

/-- Everything in progress is dropped: the core stops or its partition is reset. -/
def ArrayUnit.abandon (u : ArrayUnit) : ArrayUnit :=
  { u with queue := [], ops := [], loads := [], drainOut := [], recent := [],
           slots := u.slots.map (fun s => { s with loading := 0 }) }

end Sys2Proof.Machine
end

