-- ==== Sys2Proof/Machine/ElementTypes.lean ====
section
/-! DEFINITION. What the element pipe of a core holds (section 4): element commands, configurations and function
tables, lane registers, state handles, the state file, and the commands in progress. -/

namespace Sys2Proof.Machine

/-- An element command (Table 4.6). -/
structure ElpCmd where
  cfg : Nat
  src0 : Nat       -- 0 none, 1 drain, 2 tile
  src1 : Nat       -- 0 none, 1 tile, 2 broadcast
  dst : Bool
  rec_ : Bool
  lanes : Nat
  sh : Nat
  rows : Nat
  fmt0 : Fmt
  fmt1 : Fmt
  fmtO : Fmt
  rndO : Nat
  satO : Bool
  count : Nat
  gen : Nat
  dcount : Nat
  addr0 : Nat
  stride0 : Int
  scl0 : Nat
  addr1 : Nat
  stride1 : Int
  scl1 : Nat
  addrO : Nat
  dstride0 : Int
  dstride1 : Int
  sclO : Nat
  maskAddr : Nat
deriving DecidableEq, Repr

/-- A bind command (R159, Table 6.9). -/
structure ElpBind where
  sh : Nat
  rows : Nat
  comp : Bool
  zero : Bool
  gen : Nat
  addr : Nat
  home : Nat
deriving DecidableEq, Repr

/-- A command of the element queue (Table 6.8). -/
inductive ElmCmd where
  | cmd (e : ElpCmd)
  | cfg (n src : Nat)
  | table (n src : Nat)
  | bind (b : ElpBind)
  | swapOut (h : Nat)
  | swapIn (h : Nat)
deriving DecidableEq, Repr

/-- One lane of a vector (R133): value, kind (true: binary32), active. -/
structure Lane where
  v : Nat
  flt : Bool
  act : Bool
deriving DecidableEq, Repr

/-- Residency of a state handle (R159, Table 4.9). -/
inductive Residency where
  | unbound | resident | outgoing | absent | incoming
deriving DecidableEq, Repr

def Residency.code : Residency → Nat
  | .unbound => 0
  | .resident => 1
  | .outgoing => 2
  | .absent => 3
  | .incoming => 4

/-- A state handle (R159). `gen` is its current generation; `wantIn`: a chunk that waits has asked for a swap-in
that starts when the swap-out has completed (R160). -/
structure Handle where
  addr : Nat
  rows : Nat
  comp : Bool
  gen : Nat
  home : Nat
  res : Residency
  wantIn : Bool
deriving DecidableEq, Repr

def Handle.unbound : Handle := ⟨0, 0, false, 0, 0, .unbound, false⟩

/-- A taken element command: tag, command, vectors entered, vectors written, for a count-0 drain command the
vector count of the drain it bound (R154), and the elements and scales of the one vector that a broadcast in1 reads, once
read (R134). -/
structure ElmAct where
  tag : QTag
  cmd : ElpCmd
  entered : Nat
  written : Nat
  bound : Option Nat
  inDrain : Nat      -- vectors the drain in progress still delivers (R154)
  bcast : Option (List Byte × List Byte)
deriving DecidableEq, Repr

/-- A vector at the output writer. -/
structure OutVec where
  tag : QTag
  cmd : ElpCmd
  idx : Nat
  lanes : List Lane
deriving DecidableEq, Repr

/-- A write-back of the state file in flight (R162). -/
structure WriteBack where
  tag : QTag
  sh : Nat
  addr : Nat
  rows : Nat
  comp : Bool
  data : Sparse (Nat × Nat)
deriving DecidableEq, Repr

/-- A swap in progress (R163); `pos` counts the bytes of the region whose requests have been issued. -/
structure Swap where
  sh : Nat
  out : Bool
  tag : Option QTag
  acked : Bool
  pos : Nat
deriving DecidableEq, Repr

/-- A configuration or table load taken and not yet complete (R151). -/
inductive ElmLoad where
  | cfg (tag : QTag) (n src : Nat)
  | table (tag : QTag) (n src : Nat)
deriving DecidableEq, Repr

/-- The counters of Table 4.8. -/
structure ElmCounters where
  vec : Word
  bubble : Word
  hold : Word
  stateWait : Word
  swapIn : Word
deriving DecidableEq, Repr

def ElmCounters.zero : ElmCounters := ⟨0, 0, 0, 0, 0⟩

/-- The element pipe of a core. Lane registers are keyed 128k + lane and read binary32 +0 when unlisted; the state
file is keyed 128b + lane; `entered` marks an A-cycle in which a vector entered stage 0. -/
structure ElementUnit where
  queue : List (QTag × ElmCmd)
  acts : List ElmAct
  load : Option ElmLoad
  cfgs : List (List Nat)
  cfgLoaded : List Bool
  tables : List (List Byte)
  tabLoaded : List Bool
  lregs : Sparse (Nat × Bool)
  handles : List Handle
  file : Sparse (Nat × Nat)
  fileSh : Nat
  fileValid : Bool
  fileGen : Nat
  wait : Option (QTag × ElpCmd)
  outQ : List OutVec
  wbs : List WriteBack
  swaps : List Swap
  entered : Bool
  cnt : ElmCounters
deriving DecidableEq, Repr

def ElementUnit.reset : ElementUnit :=
  { queue := [], acts := [], load := none, cfgs := List.replicate 4 [], cfgLoaded := List.replicate 4 false,
    tables := List.replicate 4 [], tabLoaded := List.replicate 4 false, lregs := [],
    handles := List.replicate 16 Handle.unbound, file := [], fileSh := 0, fileValid := false, fileGen := 0,
    wait := none, outQ := [], wbs := [], swaps := [], entered := false, cnt := .zero }

end Sys2Proof.Machine
end

