-- ==== Sys2Proof/Machine/ConvTypes.lean ====
section
/-! DEFINITION. What the direct convolution engine of a core holds (section 5): window and global-average commands,
line slots and their tags, and the commands in progress. -/

namespace Sys2Proof.Machine

/-- The padding rules of R183. -/
inductive Pad where
  | zero | const | mirror | rep
deriving DecidableEq, Repr

/-- The pad rule codes of R213. -/
def Pad.ofCode : Nat → Pad
  | 0 => .zero
  | 1 => .const
  | 2 => .mirror
  | _ => .rep

/-- A window command (Table 5.1). -/
structure WinCmd where
  fmt : Fmt
  planes : Nat
  kh : Nat
  kw : Nat
  sy : Nat
  sx : Nat
  padY : Pad
  padX : Pad
  keep : Bool
  dy : Nat
  dx : Nat
  padConst : Nat
  pt : Nat
  pl : Nat
  base : Nat
  planeStride : Int
  rowStride : Int
  h : Nat
  w : Nat
  yLo : Nat
  yHi : Nat
  xLo : Nat
  xHi : Nat
  wOut : Nat
  count : Nat
  q0 : Nat
  s0 : Nat
  ns : Nat
deriving DecidableEq, Repr

/-- A global-average command (R190). -/
structure GavgCmd where
  fmt : Fmt
  planes : Nat
  base : Nat
  planeStride : Int
  rowStride : Int
  h : Nat
  w : Nat
  dest : Nat
deriving DecidableEq, Repr

/-- A command of the convolution queue (Table 6.10). -/
inductive ConvCmd where
  | win (c : WinCmd)
  | gavg (c : GavgCmd)
deriving DecidableEq, Repr

/-- A line slot's tag (R175). -/
structure LineTag where
  fmt : Fmt
  base : Nat
  planes : Nat
  planeStride : Int
  rowStride : Int
  xLo : Nat
  xHi : Nat
  y : Nat
deriving DecidableEq, Repr

/-- A line slot (R172): its tag when it holds a line, the plane-rows' bytes as far as they are read, and when its line was
last part of a line set (0: never used). -/
structure LineSlot where
  tag : Option LineTag
  data : List (List Byte)
  used : Nat
deriving DecidableEq, Repr

/-- A taken command: the line slot of each row of its line set, rows still to load, plane-row reads issued of the
row in progress, sweeps formed and vectors formed of the current sweep, A-cycles until its last line read is usable
(R174), and vectors that entered the broadcast (R182); for a global average, reads issued and the bytes they brought. -/
structure ConvAct where
  tag : QTag
  cmd : ConvCmd
  lines : List (Nat × Nat)
  toLoad : List Nat
  reads : Nat
  sweep : Nat
  vec : Nat
  fresh : Nat
  sent : Nat
  got : List (List Byte)
deriving DecidableEq, Repr

/-- The convolution engine. `useClock` orders line sets; `bound` counts sweeps of the commands held that array
operations are already bound to. -/
structure ConvUnit where
  queue : List (QTag × ConvCmd)
  acts : List ConvAct
  slots : List LineSlot
  useClock : Nat
  bound : Nat
  degen : Bool
  degenNow : Bool
  vecCnt : Word
  readCnt : Word
  waitCnt : Word
deriving DecidableEq, Repr

def ConvUnit.reset : ConvUnit :=
  { queue := [], acts := [], slots := List.replicate 16 ⟨none, [], 0⟩, useClock := 0, bound := 0, degen := false, degenNow := false,
    vecCnt := 0, readCnt := 0, waitCnt := 0 }

end Sys2Proof.Machine
end

