-- ==== Sys2Proof/Machine/StreamTypes.lean ====
section
/-! DEFINITION. What the stream engine and the message unit of a core hold (sections 7 and 8): descriptors, slots,
buffers and their halves, chains, mailboxes, credits and barrier counts. -/

namespace Sys2Proof.Machine

/-- A stream descriptor (Tables 8.1 and 8.2), its fields as stored. -/
structure Desc where
  kind : Nat
  listLen : Nat
  esize : Nat
  conv : Nat
  land : Bool
  nodl : Bool
  chain : Nat
  buffer : Nat
  resv : Nat
  deadline : Nat
  src : Nat
  srcLoc : Nat
  dst : Nat
  dstLoc : Nat
  counts : List Nat     -- element counts of dimensions 0 to 4 (the stored fields plus one)
  sstr : List Int       -- source strides of dimensions 1 to 4
  dstr : List Int       -- destination strides of dimensions 1 to 4
deriving DecidableEq, Repr

/-- State of a stream slot (Table 8.7). -/
inductive SlotState where
  | idle | running | waiting | halted
deriving DecidableEq, Repr

def SlotState.code : SlotState → Nat
  | .idle => 0
  | .running => 1
  | .waiting => 2
  | .halted => 3

/-- What a read request of a slot brings (R269, R294): elements [first, first + n) in issue order, 1 KiB of a sealed
chunk, or a chunk's tag. -/
inductive ReqKind where
  | elems (first n : Nat)
  | chunk (off : Nat)
  | tag
deriving DecidableEq, Repr

/-- Where a resolved run of bytes lies: a tile memory, the shared store, system memory, near memory, a remote
window. -/
inductive Place where
  | tile (core addr : Nat)
  | store (off : Nat)                       -- byte of the shared store: slice × 2 MiB + local
  | sys (addr : Nat) (coh : Bool)
  | near (addr : Nat)
  | remote (node win off : Nat)
deriving DecidableEq, Repr

/-- An outstanding read request of a slot (R269): its number, what it brings, where from and how many bytes (none for
a fill), its destination's page translations, and the data of a remote read once it has come. -/
structure StrReq where
  no : Nat
  kind : ReqKind
  src : Option Place
  len : Nat
  pages : List (Nat × Place)
  data : Option (List Byte)
deriving DecidableEq, Repr

/-- A sealed chunk a slot works on (R294): its number, reads asked for, ciphertext read so far, its tag, its plaintext once it has
been authenticated. -/
structure SealWork where
  chunk : Nat
  asked : Nat
  got : List (Nat × List Byte)
  tag : Option (List Byte)
  plain : Option (List Byte)
deriving DecidableEq, Repr

/-- A stream slot. `take` is the take number of the transfer; `pos` the next element to request; `walking` while its
next request waits for a Chart walk of the index; `rcvd` counts the bytes a chain receive has written. `pos5` and `posIdx` are the saved halt position (R292); `faulted`: the transfer has been halted,
and keeps its half filling until it finishes (R293). -/
structure StrSlot where
  st : SlotState
  tag : QTag
  take : Nat
  descs : List Desc
  idx : Nat
  started : Bool
  pos : Nat
  reqs : List StrReq
  nextReq : Nat
  walking : Option Nat
  sealWork : Option SealWork
  rcvd : Nat
  late : Bool
  pos5 : List Nat
  posIdx : Nat
  faulted : Bool
deriving DecidableEq, Repr

def StrSlot.idle0 : StrSlot :=
  { st := .idle, tag := ⟨0, 0, 0⟩, take := 0, descs := [], idx := 0, started := false, pos := 0, reqs := [], nextReq := 0,
    walking := none, sealWork := none, rcvd := 0, late := false, pos5 := [0, 0, 0, 0, 0], posIdx := 0,
    faulted := false }

/-- State of a buffer half (R273, Table 8.7). -/
inductive HalfState where
  | empty | filling | landed | undef
deriving DecidableEq, Repr

def HalfState.code : HalfState → Nat
  | .empty => 0
  | .filling => 1
  | .landed => 2
  | .undef => 3

/-- A buffer half: state, generation, and the finished land descriptors that wait for earlier transfers, each as its
place in the order of takes (R274). -/
structure Half_ where
  st : HalfState
  gen : Half
  lands : List (Nat × Nat)
deriving DecidableEq, Repr

/-- A buffer (R272). -/
structure Buf where
  base : Nat
  size : Nat
  h0 : Half_
  h1 : Half_
deriving DecidableEq, Repr

def Half_.undef : Half_ := ⟨.undef, 0, []⟩
def Buf.undef : Buf := ⟨0, 0, Half_.undef, Half_.undef⟩

/-- A chain definition (R284). -/
inductive ChainDef where
  | undef
  | last
  | succ (core : Nat)
deriving DecidableEq, Repr

/-- A forwarded chain packet (R285, R287). `sealed_`: it carries sealed data (R295). -/
structure ChainPkt where
  chain : Nat
  off : Nat
  data : List Byte
  sealed_ : Bool
deriving DecidableEq, Repr

/-- A command of the stream queue. -/
inductive StrCmd where
  | go (slot addr : Nat)
  | release (buf : Nat) (half : Bool)
deriving DecidableEq, Repr

/-- File contents of an image section that the internal path loads (R40, R227): engine address, bytes, bytes requested. -/
structure LoadPart where
  ea : Nat
  len : Nat
  pos : Nat
deriving DecidableEq, Repr

/-- The stream engine of a core. `ptr` is the rotating pointer over its slots (R288), `loads` the image load in progress (R263). -/
structure StreamUnit where
  queue : List (QTag × StrCmd)
  slots : List StrSlot
  bufs : List Buf
  chains : List ChainDef
  chainIn : List ChainPkt
  ptr : Nat
  moved : Bool
  rdKib : Word
  wrKib : Word
  rdRem : Nat
  wrRem : Nat
  late : Word
  fault : Word
  sealChunk : Word
  loads : List LoadPart
deriving DecidableEq, Repr

def StreamUnit.reset : StreamUnit :=
  { queue := [], slots := List.replicate 6 StrSlot.idle0, bufs := List.replicate 64 Buf.undef,
    chains := List.replicate 8 .undef, chainIn := [], ptr := 0, moved := false, rdKib := 0, wrKib := 0, rdRem := 0,
    wrRem := 0, late := 0, fault := 0, sealChunk := 0, loads := [] }

/-- A mailbox entry (R246, R249): serial number, sender, payload, the mb.recv that claimed it. -/
structure MbEntry where
  no : Nat
  from_ : Nat
  data : List Byte
  claimed : Bool
deriving DecidableEq, Repr

/-- A command of the message queue. An mb.recv carries the entry it claimed, its destination address and register. -/
inductive MsgCmd where
  | send (addr dst : Nat)
  | recv (addr rd entry : Nat)
  | barArrive (b : Nat)
deriving DecidableEq, Repr

/-- An mb.send taken and waiting for a credit (R247). -/
structure Sending where
  tag : QTag
  dst : Nat
  data : List Byte
deriving DecidableEq, Repr

/-- The message unit and mailbox of a core. `credits` lists unused credits per destination; `arr` and `done` are the
counts a_b and c_b of R255. -/
structure MsgUnit where
  queue : List (QTag × MsgCmd)
  sending : Option Sending
  entries : List MbEntry
  nextNo : Nat
  pool : Nat
  reqList : List (Nat × Nat)
  credits : List (Nat × Nat)
  arr : Sparse Half
  done : Sparse Half
  lastBar : Nat
  delivered : Bool
  sendCnt : Word
  recvCnt : Word
deriving DecidableEq, Repr

def MsgUnit.reset : MsgUnit :=
  { queue := [], sending := none, entries := [], nextNo := 0, pool := 16, reqList := [], credits := [], arr := [],
    done := [], lastBar := 0, delivered := false, sendCnt := 0, recvCnt := 0 }

end Sys2Proof.Machine
end

