-- ==== Sys2Proof/Machine/CoreTypes.lean ====
section
/-! DEFINITION. A core: its sequencer with four task contexts (section 6), its units, its tile memory, its residency
record, and the segment copies and Chart cache through which its engine resolves addresses (section 9). -/

namespace Sys2Proof.Machine

/-- State of a task (R194, Table 6.17). -/
inductive TaskState where
  | idle | ready | running | waiting
deriving DecidableEq, Repr

def TaskState.code : TaskState → Nat
  | .idle => 0
  | .ready => 1
  | .running => 2
  | .waiting => 3

/-- A unit queue (R207). -/
inductive UnitQ where
  | array | element | conv | stream | message
deriving DecidableEq, Repr

/-- A waypoint's prior set and condition (R239, R240): the named units, the scope, the dispatch number below
which the task's commands belong to it, and the A-cycle in which the last of its scalar accesses has finished. -/
structure Wpt where
  units : Nat
  scope : Nat
  before : Nat
  mem : Nat
deriving DecidableEq, Repr

/-- What a task waits for (R217, Table 6.17); a fifth release waits for the oldest pending one (R243). -/
inductive Wait where
  | none
  | chunk
  | slot (n : Nat)
  | half (b : Nat) (h : Bool)
  | hqGet (q rd : Nat)
  | hqPut (q : Nat) (h : DWord) (refused : Bool)
  | mailbox
  | barrier (b : Nat)
  | wpt (w : Wpt) (acquire : Bool)
  | release
  | releaseSlots (oldest : Wpt)
  | final
  | queue (u : UnitQ)
deriving DecidableEq, Repr

/-- The reason codes of CORE_TASK_n (Table 6.17). -/
def Wait.code : Wait → Nat
  | .none => 0
  | .chunk => 1
  | .slot _ => 2
  | .half _ _ => 3
  | .hqGet _ _ => 4
  | .hqPut _ _ _ => 5
  | .mailbox => 6
  | .barrier _ => 7
  | .wpt _ _ => 8
  | .release => 8
  | .releaseSlots _ => 8
  | .final => 9
  | .queue _ => 10

/-- A loop level (R202): the pcs of the body's first and last instruction, the count, completed passes. -/
structure LoopLvl where
  first : Nat
  last : Nat
  count : Nat
  index : Nat
deriving DecidableEq, Repr

/-- A task context (R194). `use` lists the A-cycle from which a register's latest write is usable (R201);
`memDone` is the A-cycle in which the task's last ld or st has finished (R239). -/
structure Task where
  pc : Nat
  s : Vector Word 32
  p : Vector Bool 8
  loops : List LoopLvl
  st : TaskState
  wait : Wait
  rels : List Wpt
  use : List (Nat × Nat)
  memDone : Nat
deriving DecidableEq, Repr

def Task.idle0 : Task :=
  { pc := 0, s := Vector.replicate 32 0#32, p := Vector.replicate 8 false, loops := [], st := .idle, wait := .none,
    rels := [], use := [], memDone := 0 }

/-- The sequencer's registers (Table 6.16) and the counts behind them. `cyc` is the A-cycle count of CSR cyc;
`lead` counts A-cycles that issued instructions have taken ahead of the clock; `idle` counts consecutive A-cycles
without progress (R223); `stop` is the status of a stop under R52; `halted` marks a core
whose job another core's stop has ended; `block` the parameter block a hot run's first unit
command uses (R230). -/
structure Seq where
  running : Option (Fin 4)
  last : Fin 4
  started : Bool
  stop : Option Nat
  parked : Bool
  final : Bool
  halted : Bool
  issueCnt : Word
  stallCnt : Word
  switchCnt : Word
  wptWait : Word
  errPc : Word
  cyc : Nat
  lead : Nat
  idle : Nat
  nextId : Nat
  phase : Half
  cycLatch : Word
  tickLatch : Word
  rank : Nat
  ncores : Nat
  invocation : Word
  seed : Word
  block : Option Mem
deriving DecidableEq, Repr

def Seq.reset : Seq :=
  { running := none, last := 0, started := false, stop := none, parked := false, final := false, halted := false, issueCnt := 0,
    stallCnt := 0, switchCnt := 0, wptWait := 0, errPc := 0, cyc := 0, lead := 0, idle := 0, nextId := 0, phase := 0,
    cycLatch := 0, tickLatch := 0, rank := 0, ncores := 0, invocation := 0, seed := 0,
    block := none }

/-- An image section as the residency record keeps it (R228, R229): tile address, size, kind. -/
structure Section_ where
  addr : Nat
  size : Nat
  kind : Nat
  zero : Bool
  fileOff : Nat
deriving DecidableEq, Repr

/-- The residency record of a core (R228) with what a start needs of the image header. -/
structure Residency_ where
  tag : DWord
  valid : Bool
  sections : List Section_
  codeAddr : Nat
  codeSize : Nat
  entry : Nat
  hotEntry : Nat
  digest : List Byte
deriving DecidableEq, Repr

def Residency_.none : Residency_ := ⟨0, false, [], 0, 0, 0, 0, []⟩

/-- The parked buffer (R230): 8 instructions from hot_entry, and, when the first unit command among them has a parameter
block, tile memory as it was when the core parked, from which the block's copy is taken at the address the command names.
(DEDUCED, log 74) -/
structure ParkBuf where
  words : List DWord
  block : Option Mem
deriving DecidableEq, Repr

/-- A segment's registers as an engine copies them (Table 9.1, R304). -/
structure Seg where
  baseLo : Word
  baseHi : Word
  limit : Word
  attr : Word
deriving DecidableEq, Repr

def Seg.zero : Seg := ⟨0, 0, 0, 0⟩

/-- A Chart cache line (R309): its index and the copies of its 16 entries, most recently used first in the list. -/
structure CacheLine where
  line : Nat
  entries : List Word
deriving DecidableEq, Repr

/-- How far an outstanding walk of an engine has come (R310, R313). -/
inductive WalkState where
  | toSend
  | sent
  | retry (fcyc : Nat)
  | halted
  | refused (status : Nat)
deriving DecidableEq, Repr

/-- An outstanding walk of an engine: the partition it works for, the Chart index (its line is index / 16), the engine
address and kind of the waiting request, the tick it was issued, and in a core which request it is for: slot 0 to 5, the swap of handle
h as 6 + h, an image load as 22. -/
structure OutWalk where
  part : Nat
  index : Nat
  addr : Nat
  write : Bool
  tick : Nat
  st : WalkState
  by_ : Nat
deriving DecidableEq, Repr

/-- How an engine reaches the Chart (R304, R309, R310): segment copies, cache, walks outstanding. -/
structure Mmu where
  segs : List Seg
  cache : List CacheLine
  walks : List OutWalk
  missCnt : Word
deriving DecidableEq, Repr

def Mmu.reset : Mmu := ⟨List.replicate 16 Seg.zero, [], [], 0⟩

/-- Who asks for a bank of tile memory (Table 12.2): array feeder reads, element-pipe reads, the output writer, convolution and
global-average reads, instruction fetches, stream reads and writes, host accesses; beside them a memory sounding (R445). -/
inductive Requester where
  | feeder | pipe | writer | lines | fetch | streamRead | streamWrite | window | sounding
deriving DecidableEq, Repr

/-- The arbiter of a core's banks (R394): the banks granted in this A-cycle and to whom, how many A-cycles each request has waited, and
the rotating pointers that a tie has moved from 0; of each bank under sounding, the A-cycles since its burst began (R445). -/
structure BankUnit where
  won : List (Nat × Requester)
  waits : List (Requester × Nat)
  ptrs : List (Nat × Nat)
  march : List (Nat × Nat)
deriving DecidableEq, Repr

def BankUnit.reset : BankUnit := ⟨[], [], [], []⟩

/-- A core. `tile` is its 2 MiB tile memory; `tileSeal` the seal bits of its 4 KiB units (R295); `ib` the lines of
the instruction buffer, most recently used first; `gens` the 128 column and 128 lane generators (R72). -/
structure Core where
  seq : Seq
  tasks : Vector Task 4
  arr : ArrayUnit
  elm : ElementUnit
  cnv : ConvUnit
  str : StreamUnit
  msg : MsgUnit
  tile : Mem
  bank : BankUnit
  tileSeal : List Nat
  fl : NumFlags
  flNow : NumFlags
  colGens : List Half
  laneGens : List Half
  ib : List Nat
  img : Residency_
  park : Option ParkBuf
  mmu : Mmu
deriving DecidableEq, Repr

/-- A core after reset. The generators' reset value is not given by the spec (log 12). -/
def Core.reset : Core :=
  { seq := .reset, tasks := Vector.replicate 4 Task.idle0, arr := .reset, elm := .reset, cnv := .reset,
    str := .reset, msg := .reset, tile := [], bank := .reset, tileSeal := [], fl := .none, flNow := .none, colGens := List.replicate 128 1#16,
    laneGens := List.replicate 128 1#16, ib := [], img := .none, park := none, mmu := .reset }

end Sys2Proof.Machine
end

