-- ==== Sys2Proof/Machine/CoreOps.lean ====
section
/-! DEFINITION. Operations on one core that every instruction and unit event shares: task registers, loops and
branches, issue with its checks, waiting and switching tasks, stopping under R52, protected tile writes. -/

namespace Sys2Proof.Machine

/-! ## Registers -/

/-- A predicate; p0 reads as 1 (R194). -/
def Task.pred (k : Task) (n : BitVec 3) : Bool := n = 0#3 || k.p[n.toNat]'(n.isLt)

/-- A scalar register. -/
def Task.reg (k : Task) (n : BitVec 5) : Word := k.s[n.toNat]'(n.isLt)

/-- Write a scalar register, usable from an A-cycle (R201). -/
def Task.setReg (k : Task) (n : BitVec 5) (v : Word) (usable : Nat) : Task :=
  { k with s := k.s.set n.toNat v n.isLt,
           use := (n.toNat, usable) :: k.use.filter (fun e => e.1 ≠ n.toNat) }

/-- Write a predicate; writes to p0 are ignored (R194). -/
def Task.setPred (k : Task) (n : BitVec 3) (v : Bool) : Task :=
  if n = 0#3 then k else { k with p := k.p.set n.toNat v n.isLt }

/-- The A-cycle from which a register's value is usable. -/
def Task.usable (k : Task) (n : BitVec 5) : Nat :=
  match k.use.find? (fun e => e.1 = n.toNat) with
  | some e => e.2
  | none => 0

def Core.task (c : Core) (t : Fin 4) : Task := c.tasks[t]

def Core.setTask (c : Core) (t : Fin 4) (k : Task) : Core := { c with tasks := c.tasks.set t k }

def Core.modTask (c : Core) (t : Fin 4) (f : Task → Task) : Core := c.setTask t (f (c.task t))

/-! ## Loops and branches (R202, R203) -/

/-- The pc and loop stack after the instruction at `pc` issues without a taken branch: at a body's last instruction
the innermost level goes round or is popped, and levels that end there too are evaluated in turn. (DEDUCED, log 34) -/
def nextPc (pc : Nat) : List LoopLvl → Nat × List LoopLvl
  | [] => (pc + 1, [])
  | l :: r =>
    if pc = l.last then
      if l.index + 1 < l.count then (l.first, { l with index := l.index + 1 } :: r) else nextPc pc r
    else (pc + 1, l :: r)

/-- Levels whose body a branch target leaves are popped (R203). -/
def popLoops (target : Nat) : List LoopLvl → List LoopLvl
  | [] => []
  | l :: r => if l.first ≤ target ∧ target ≤ l.last then l :: r else popLoops target r

/-- The task after an instruction that does not branch. -/
def Task.advance (k : Task) : Task :=
  let n := nextPc k.pc k.loops
  { k with pc := n.1, loops := n.2 }

/-- The task after a taken branch. -/
def Task.branch (k : Task) (target : Nat) : Task :=
  { k with pc := target, loops := popLoops target k.loops }

/-! ## Stopping (R52, R232) -/

/-- The core stops: its status and the pc and task of the stopping instruction are recorded, nothing issues any
more, and its units drop what they had in progress. -/
def Core.stopWith (c : Core) (status pc task : Nat) : Core :=
  { c with
    seq := { c.seq with
      stop := some status, running := none,
      errPc := BitVec.ofNat 32 (pc % 2 ^ 18 + 2 ^ 18 * (task % 4)) }
    tasks := c.tasks.map (fun k => { k with st := .idle, wait := .none, rels := [] })
    arr := c.arr.abandon
    elm := { c.elm with queue := [], acts := [], load := none, wait := none, outQ := [] }
    cnv := { c.cnv with queue := [], acts := [], bound := 0 }
    str := { c.str with queue := [], loads := [], slots := c.str.slots.map (fun s => { s with st := .idle, reqs := [], walking := none }) }
    msg := { c.msg with queue := [], sending := none } }

/-- A stop by a queued command. -/
def Core.stopTag (c : Core) (status : Nat) (t : QTag) : Core := c.stopWith status t.pc t.task

/-- The core runs instructions of a job: started, not stopped, its final waypoint not issued. -/
def Core.live (c : Core) : Bool := c.seq.started && c.seq.stop.isNone && !c.seq.halted

/-! ## Protected sections (R229) -/

/-- A byte range touches a code or read-only section of a valid residency record. (DEDUCED, log 67) -/
def Core.protects (c : Core) (a n : Nat) : Bool :=
  c.img.valid && c.img.sections.any (fun s => s.kind ≤ 1 && a < s.addr + s.size && s.addr < a + n && 0 < n)

/-! ## Waiting and switching (R217 to R221) -/

/-- The first ready task in the order t + 1, t + 2, t + 3, t (R221). -/
def Core.nextReady (c : Core) (t : Fin 4) : Option (Fin 4) :=
  [t + 1, t + 2, t + 3, t].find? (fun u => (c.task u).st = .ready)

/-- The A-cycles of R223 are counted: not while a stream is halted on a fault, nor while a trip throttles the core (R439).
(DEDUCED, log 70) -/
def Core.idleCounts (c : Core) : Bool := !c.arr.trip && c.str.slots.all (fun x => x.st ≠ .halted)

/-- A-cycles taken by the sequencer ahead of the clock, `stall` of them without issue. They make no progress (R223). -/
def Core.spend (c : Core) (n stall : Nat) : Core :=
  { c with seq := { c.seq with
      cyc := c.seq.cyc + n, lead := c.seq.lead + n, stallCnt := sat32 c.seq.stallCnt stall,
      idle := if c.idleCounts then c.seq.idle + n else c.seq.idle } }

/-- An instruction, an array, the element pipe, the convolution engine, the stream engine or the mailbox has made progress (R223). -/
def Core.progress (c : Core) : Core := { c with seq := { c.seq with idle := 0 } }

/-- Run a task after the 3 A-cycles of a switch (R221). -/
def Core.runTask (c : Core) (t : Fin 4) : Core :=
  let c := c.modTask t (fun k => { k with st := .running })
  ({ c with seq := { c.seq with running := some t, last := t, switchCnt := sat32 c.seq.switchCnt 1 } }).spend 3 0

/-- After task t has left the running state: the next ready task runs, or none (R221). -/
def Core.switchFrom (c : Core) (t : Fin 4) : Core :=
  match c.nextReady t with
  | some u => c.runTask u
  | none => { c with seq := { c.seq with running := none } }

/-- The running task t waits (R217). -/
def Core.waitOn (c : Core) (t : Fin 4) (w : Wait) : Core :=
  (c.modTask t (fun k => { k with st := .waiting, wait := w })).switchFrom t

/-! ## The instruction buffer (R204) -/

/-- The 64 B line an instruction lies in. -/
def Core.ibLine (c : Core) (pc : Nat) : Nat := (c.img.codeAddr + 8 * pc) / 64

/-- The instruction is held: by its line, or in a hot run by the parked buffer (R230). -/
def Core.ibHit (c : Core) (pc : Nat) : Bool :=
  c.ib.contains (c.ibLine pc) || (c.park.isSome && c.img.hotEntry ≤ pc && pc < c.img.hotEntry + 8)

/-- Fill a line: 64 sets of 4 lines, the least recently used of the set leaves (R204). -/
def ibFill (ib : List Nat) (line : Nat) : List Nat :=
  let same := (ib.filter (fun l => l % 64 = line % 64 ∧ l ≠ line)).take 3
  line :: (same ++ ib.filter (fun l => l % 64 ≠ line % 64))

/-- The instruction word at a pc: from the parked buffer, or from code-section offset 8 × pc, little-endian (R197, R230). -/
def Core.wordAt (c : Core) (pc : Nat) : Nat :=
  match c.park with
  | some b => if c.img.hotEntry ≤ pc ∧ pc < c.img.hotEntry + 8 then (b.words.getD (pc - c.img.hotEntry) 0#64).toNat
    else ofLe (c.tile.read (c.img.codeAddr + 8 * pc) 8)
  | none => ofLe (c.tile.read (c.img.codeAddr + 8 * pc) 8)

/-- Operations that a class defines (Tables 6.4, 6.6, 6.8, 6.10 and 6.11). -/
def opDefined (cls op : Nat) : Bool :=
  match cls with
  | 0 => op ≤ 0x0D || op = 0x10 || (0x18 ≤ op && op ≤ 0x1D) || (0x20 ≤ op && op ≤ 0x22) || op = 0x28 || op = 0x29
  | 1 => op ≤ 1
  | 2 => op ≤ 1 || op = 3 || op = 4
  | 3 => op ≤ 1
  | 4 => op ≤ 5
  | 5 => op ≤ 1
  | 6 => op ≤ 7
  | 7 => op ≤ 4
  | 8 => op ≤ 1
  | 9 => op ≤ 2
  | _ => false

/-- The operation becomes a command of a unit's queue (Tables 6.3 and 6.11). -/
def opToUnit (cls op : Nat) : Bool :=
  (3 ≤ cls && cls ≤ 5) || (cls = 6 && (op = 0 || op = 4)) || (cls = 7 && (op = 0 || op = 1 || op = 3))

/-! ## Issue (R195, R198, R199, R203, R217) -/

/-- The task that may issue now: running on a live core whose final waypoint has not issued, its next instruction
held by the instruction buffer or outside the code section (where issue stops the core). A parked core's buffer
serves its first instructions. (DEDUCED, log 5) (DESIGN CHOICE, log 50) -/
def Core.issuer (c : Core) : Option (Fin 4) :=
  if !c.live || c.seq.final || c.seq.halted then none
  else
    match c.seq.running with
    | none => none
    | some t =>
      let pc := (c.task t).pc
      if c.img.codeSize / 8 ≤ pc || c.ibHit pc then some t else none

/-- An instruction that has issued counts and takes its A-cycle (Table 6.5). -/
def Core.counted (c : Core) : Core :=
  (({ c with seq := { c.seq with issueCnt := sat32 c.seq.issueCnt 1 } }).spend 1 0).progress

/-- A queued mb.recv of task t has still to write the register, which is not usable before (R201, R251). -/
def Core.recvOwes (c : Core) (t : Fin 4) (n : BitVec 5) : Bool :=
  c.msg.queue.any (fun q => q.1.task = t.val && (match q.2 with
    | .recv _ rd _ => rd = n.toNat
    | _ => false))

/-- The end of an instruction that does not branch: it counts, and the task goes on. -/
def Core.done (c : Core) (t : Fin 4) : Core := (c.modTask t Task.advance).counted

/-- An instruction of the running task t. Its pc must lie in the code section (R203, 0x0302) and its fields must be
legal, also when the guard is false (R199; `bad` is the status they give otherwise). With a false guard it takes its issue cycle and
no more, waiting for nothing (R198); else it waits out interlocks on the registers it reads, and does not issue while an mb.recv owes
one (R201). -/
def Core.issue (c : Core) (f : Fields) (bad : Option Nat) (reads : List (BitVec 5)) (eff : Core → Fin 4 → Core) : Core :=
  match c.issuer with
  | none => c
  | some t =>
    let k := c.task t
    if c.img.codeSize / 8 ≤ k.pc then c.stopWith 0x0302 k.pc t
    else if bad.isSome then c.stopWith (bad.getD 0) k.pc t
    else if k.pred f.pg = f.pn then c.done t
    else if reads.any (c.recvOwes t) then c
    else
      let ready := (reads.map k.usable).foldl max 0
      let stall := ready - c.seq.cyc
      eff (c.spend stall stall) t

/-- A stop by the instruction task t is issuing. -/
def Core.stopAt (c : Core) (t : Fin 4) (status : Nat) : Core := c.stopWith status (c.task t).pc t

/-! ## Unit queues (R207) -/

/-- Entries in use of a unit's queue: a command holds its entry until its unit has finished it; a chunk in the wait slot holds none. -/
def Core.depth (c : Core) (u : UnitQ) : Nat :=
  match u with
  | .array => c.arr.depth
  | .element => c.elm.queue.length + c.elm.acts.length + (if c.elm.load.isSome then 1 else 0) + (c.elm.swaps.filterMap Swap.tag).length
  | .conv => c.cnv.queue.length + c.cnv.acts.length
  | .stream => c.str.queue.length + (c.str.slots.filter (fun s => s.st ≠ .idle)).length
  | .message => c.msg.queue.length + (if c.msg.sending.isSome then 1 else 0)

/-- The tag of the command task t dispatches now, and the core with its dispatch number used. -/
def Core.newTag (c : Core) (t : Fin 4) : QTag × Core :=
  (⟨t, (c.task t).pc, c.seq.nextId⟩, { c with seq := { c.seq with nextId := c.seq.nextId + 1, block := none } })

/-- Dispatch of a unit command (R207): with a full queue the task waits, reason queue full, and issues the
instruction again; otherwise the command enters the queue. -/
def Core.dispatch (c : Core) (t : Fin 4) (u : UnitQ) (put : Core → QTag → Core) : Core :=
  if 8 ≤ c.depth u then c.waitOn t (.queue u)
  else
    let r := c.newTag t
    (put r.2 r.1).done t

/-- A signalling command of task t is held: some release of the task issued before it has not met its condition
(R242). -/
def Core.heldBy (c : Core) (tag : QTag) : Bool :=
  (c.tasks.toList.getD tag.task Task.idle0).rels.any (fun r => r.before ≤ tag.id)

/-! ## Prior sets (R239) -/

/-- A command of task t below the dispatch number. -/
def QTag.prior (g : QTag) (t before : Nat) : Bool := g.task = t && g.id < before

/-- Commands of a unit that have not finished. -/
def Core.unfinished (c : Core) (u : Nat) : List QTag :=
  match u with
  | 0 => c.arr.queue.map Prod.fst ++ c.arr.ops.map ArrAct.tag ++ c.arr.loads.map LoadAct.tag
  | 1 =>
    c.elm.queue.map Prod.fst ++ c.elm.acts.map ElmAct.tag ++ (c.elm.wait.map Prod.fst).toList ++
      c.elm.swaps.filterMap Swap.tag ++
      (match c.elm.load with
        | some (.cfg g _ _) => [g]
        | some (.table g _ _) => [g]
        | none => [])
  | 2 => c.cnv.queue.map Prod.fst ++ c.cnv.acts.map ConvAct.tag
  | 3 => c.str.queue.map Prod.fst ++ (c.str.slots.filter (fun s => s.st ≠ .idle)).map StrSlot.tag
  | 4 => c.msg.queue.map Prod.fst ++ (c.msg.sending.map Sending.tag).toList
  | _ => []

/-- Every command of a waypoint's prior set has finished (R239); scalar accesses by their A-cycle. -/
def Core.priorDone (c : Core) (t : Nat) (w : Wpt) : Bool :=
  ((List.range 5).all fun u => !w.units.testBit u || (c.unfinished u).all (fun g => !g.prior t w.before)) &&
  (!w.units.testBit 5 || w.mem ≤ c.seq.cyc)

end Sys2Proof.Machine
end

