-- ==== Sys2Proof/Machine/ElementOps.lean ====
section
/-! DEFINITION. The stage operations of the element pipe (R136 to R143, R149): stage words, operand sources, the
operations of Table 4.3, function tables, reductions, conversions and pair operations over 128 lanes. -/

namespace Sys2Proof.Machine

/-! ## Stage words (Table 4.1) -/

def swOp (w : Nat) : Nat := fld 4 0 w
def swSrc (w k : Nat) : Nat := fld (8 + 4 * k) (5 + 4 * k) w
/-- Negate operand a (k = 0) or b (k = 1); c has no sign fields. -/
def swNeg (w k : Nat) : Bool := decide (k < 2) && w.testBit (17 + 2 * k)
/-- Take the magnitude of operand a or b. -/
def swAbs (w k : Nat) : Bool := decide (k < 2) && w.testBit (18 + 2 * k)
def swPair (w k : Nat) : Bool := w.testBit (21 + k)
def swToAux (w : Nat) : Bool := w.testBit 24
def swDst (w : Nat) : Nat := fld 28 25 w
def swSub (w : Nat) : Nat := fld 31 29 w
def swImm (w : Nat) : Nat := fld 63 32 w

/-- Operands an operation uses (Table 4.3). -/
def opArity (op : Nat) : Nat :=
  match op with
  | 0x00 => 1
  | 0x01 => 2
  | 0x02 => 2
  | 0x03 => 3
  | 0x04 => 2
  | 0x05 => 2
  | 0x06 => 2
  | 0x07 => 3
  | 0x08 => 1
  | 0x09 => 1
  | 0x0A => 1
  | 0x0B => 2
  | 0x0C => 2
  | 0x0D => 2
  | 0x0E => 3
  | _ => 0

/-- The sub values Table 4.3 defines. -/
def subOk (op sub : Nat) : Bool :=
  match op with
  | 0x06 => sub ≤ 5
  | 0x08 => sub ≤ 3
  | 0x0A => sub ≤ 4
  | 0x0B => sub ≤ 1
  | _ => sub = 0

/-- A stage word breaks R143. -/
def stageBad (w : Nat) : Bool :=
  let op := swOp w
  let dst := swDst w
  let reg := dst % 8
  let pairOp := 0x0C ≤ op && op ≤ 0x0E
  0x0F ≤ op || !subOk op (swSub w) || (dst ≠ 0 && dst < 8) ||
  [0, 1, 2].any (fun k => swPair w k && !(8 ≤ swSrc w k && swSrc w k % 2 = 0)) ||
  ((pairOp || op = 0x0B || (op = 0x0A && 3 ≤ swSub w)) && !(8 ≤ dst && reg % 2 = 0)) ||
  ((op = 0x09 || op = 0x0A) && swSrc w 0 = 3) ||
  (op = 0x09 &&
    (let i := swImm w
     i % 16 = 15 || (i.testBit 4 && 2 < i % 16) || fld 6 5 i = 3 || i / 256 ≠ 0)) ||
  (op = 0x0A && swImm w / 2 ≠ 0)

/-- A configuration breaks R143. One that no load of the job has brought is eight zero words, each of which passes its lanes on.
(DESIGN CHOICE, log 79) -/
def cfgBad (ws : List Nat) : Bool := (List.range 8).any (fun s => stageBad (ws.getD s 0))

/-! ## Function tables (Table 4.4, R149) -/

/-- The domain mode and symmetry of a table are reserved (R149). -/
def tableBad (t : List Byte) : Bool :=
  let m := leAt t 4 1
  2 ≤ fld 1 0 m || fld 3 2 m = 3

/-- The three coefficients of a segment applied at t, each fma rounded to nearest even (R149). -/
def lutPoly (tb : List Byte) (i t : Nat) : Nat × NumFlags :=
  let c := fun k => leAt tb (32 + 12 * i + 4 * k) 4
  let p := f32Fma (c 2) t (c 1)
  let q := f32Fma p.1 t (c 0)
  (q.1, p.2.or q.2)

/-- floor of an exact value that is not negative, in units of 2^k. -/
def floorAt (v : Val) (k : Int) : Nat :=
  match v with
  | .fin _ m e => roundAt .rtz m e k
  | _ => 0

/-- The lut operation (R149) on a binary32 word. -/
def lutEval (tb : List Byte) (a : Nat) : Nat × NumFlags :=
  let mode := fld 1 0 (leAt tb 4 1)
  let sym := fld 3 2 (leAt tb 4 1)
  let x := if sym ≠ 0 then a % 2 ^ 31 else a
  let xv := f32Val x
  let lo := leAt tb 8 4
  let hi := leAt tb 12 4
  if xv.isNan then (FloatFmt.b32.qnan, .ofNan true)
  else
    let y : Nat × NumFlags :=
      if mode = 0 then
        let xlo := f32Val (leAt tb 0 4)
        let k : Int := sext 8 (leAt tb 5 1)
        if xlo.isNan then (FloatFmt.b32.qnan, .none)
        else if xv.lt xlo then (lo, .none)
        else if xlo.isInf || xv.isInf then (hi, .none)
        else
          let i := floorAt (xv.sub xlo) k
          if 255 < i then (hi, .none)
          else
            let t := f32Round .rne (xv.sub (xlo.add (.fin false i k)))
            lutPoly tb i t.1
      else
        let be := (x >>> 23) % 256
        if x.testBit 31 || be = 0 then (lo, .none)
        else if xv.isInf then (hi, .none)
        else
          let i : Int := ((be : Int) - (leAt tb 5 1 : Int)) * 16 + (fld 22 19 x : Int)
          if i < 0 then (lo, .none)
          else if 255 < i then (hi, .none)
          else
            let start := (x >>> 19) <<< 19
            lutPoly tb i.toNat (f32Sub x start).1
    if sym = 1 && a.testBit 31 && !(f32Val y.1).isNan then (f32Neg y.1, y.2) else y

/-! ## Operands -/

/-- What a stage reads and writes: the result of the last stage, in0, in1, aux, the lane registers, the lane
generators, the flags, and a stop status. -/
structure PipeState where
  prev : List Lane
  in0 : List Lane
  in1 : List Lane
  aux : List Lane
  lregs : Sparse (Nat × Bool)
  gens : List Half
  fl : NumFlags
  stop : Option Nat
deriving DecidableEq, Repr

/-- A lane register: binary32 +0 when unlisted (R156). -/
def lreg (r : Sparse (Nat × Bool)) (k lane : Nat) : Nat × Bool := Sparse.get (0, true) r (128 * k + lane)

def lregSet (r : Sparse (Nat × Bool)) (k lane : Nat) (x : Nat × Bool) : Sparse (Nat × Bool) :=
  Sparse.set (0, true) r (128 * k + lane) x

def zeroLane : Lane := ⟨0, true, false⟩

/-- A source operand of a lane (Table 4.2), the immediate apart. -/
def PipeState.src (p : PipeState) (code lane vec : Nat) : Nat × Bool :=
  let of := fun (l : List Lane) => let x := l.getD lane zeroLane; (x.v, x.flt)
  match code with
  | 0 => of p.prev
  | 1 => of p.in0
  | 2 => of p.in1
  | 4 => (lane, false)
  | 5 => (vec, false)
  | 6 => (0, true)
  | 7 => of p.aux
  | c => if 8 ≤ c then lreg p.lregs (c - 8) lane else (0, true)

/-- Magnitude and negation of a binary32 or INT32 operand (R137). -/
def modSign (x : Nat × Bool) (ab ng : Bool) : (Nat × Bool) × NumFlags :=
  if x.2 then
    let a := if ab then x.1 % 2 ^ 31 else x.1
    ((if ng then f32Neg a else a, true), .none)
  else
    let i := sext 32 x.1
    let a := if ab then satI32 i.natAbs else (i, .none)
    let n := if ng then satI32 (-a.1) else (a.1, NumFlags.none)
    ((narrow 32 n.1, false), a.2.or n.2)

/-- Operand k of a stage word in a lane, before the immediate's kind is settled: value, kind, and whether it is the
immediate. -/
def PipeState.rawOpd (p : PipeState) (w k lane vec : Nat) : (Nat × Bool) × Bool :=
  if swSrc w k = 3 then ((swImm w, true), true) else (p.src (swSrc w k) lane vec, false)

/-- The operands of an operation in a lane (R138): the immediate is INT32 when there are other operands and all of
them are INT32. A NaN among them sets nan_in, whatever the operation (Table 2.9). -/
def PipeState.opds (p : PipeState) (w lane vec : Nat) : List (Nat × Bool) × NumFlags :=
  let raw := (List.range (opArity (swOp w))).map (fun k => p.rawOpd w k lane vec)
  let others := raw.filter (fun r => !r.2)
  let immInt := !others.isEmpty && others.all (fun r => !r.1.2)
  let fixed := raw.map (fun r => if r.2 then (r.1.1, !immInt) else r.1)
  let m := (List.range fixed.length).map (fun k => modSign (fixed.getD k (0, true)) (swAbs w k) (swNeg w k))
  let nan := fixed.any (fun x => x.2 && (f32Val x.1).isNan)
  (m.map Prod.fst, (NumFlags.all (m.map Prod.snd)).or (.ofNan nan))

/-- Kind agreement of an operation's operands in a lane (R139). -/
def kindsOk (op : Nat) (os : List (Nat × Bool)) (vk : Bool) : Bool :=
  let a := (os.getD 0 (0, true)).2
  let b := (os.getD 1 (0, true)).2
  let c := (os.getD 2 (0, true)).2
  match op with
  | 0x00 => true
  | 0x01 => a == b
  | 0x02 => a && b
  | 0x03 => a && b && c
  | 0x04 => a == b
  | 0x05 => a == b
  | 0x06 => a == b
  | 0x07 => a == b
  | 0x08 => a
  | 0x0B => a == vk
  | 0x0C => a && b
  | 0x0D => a && b
  | 0x0E => a && b && c
  | _ => true

def sI (x : Nat) : Int := sext 32 x
def nI (x : Int) : Nat := narrow 32 x

/-- The relation of a cmp sub code (Table 4.3): NaN satisfies only ne. -/
def cmpHolds (sub : Nat) (flt : Bool) (a b : Nat) : Bool :=
  let lt := if flt then (f32Val a).lt (f32Val b) else decide (sI a < sI b)
  let gt := if flt then (f32Val b).lt (f32Val a) else decide (sI b < sI a)
  let eq := if flt then (f32Val a).eqv (f32Val b) else decide (sI a = sI b)
  match sub with
  | 0 => lt
  | 1 => lt || eq
  | 2 => eq
  | 3 => !eq
  | 4 => gt
  | _ => gt || eq

/-- min or max of two operands of one kind (Table 4.3). -/
def minMax (mx flt : Bool) (a b : Nat) : Nat × NumFlags :=
  if flt then
    let x := f32Val a
    let y := f32Val b
    let r := if x.isNan || y.isNan then Val.nan else if mx then x.vmax y else x.vmin y
    ((f32Round .rne r).1, .ofNan (x.isNan || y.isNan))
  else (nI (if mx then max (sI a) (sI b) else min (sI a) (sI b)), .none)

/-- The lane-by-lane operations other than cvt, red, keep and the pair operations. -/
def laneOp (op sub : Nat) (tables : List (List Byte)) (os : List (Nat × Bool)) : (Nat × Bool) × NumFlags :=
  let a := os.getD 0 (0, true)
  let b := os.getD 1 (0, true)
  let c := os.getD 2 (0, true)
  match op with
  | 0x00 => (a, .none)
  | 0x01 =>
    if a.2 then let r := f32Add a.1 b.1; ((r.1, true), r.2)
    else let r := satI32 (sI a.1 + sI b.1); ((nI r.1, false), r.2)
  | 0x02 => let r := f32Mul a.1 b.1; ((r.1, true), r.2)
  | 0x03 => let r := f32Fma a.1 b.1 c.1; ((r.1, true), r.2)
  | 0x04 => let r := minMax false a.2 a.1 b.1; ((r.1, a.2), r.2)
  | 0x05 => let r := minMax true a.2 a.1 b.1; ((r.1, a.2), r.2)
  | 0x06 =>
    let n := a.2 && ((f32Val a.1).isNan || (f32Val b.1).isNan)
    ((if cmpHolds sub a.2 a.1 b.1 then (if a.2 then 0x3F800000 else 1) else 0, a.2), .ofNan n)
  | 0x07 =>
    let t := if c.2 then !(f32Val c.1).isNan && !(f32Val c.1).isZero else decide (c.1 ≠ 0)
    (if t then a else b, .none)
  | 0x08 => let r := lutEval (tables.getD sub []) a.1; ((r.1, true), r.2)
  | _ => (a, .none)

/-! ## cvt, red, keep, pairs -/

/-- A lane's exact value. -/
def laneVal (x : Nat × Bool) : Val := if x.2 then f32Val x.1 else .ofInt (sI x.1)

/-- A value as a binary32 word; exact wherever it is used. -/
def toF32 (v : Val) : Nat := (f32Round .rne v).1

/-- A conversion's format code, mode and sat from its immediate. -/
def cvtFmt (imm : Nat) : Fmt := ⟨imm % 16, imm.testBit 4, false⟩

/-- A stage's result lane: its value under the vector's active bit. -/
def mkLane (x : Nat × Bool) (act : Bool) : Lane := ⟨x.1, x.2, act⟩

/-- The values of a block for an MX conversion: inactive lanes enter as +0 (R82). -/
def mxBlock (xs : List Lane) (gens : List Half) (rnd k : Nat) : List (Val × Rnd) :=
  (List.range 32).map (fun j =>
    let l := xs.getD (32 * k + j) zeroLane
    (if l.act then laneVal (l.v, l.flt) else .fin false 0 0, (rndOf rnd (gens.getD (32 * k + j) 1#16)).getD .rne))

/-- Generators stepped for the active lanes of a stochastic conversion (R75). -/
def stepLanes (xs : List Lane) (gens : List Half) (rnd : Nat) : List Half :=
  if rnd = 2 then
    (List.range gens.length).map (fun j =>
      if (xs.getD j zeroLane).act then genStep (gens.getD j 1#16) else gens.getD j 1#16)
  else gens

/-- A cvt stage (R80 to R82, Table 4.3): the lanes after it and the flags. -/
def cvtStage (imm : Nat) (xs : List Lane) (gens : List Half) : List Lane × NumFlags :=
  let f := cvtFmt imm
  let rnd := fld 6 5 imm
  let sat := imm.testBit 7
  if f.isMx then
    let r := (List.range 4).map (fun k =>
      let c := convMx f (mxBlock xs gens rnd k)
      let anyAct := (List.range 32).any (fun j => (xs.getD (32 * k + j) zeroLane).act)
      ((List.range 32).map (fun j =>
        let l := xs.getD (32 * k + j) zeroLane
        if l.act then ⟨toF32 (mxScale c.1 (f.val (c.2.1.getD j 0))), true, true⟩ else l),
       if anyAct then c.2.2 else NumFlags.none))
    (r.flatMap Prod.fst, NumFlags.all (r.map Prod.snd))
  else
    let r := (List.range xs.length).map (fun j =>
      let l := xs.getD j zeroLane
      let mode := (rndOf rnd (gens.getD j 1#16)).getD .rne
      if !l.act then (l, NumFlags.none)
      else if f.isInt then
        let c := convInt f mode (laneVal (l.v, l.flt))
        ((⟨nI (f.int c.1), false, true⟩ : Lane), c.2)
      else
        let c := convFloat f sat mode (laneVal (l.v, l.flt))
        (⟨toF32 (f.val c.1), true, true⟩, c.2))
    (r.map Prod.fst, NumFlags.all (r.map Prod.snd))

/-- A pairwise tree of additions over a power-of-two list (R140). -/
def treeSum : Nat → List Nat → Nat × NumFlags
  | 0, l => (l.headD 0, .none)
  | n + 1, l =>
    let h := 2 ^ n
    let a := treeSum n (l.take h)
    let b := treeSum n (l.drop h)
    let s := f32Add a.1 b.1
    (s.1, midFlags [a.2, b.2, s.2])

/-- The winner of a min or max reduction among active lanes (R140): lane number within the group and value. -/
def redBest (mx flt : Bool) (l : List (Nat × Nat)) : Option (Nat × Nat) :=
  let good := if flt then l.filter (fun p => !(f32Val p.2).isNan) else l
  let better := fun (x y : Nat) =>
    if flt then (if mx then (f32Val y).lt (f32Val x) else (f32Val x).lt (f32Val y))
    else (if mx then decide (sI y < sI x) else decide (sI x < sI y))
  match good with
  | [] => none
  | g :: gs => some (gs.foldl (fun b p => if better p.2 b.2 then p else b) g)

/-- One group of a reduction (R140): the result, its kind, the winning lane number, the flags. -/
def redGroup (sub n : Nat) (xs : List Lane) : (Nat × Bool) × Nat × NumFlags :=
  let idx := (List.range xs.length).filterMap (fun j =>
    let l := xs.getD j zeroLane
    if l.act then some (j, l.v) else none)
  let flt := match xs.find? Lane.act with
    | some l => l.flt
    | none => (xs.headD zeroLane).flt
  let nan := NumFlags.ofNan (flt && idx.any (fun p => (f32Val p.2).isNan))
  if sub = 0 then
    if flt then
      let r := treeSum n (xs.map (fun l => if l.act then l.v else 0))
      ((r.1, true), 0, nan.or r.2)
    else
      let r := satI32 ((idx.map (fun p => sI p.2)).foldl (· + ·) 0)
      ((nI r.1, false), 0, r.2)
  else
    let mx := sub = 2 ∨ sub = 4
    match redBest mx flt idx with
    | some p => ((p.2, flt), p.1, nan)
    | none =>
      match idx with
      | p :: _ => ((FloatFmt.b32.qnan, true), p.1, nan)
      | [] =>
        if flt then ((if mx then 0xFF800000 else 0x7F800000, true), 0, .none)
        else ((if mx then 0x80000000 else 0x7FFFFFFF, false), 0, .none)

/-- Sign changes of a pair operand (R137). -/
def pairSign (x : Pair) (ab ng : Bool) : Pair :=
  let y := if ab && x.1.testBit 31 then (f32Neg x.1, f32Neg x.2) else x
  if ng then (f32Neg y.1, f32Neg y.2) else y

/-- A pair operand (R142): the register pair, or (x, +0); with its kind check. -/
def PipeState.pairOpd (p : PipeState) (w k lane vec : Nat) : Pair × Bool :=
  let code := swSrc w k
  if swPair w k && 8 ≤ code && code % 2 = 0 then
    let v := lreg p.lregs (code - 8) lane
    let e := lreg p.lregs (code - 7) lane
    (pairSign (v.1, e.1) (swAbs w k) (swNeg w k), v.2 && e.2)
  else
    let x := if code = 3 then (swImm w, true) else p.src code lane vec
    let m := modSign x (swAbs w k) (swNeg w k)
    ((m.1.1, 0), m.1.2)

/-! ## One stage -/

/-- Write a stage's result: to prev, to aux with to_aux, and to vk in the active lanes with dst (R136, R137). -/
def PipeState.finish (p : PipeState) (w : Nat) (res : List Lane) (writeDst : Bool) : PipeState :=
  let reg := swDst w % 8
  let lr := if writeDst && 8 ≤ swDst w then
      (List.range 128).foldl (fun r j =>
        let l := res.getD j zeroLane
        if l.act then lregSet r reg j (l.v, l.flt) else r) p.lregs
    else p.lregs
  { p with prev := res, aux := if swToAux w then res else p.aux, lregs := lr }

/-- One stage applied to a vector (R139 to R142). A stop leaves the rest unchanged. A lut stage with an INT32 operand and a table that
is not loaded reports the operand, 0x0503. (DESIGN CHOICE, log 79) -/
def PipeState.stage (p : PipeState) (w vec : Nat) (tables : List (List Byte)) (loaded : List Bool) : PipeState :=
  let op := swOp w
  let sub := swSub w
  let reg := swDst w % 8
  let act := fun (j : Nat) => (p.prev.getD j zeroLane).act
  let lanes := List.range 128
  if p.stop.isSome then p
  else if 0x0C ≤ op && op ≤ 0x0E then
    let os := fun (j : Nat) => (List.range (opArity op)).map (fun k => p.pairOpd w k j vec)
    if lanes.any (fun j => act j && (os j).any (fun o => !o.2)) then { p with stop := some 0x0503 }
    else
      let r := lanes.map (fun j =>
        let o := (os j).map Prod.fst
        let x := o.getD 0 (0, 0)
        let y := o.getD 1 (0, 0)
        let z := o.getD 2 (0, 0)
        if !act j then ((x, NumFlags.none) : Pair × NumFlags)
        else match op with
          | 0x0C => pairAdd x y
          | 0x0D => pairMul x y
          | _ => pairFma x y z)
      let lr := lanes.foldl (fun lr j =>
        if act j then
          let e := (r.getD j ((0, 0), .none)).1.2
          lregSet lr (reg + 1) j (e, true)
        else lr) p.lregs
      let q := { p with lregs := lr, fl := p.fl.or (NumFlags.all (r.map Prod.snd)) }
      q.finish w (lanes.map (fun j => mkLane ((r.getD j ((0, 0), .none)).1.1, true) (act j))) true
  else
    let os := fun (j : Nat) => p.opds w j vec
    let vk := fun (j : Nat) => (lreg p.lregs reg j).2
    if lanes.any (fun j => act j && !kindsOk op (os j).1 (vk j)) then { p with stop := some 0x0503 }
    else if op = 0x08 && (!loaded.getD sub false || tableBad (tables.getD sub [])) then
      { p with stop := some 0x0505 }
    else
      let sf := NumFlags.all (lanes.map (fun j => if act j then (os j).2 else NumFlags.none))
      let a := fun (j : Nat) => (os j).1.getD 0 (0, true)
      let xs := lanes.map (fun j => mkLane (a j) (act j))
      match op with
      | 0x09 =>
        let r := cvtStage (swImm w) xs p.gens
        let q := { p with gens := stepLanes xs p.gens (fld 6 5 (swImm w)), fl := (p.fl.or sf).or r.2 }
        q.finish w r.1 true
      | 0x0A =>
        let wide := (swImm w).testBit 0
        let n := if wide then 7 else 5
        let size := 2 ^ n
        let groups := (List.range (128 / size)).map (fun g => (xs.drop (g * size)).take size)
        if groups.any (fun g => (g.filter Lane.act).any (fun l => l.flt != (g.find? Lane.act |>.map Lane.flt).getD true)) then
          { p with stop := some 0x0503 }
        else
          let rs := groups.map (redGroup sub n)
          let res := lanes.map (fun j => mkLane (rs.getD (j / size) ((0, true), 0, .none)).1 (act j))
          let lr := if 3 ≤ sub then
              lanes.foldl (fun lr j =>
                if act j then lregSet lr (reg + 1) j ((rs.getD (j / size) ((0, true), 0, .none)).2.1, false) else lr)
                p.lregs
            else p.lregs
          let q := { p with lregs := lr, fl := (p.fl.or sf).or (NumFlags.all (rs.map (fun (r : (Nat × Bool) × Nat × NumFlags) => r.2.2))) }
          q.finish w res true
      | 0x0B =>
        let take := fun (j : Nat) =>
          let x := a j
          let k := lreg p.lregs reg j
          if x.2 then
            ((f32Val k.1).isNan && !(f32Val x.1).isNan) ||
              (if sub = 0 then (f32Val x.1).lt (f32Val k.1) else (f32Val k.1).lt (f32Val x.1))
          else if sub = 0 then decide (sI x.1 < sI k.1) else decide (sI k.1 < sI x.1)
        let lr := lanes.foldl (fun lr j =>
          if act j && take j then lregSet (lregSet lr reg j (a j)) (reg + 1) j ((os j).1.getD 1 (0, true)) else lr)
          p.lregs
        let nan := NumFlags.ofNan (lanes.any (fun j => act j && (a j).2 && (f32Val (a j).1).isNan))
        let q := { p with lregs := lr, fl := (p.fl.or sf).or nan }
        q.finish w (lanes.map (fun j => mkLane (if act j then lreg lr reg j else a j) (act j))) false
      | _ =>
        let r := lanes.map (fun j => if act j then laneOp op sub tables (os j).1 else (a j, NumFlags.none))
        let q := { p with fl := (p.fl.or sf).or (NumFlags.all (r.map Prod.snd)) }
        q.finish w (lanes.map (fun j => mkLane (r.getD j ((0, true), .none)).1 (act j))) true

/-- A vector passes the 8 stages of a configuration (R136, R144): as if alone in the pipe. -/
def passStages (cfg : List Nat) (tables : List (List Byte)) (loaded : List Bool) (vec : Nat) (p : PipeState) : PipeState :=
  (List.range 8).foldl (fun q s => q.stage (cfg.getD s 0) vec tables loaded) p

end Sys2Proof.Machine
end

