-- ==== Sys2Proof/Machine/ElementUnit.lean ====
section
/-! DEFINITION. The element unit of a core (section 4): checks and taking of its commands (R153, R160, R161), loads
(R149, R151), vectors through the pipe (R134, R135, R144, R157), the output writer (R155), state handles, write-backs
and swaps (R159 to R163). -/

namespace Sys2Proof.Machine

/-! ## Checks (R153) -/

/-- A tile input or output format the command may name (R52, R134). -/
def elpFmtOk (f : Fmt) : Bool := f.meaningful && !f.t

/-- The extreme offsets of the output positions of `n` vectors (Table 4.6). -/
def ElpCmd.outOffsets (e : ElpCmd) (n : Nat) : List Int :=
  let m : Int := (min e.dcount n - 1 : Nat)
  let q : Int := ((n - 1) / e.dcount : Nat)
  let r : Int := ((n - 1) % e.dcount : Nat)
  let at_ := fun (i j : Int) => i * e.dstride0 + j * e.dstride1
  [at_ 0 0, at_ m 0, at_ 0 q, at_ r q] ++ (if q = 0 then [] else [at_ m (q - 1)])

/-- Every byte of `n` vectors lies in tile memory (R153, step 3). -/
def ElpCmd.extentOk (e : ElpCmd) (n : Nat) : Bool :=
  n = 0 ||
  ((e.src0 ≠ 2 ||
    (inTile e.addr0 (e.fmt0.bytes e.lanes) &&
      inTile ((e.addr0 : Int) + ((n : Int) - 1) * e.stride0) (e.fmt0.bytes e.lanes) &&
      (!e.fmt0.isMx || inTile e.scl0 (4 * (n - 1) + cdiv e.lanes 32)))) &&
   (e.src1 ≠ 1 ||
    (inTile e.addr1 (e.fmt1.bytes e.lanes) &&
      inTile ((e.addr1 : Int) + ((n : Int) - 1) * e.stride1) (e.fmt1.bytes e.lanes) &&
      (!e.fmt1.isMx || inTile e.scl1 (4 * (n - 1) + cdiv e.lanes 32)))) &&
   (e.src1 ≠ 2 ||
    (inTile e.addr1 (e.fmt1.bytes e.lanes) && (!e.fmt1.isMx || inTile e.scl1 (cdiv e.lanes 32)))) &&
   (!e.dst ||
    ((e.outOffsets n).all (fun o => inTile ((e.addrO : Int) + o) (e.fmtO.bytes e.lanes)) &&
      (!e.fmtO.isMx || inTile e.sclO (4 * (n - 1) + cdiv e.lanes 32)))) &&
   (!e.rec_ || inTile e.maskAddr (8 * (n / max 1 e.rows))))

/-- Alignment of addresses, strides and lanes (R153, step 3). -/
def ElpCmd.alignOk (e : ElpCmd) : Bool :=
  (e.src0 ≠ 2 || (e.addr0 % 16 = 0 && e.stride0 % 16 = 0 && (!e.fmt0.isMx || e.scl0 % 16 = 0))) &&
  (e.src1 = 0 || (e.addr1 % 16 = 0 && (e.src1 = 2 || e.stride1 % 16 = 0) && (!e.fmt1.isMx || e.scl1 % 16 = 0))) &&
  (!e.dst ||
    (e.addrO % 16 = 0 && e.dstride0 % 16 = 0 && e.dstride1 % 16 = 0 && (!e.fmtO.isMx || e.sclO % 16 = 0) &&
      (if e.fmtO.isMx then e.lanes % 32 = 0 else e.fmtO.bits ≠ 4 || e.lanes % 2 = 0))) &&
  (!e.rec_ || e.maskAddr % 8 = 0)

/-- The checks of R153 in their order. -/
def ElpCmd.check (e : ElpCmd) (u : ElementUnit) : Option Nat :=
  if (e.src0 = 2 && !elpFmtOk e.fmt0) || (e.src1 ≠ 0 && !elpFmtOk e.fmt1) || (e.dst && !elpFmtOk e.fmtO) then
    some 0x0501
  else if e.dst && e.rndO = 3 then some 0x0502
  else if !e.alignOk || !e.extentOk e.count then some 0x0509
  else if e.rec_ && (e.rows = 0 || 64 < e.rows || e.count % e.rows ≠ 0) then some 0x050B
  else if cfgBad (u.cfgs.getD e.cfg []) then some 0x0504
  else none

/-! ## Handles and the state file (R157 to R163) -/

def ElementUnit.handle (u : ElementUnit) (h : Nat) : Handle := u.handles.getD h Handle.unbound

def ElementUnit.setHandle (u : ElementUnit) (h : Nat) (f : Handle → Handle) : ElementUnit :=
  { u with handles := modAt u.handles h f }

/-- Signed difference of two generations (R160). -/
def genDiff (a b : Nat) : Int := sext 16 (narrow 16 ((a : Int) - (b : Int)))

/-- A chunk on the handle is active, or a write-back of it is in flight, or a swap of it in progress (R159, R162). -/
def ElementUnit.handleBusy (u : ElementUnit) (h : Nat) : Bool :=
  u.acts.any (fun a => a.cmd.rec_ && a.cmd.sh = h) || u.wbs.any (fun w => w.sh = h) || u.swaps.any (fun s => s.sh = h)

/-- Start a swap (R163): outgoing invalidates a file copy; incoming keeps the generation. -/
def ElementUnit.startSwap (u : ElementUnit) (h : Nat) (out : Bool) (tag : Option QTag) : ElementUnit :=
  let v := u.setHandle h (fun x => { x with res := if out then .outgoing else .incoming, wantIn := false })
  { v with
    fileValid := v.fileValid && !(out && v.fileSh = h)
    swaps := v.swaps ++ [⟨h, out, tag, false, 0⟩] }

/-- What R160 says of a chunk and its handle. -/
inductive ChunkFate where
  | stop (status : Nat)
  | run
  | wait
deriving DecidableEq, Repr

def ElementUnit.fate (u : ElementUnit) (e : ElpCmd) : ChunkFate :=
  let h := u.handle e.sh
  if h.res = .unbound then .stop 0x0507
  else if 0 < genDiff h.gen e.gen then .stop 0x0508
  else if h.rows ≠ e.rows then .stop 0x050B
  else if h.res = .resident ∧ h.gen = e.gen then .run
  else .wait

/-- The state file holds the chunk's handle at its generation (R162). -/
def ElementUnit.fileHolds (u : ElementUnit) (e : ElpCmd) : Bool :=
  u.fileValid && u.fileSh = e.sh && u.fileGen = e.gen

/-- The chunk's first vector may enter: the file holds its state, or the copy in tile memory is whole (R162). -/
def ElementUnit.fileReady (u : ElementUnit) (e : ElpCmd) : Bool :=
  !e.rec_ || u.fileHolds e || !u.wbs.any (fun w => w.sh = e.sh)

/-- Bytes of a state element (R159). -/
def Handle.w (h : Handle) : Nat := if h.comp then 8 else 4

/-- The working copy of a handle's state read from tile memory (R162). -/
def loadFile (tile : Mem) (h : Handle) : Sparse (Nat × Nat) :=
  (List.range (128 * h.rows)).filterMap (fun i =>
    let a := h.addr + i * h.w
    let v := ofLe (tile.read a 4)
    let e := if h.comp then ofLe (tile.read (a + 4) 4) else 0
    if v = 0 ∧ e = 0 then none else some (i, (v, e)))

/-- A write-back's bytes (R162). -/
def WriteBack.bytes (w : WriteBack) : List Byte :=
  (List.range (128 * w.rows)).flatMap (fun i =>
    let x := Sparse.get (0, 0) w.data i
    toLe 4 x.1 ++ (if w.comp then toLe 4 x.2 else []))

/-! ## Taking commands -/

/-- Vectors of a command: its count, or with count 0 the bound drain's (R154). -/
def ElmAct.total (a : ElmAct) : Option Nat := if a.cmd.src0 = 1 ∧ a.cmd.count = 0 then a.bound else some a.cmd.count

/-- Its last vector has entered. -/
def ElmAct.allIn (a : ElmAct) : Bool := a.total = some a.entered

/-- A command is finished (R145): all vectors in, all outputs written, and for a chunk the write-back retired. -/
def ElementUnit.isDone (u : ElementUnit) (a : ElmAct) : Bool :=
  a.allIn && (!a.cmd.dst || a.written = a.entered) && !u.wbs.any (fun w => w.tag = a.tag)

def ElementUnit.close (u : ElementUnit) : ElementUnit := { u with acts := u.acts.filter (fun a => !u.isDone a) }

/-- A command becomes active, or pending behind the active one (R146). -/
def ElementUnit.start (u : ElementUnit) (g : QTag) (e : ElpCmd) : ElementUnit :=
  { u with acts := u.acts ++ [⟨g, e, 0, 0, none, 0, none⟩] }

/-- Before a chunk's first vector the unit loads the file copy when it does not hold the handle at its generation
(R162); the chunk before it has stepped its last row by then. -/
def ElementUnit.loadCopy (u : ElementUnit) (tile : Mem) (e : ElpCmd) : ElementUnit :=
  if e.rec_ && !u.fileHolds e then
    { u with file := loadFile tile (u.handle e.sh), fileSh := e.sh, fileValid := true, fileGen := e.gen }
  else u

/-- A configuration word list names a table in a lut stage. -/
def cfgUsesTable (ws : List Nat) (n : Nat) : Bool :=
  (List.range 8).any (fun s => swOp (ws.getD s 0) = 8 && swSub (ws.getD s 0) = n)

/-- The queue position of the next command: commands of the waiting chunk's task wait behind it (R161). -/
def ElementUnit.nextIdx (u : ElementUnit) : Option Nat :=
  match u.wait with
  | none => if u.queue.isEmpty then none else some 0
  | some w => u.queue.findIdx? (fun q => q.1.task ≠ w.1.task)

/-- Task t's element chunk waits: the task waits from its next instruction boundary (R218). -/
def Core.chunkWait (c : Core) (t : Nat) : Core :=
  if h : t < 4 then
    let ft : Fin 4 := ⟨t, h⟩
    match (c.task ft).st with
    | .running => c.waitOn ft .chunk
    | .ready => c.modTask ft (fun k => { k with st := .waiting, wait := .chunk })
    | _ => c
  else c

/-- A swap-in started by demand (R160). -/
def ElementUnit.demandIn (u : ElementUnit) (h : Nat) : ElementUnit :=
  { (u.startSwap h false none) with cnt := { u.cnt with swapIn := sat32 u.cnt.swapIn 1 } }

/-- A chunk must wait (R160, R161): it asks for a swap-in, and moves to the wait slot when that is free; otherwise it
stays at the queue head. -/
def Core.parkChunk (c : Core) (i : Nat) (g : QTag) (e : ElpCmd) : Core :=
  let u := c.elm
  let u := match (u.handle e.sh).res with
    | .absent => u.demandIn e.sh
    | .outgoing => u.setHandle e.sh (fun x => { x with wantIn := true })
    | _ => u
  if u.wait.isSome then { c with elm := u }
  else ({ c with elm := { u with queue := dropAt u.queue i, wait := some (g, e) } }).chunkWait g.task

/-- A command that stands before the load in program order uses the configuration: taken and not all entered, in the wait
slot, or still queued behind a waiting chunk (R151, R161). -/
def ElementUnit.inUse (u : ElementUnit) (i : Nat) (uses : Nat → Bool) : Bool :=
  u.acts.any (fun a => uses a.cmd.cfg && !a.allIn) || u.wait.any (fun w => uses w.2.cfg) ||
  (u.queue.take i).any (fun q => match q.2 with
    | .cmd e => uses e.cfg
    | _ => false)

/-- The element unit takes the command at its queue head (R151, R153, R159 to R163). Nothing changes while the
command must wait. -/
def Core.elementTake (c : Core) : Core :=
  let u := c.elm
  match u.nextIdx with
  | none => c
  | some i =>
    match u.queue[i]? with
    | none => c
    | some (g, cmd) =>
      let rest := dropAt u.queue i
      if u.load.isSome then c
      else
        match cmd with
        | .cmd e =>
          if 2 ≤ u.acts.length then c
          else
            match e.check u with
            | some s => c.stopTag s g
            | none =>
              if !e.rec_ then { c with elm := ({ u with queue := rest }).start g e }
              else
                match u.fate e with
                | .stop s => c.stopTag s g
                | .run => { c with elm := ({ u with queue := rest }).start g e }
                | .wait => c.parkChunk i g e
        | .cfg n src =>
          if u.inUse i (· == n) then c
          else { c with elm := { u with queue := rest, load := some (.cfg g n src) } }
        | .table n src =>
          if u.inUse i (fun k => cfgUsesTable (u.cfgs.getD k []) n) then c
          else { c with elm := { u with queue := rest, load := some (.table g n src) } }
        | .bind b =>
          if u.handleBusy b.sh then c
          else
            let n := 128 * b.rows * (if b.comp then 8 else 4)
            if b.zero && c.protects b.addr n then c.stopTag 0x0303 g
            else
              let v := u.setHandle b.sh (fun _ => ⟨b.addr, b.rows, b.comp, b.gen, b.home, .resident, false⟩)
              { c with
                tile := if b.zero then Sparse.clear c.tile b.addr n else c.tile
                elm := { v with queue := rest, fileValid := v.fileValid && v.fileSh ≠ b.sh } }
        | .swapOut h =>
          if u.handleBusy h then c
          else
            let v := { u with queue := rest }
            { c with elm := if (u.handle h).res = .resident then v.startSwap h true (some g) else v }
        | .swapIn h =>
          if (u.handle h).res = .outgoing then c
          else
            let v := { u with queue := rest }
            { c with elm := if (u.handle h).res = .absent then v.startSwap h false (some g) else v }

/-! ## Loads (R149, R151) -/

/-- The words of a configuration in tile memory. -/
def readCfg (tile : Mem) (src : Nat) : List Nat := (List.range 8).map (fun s => ofLe (tile.read (src + 8 * s) 8))

def Core.configLoaded (c : Core) : Core :=
  match c.elm.load with
  | some (.cfg _ n src) =>
    { c with elm := { c.elm with
        load := none, cfgs := setAt c.elm.cfgs n (readCfg c.tile src), cfgLoaded := setAt c.elm.cfgLoaded n true } }
  | _ => c

def Core.tableLoaded (c : Core) : Core :=
  match c.elm.load with
  | some (.table _ n src) =>
    { c with elm := { c.elm with
        load := none, tables := setAt c.elm.tables n (c.tile.read src 3104),
        tabLoaded := setAt c.elm.tabLoaded n true } }
  | _ => c

/-! ## Vectors -/

/-- One tile element as a lane value (R134): integers as INT32, floating codes exactly, MX codes scaled and rounded
to nearest even. -/
def elemLane (f : Fmt) (scale raw : Nat) (act : Bool) : Lane × NumFlags :=
  if !act then (zeroLane, .none)
  else if f.isInt then (⟨nI (f.int raw), false, true⟩, .none)
  else if f.isMx then
    let r := f32Round .rne (mxScale scale (f.val raw))
    (⟨r.1, true, true⟩, r.2.or (.ofMx (decide (scale = 255))))
  else (⟨toF32 (f.val raw), true, true⟩, .none)

/-- The element bytes and scale bytes of a vector in tile memory (R134). -/
def readVector (tile : Mem) (f : Fmt) (addr scl lanes : Nat) : List Byte × List Byte :=
  (tile.read addr (f.bytes lanes), if f.isMx then tile.read scl (cdiv lanes 32) else [])

/-- A read vector's lanes, and the flags that entering raises in the active ones (R134, R135). -/
def enterLanes (f : Fmt) (v : List Byte × List Byte) (act : List Bool) : List Lane × NumFlags :=
  let r := (List.range 128).map (fun j =>
    elemLane f (v.2.getD (j / 32) 0#8).toNat (f.raw v.1 j) (act.getD j false))
  (r.map Prod.fst, NumFlags.all (r.map Prod.snd))

/-- A drained vector's lanes (R135). -/
def DrainVec.lanes (d : DrainVec) (n : Nat) : List Lane :=
  (List.range 128).map (fun j =>
    let a := decide (j < n) && d.act.getD j false
    Lane.mk (if a then d.vals.getD j 0 else 0) d.flt a)

/-- One recurrence step of a vector (R157): the outputs, the file, the flags, or a stop on an operand of the other
kind. -/
def recurrence (tile : Mem) (comp : Bool) (e : ElpCmd) (i : Nat) (file : Sparse (Nat × Nat)) (aux u : List Lane) :
    Option (List Lane × Sparse (Nat × Nat) × NumFlags) :=
  let t := i / max 1 e.rows
  let b := i % max 1 e.rows
  let reset := (ofLe (tile.read (e.maskAddr + 8 * t) 8)).testBit b
  if (List.range 128).any (fun j =>
      (u.getD j zeroLane).act && !((u.getD j zeroLane).flt && (aux.getD j zeroLane).flt)) then none
  else
    let r := (List.range 128).map (fun j =>
      let ul := u.getD j zeroLane
      let al := aux.getD j zeroLane
      let h := if reset then (0, 0) else Sparse.get (0, 0) file (128 * b + j)
      if !ul.act then (ul, h, NumFlags.none)
      else if comp then
        let x := pairFma (al.v, 0) h (ul.v, 0)
        (Lane.mk x.1.1 true true, x.1, x.2)
      else
        let x := f32Fma al.v h.1 ul.v
        (Lane.mk x.1 true true, (x.1, 0), x.2))
    let f := (List.range 128).foldl (fun f j =>
      let x := r.getD j (zeroLane, (0, 0), .none)
      if x.1.act then Sparse.set (0, 0) f (128 * b + j) x.2.1 else f) file
    some (r.map (fun x => x.1), f, NumFlags.all (r.map (fun x => x.2.2)))

/-- What binding the drain at the head of the drain queue does to a command (R153, R154): a stop, or the command
with the drain bound. A drain that a chunk of count 0 binds and that is no multiple of its rows is 0x050B (DESIGN CHOICE, log 79). -/
def ElmAct.bindDrain (a : ElmAct) (u : ArrayUnit) (d : DrainVec) : Except Nat ElmAct :=
  if 0 < a.inDrain then .ok { a with inDrain := a.inDrain - 1 }
  else
    let n := match u.ops.find? (fun x => x.tag.id = d.op) with
      | some x => x.op.indices.length
      | none => 1
    if a.cmd.count = 0 then
      if a.bound.isSome then .error 0x0506
      else if !a.cmd.extentOk n then .error 0x0509
      else if a.cmd.rec_ && n % max 1 a.cmd.rows ≠ 0 then .error 0x050B
      else .ok { a with bound := some n, inDrain := n - 1 }
    else if a.cmd.count < a.entered + n then .error 0x0506
    else .ok { a with inDrain := n - 1 }

/-- A vector enters the pipe and passes its 8 stages (R134 to R144, R157). On a status the core stops, and what the
stages before did to registers, generators and flags stays. A broadcast in1 is read once, with the command's first vector.
in1 without a source is +0 in every lane, and a lane's generator serves all stages of a vector before those of the next.
(DEDUCED, log 36) (DESIGN CHOICE, log 79) -/
def Core.vectorIn (c : Core) (k : Nat) (a : ElmAct) (in0 : List Lane) (fl0 : NumFlags) : Core :=
  let e := a.cmd
  let u := c.elm.loadCopy c.tile e
  let acts := in0.map Lane.act
  let a := if e.src1 = 2 then
      { a with bcast := some (a.bcast.getD (readVector c.tile e.fmt1 e.addr1 e.scl1 e.lanes)) }
    else a
  let in1 := match e.src1 with
    | 1 =>
      enterLanes e.fmt1
        (readVector c.tile e.fmt1 ((e.addr1 : Int) + a.entered * e.stride1).toNat (e.scl1 + 4 * a.entered) e.lanes) acts
    | 2 => enterLanes e.fmt1 (a.bcast.getD ([], [])) acts
    | _ => (List.replicate 128 zeroLane, NumFlags.none)
  let zero : List Lane := acts.map (fun x => Lane.mk 0 true x)
  let p := passStages (u.cfgs.getD e.cfg []) u.tables u.tabLoaded a.entered
    { prev := in0, in0 := in0, in1 := in1.1, aux := zero, lregs := u.lregs, gens := c.laneGens,
      fl := fl0.or in1.2, stop := none }
  let passed := { c with elm := { u with lregs := p.lregs }, laneGens := p.gens, fl := c.fl.or p.fl, flNow := c.flNow.or p.fl }
  match p.stop with
  | some s => passed.stopTag s a.tag
  | none =>
    let go := fun (out : List Lane) (v : ElementUnit) (fl : NumFlags) =>
      let a' := { a with entered := a.entered + 1 }
      let w := { v with
        acts := setAt v.acts k a', lregs := p.lregs, entered := true
        cnt := { v.cnt with vec := sat32 v.cnt.vec 1 }
        outQ := if e.dst then v.outQ ++ [OutVec.mk a.tag e a.entered out] else v.outQ }
      let w := if e.rec_ && a'.allIn then
          let h := w.handle e.sh
          let ng := (e.gen + 1) % 65536
          { (w.setHandle e.sh (fun x => { x with gen := ng })) with
            fileGen := ng, wbs := w.wbs ++ [WriteBack.mk a.tag e.sh h.addr h.rows h.comp w.file] }
        else w
      { c with elm := w.close, laneGens := p.gens, fl := c.fl.or fl, flNow := c.flNow.or fl, seq := c.progress.seq }
    if e.rec_ then
      match recurrence c.tile (u.handle e.sh).comp e a.entered u.file p.aux p.prev with
      | none => passed.stopTag 0x0503 a.tag
      | some r => go r.1 { u with file := r.2.1 } (p.fl.or r.2.2)
    else go p.prev u p.fl

/-- A vector enters stage 0 once its inputs are held (R144 to R148): the active command's next vector, or the first
of the pending one. -/
def Core.elementEntry (c : Core) : Core :=
  let u := c.elm
  match u.acts.findIdx? (fun a => !a.allIn) with
  | none => c
  | some k =>
    match u.acts[k]? with
    | none => c
    | some a =>
      let e := a.cmd
      if a.entered = 0 && !u.fileReady e then c
      else if e.src0 = 1 then
        match c.arr.drainOut with
        | [] => c
        | d :: _ =>
          match a.bindDrain c.arr d with
          | .error s => c.stopTag s a.tag
          | .ok a' =>
            ({ c with arr := c.arr.drainEntered d.op }).vectorIn k a' (d.lanes e.lanes) .none
      else if e.src0 = 2 then
        let r := enterLanes e.fmt0
          (readVector c.tile e.fmt0 ((e.addr0 : Int) + a.entered * e.stride0).toNat (e.scl0 + 4 * a.entered) e.lanes)
          ((List.range 128).map (fun j => decide (j < e.lanes)))
        c.vectorIn k a r.1 r.2
      else
        c.vectorIn k a ((List.range 128).map (fun j => ⟨0, true, decide (j < e.lanes)⟩)) .none

/-! ## Output writer (R155) -/

/-- The address of vector v (Table 4.6). -/
def ElpCmd.outAddr (e : ElpCmd) (v : Nat) : Nat :=
  ((e.addrO : Int) + (v % e.dcount : Nat) * e.dstride0 + (v / e.dcount : Nat) * e.dstride1).toNat

/-- The element encodings of the active lanes, the scale bytes of the blocks below the lane count, and the flags. A NaN lane leaves a
binary32 output as the canonical NaN and raises nan_in. (DESIGN CHOICE, log 79) -/
def convertOut (e : ElpCmd) (lanes : List Lane) (gens : List Half) : List (Option Nat) × List (Option Nat) × NumFlags :=
  let f := e.fmtO
  if f.isMx then
    let r := (List.range 4).map (fun k =>
      let blk := (List.range 32).map (fun j => lanes.getD (32 * k + j) zeroLane)
      let c := convMx f (mxBlock lanes gens e.rndO k)
      ((List.range 32).map (fun j => if (blk.getD j zeroLane).act then some (c.2.1.getD j 0) else none),
        if 32 * k < e.lanes then some c.1 else none,
        if blk.any Lane.act then c.2.2 else NumFlags.none))
    (r.flatMap (fun x => x.1), r.map (fun x => x.2.1), NumFlags.all (r.map (fun x => x.2.2)))
  else
    let r := (List.range 128).map (fun j =>
      let l := lanes.getD j zeroLane
      let mode := (rndOf e.rndO (gens.getD j 1#16)).getD .rne
      if !l.act then (none, NumFlags.none)
      else
        let x := if f.isInt then convInt f mode (laneVal (l.v, l.flt)) else convFloat f e.satO mode (laneVal (l.v, l.flt))
        (some x.1, x.2))
    (r.map Prod.fst, [], NumFlags.all (r.map Prod.snd))

/-- The bytes a vector leaves at its address: converted active lanes, other lanes as they stand. -/
def outBytes (f : Fmt) (old : List Byte) (n : Nat) (raws : List (Option Nat)) : List Byte :=
  f.pack ((List.range n).map (fun j => (raws.getD j none).getD (f.raw old j)))

/-- The output writer converts the oldest vector and writes it (R155). A write into a protected section is dropped
and the core stops (R229). -/
def Core.outputWrite (c : Core) : Core :=
  match c.elm.outQ with
  | [] => c
  | o :: rest =>
    let e := o.cmd
    let a := e.outAddr o.idx
    let n := e.fmtO.bytes e.lanes
    let r := convertOut e o.lanes c.laneGens
    let scl := (List.range r.2.1.length).filterMap (fun k => (r.2.1.getD k none).map (fun b => (e.sclO + 4 * o.idx + k, b)))
    if c.protects a n || scl.any (fun s => c.protects s.1 1) then c.stopTag 0x0303 o.tag
    else
      let t1 := c.tile.write a (outBytes e.fmtO (c.tile.read a n) e.lanes r.1)
      let t2 := scl.foldl (fun t s => t.put s.1 (BitVec.ofNat 8 s.2)) t1
      let u := { c.elm with
        outQ := rest
        acts := c.elm.acts.map (fun (x : ElmAct) => if x.tag = o.tag then { x with written := x.written + 1 } else x) }
      { c with
        tile := t2, elm := u.close, fl := c.fl.or r.2.2, flNow := c.flNow.or r.2.2, laneGens := stepLanes o.lanes c.laneGens e.rndO }

/-! ## Chunks, write-backs, swaps -/

/-- A waiting chunk runs once its handle is resident at its generation (R160, R161). -/
def Core.chunkResume (c : Core) : Core :=
  match c.elm.wait with
  | none => c
  | some (g, e) =>
    if 2 ≤ c.elm.acts.length then c
    else
      match c.elm.fate e with
      | .stop s => c.stopTag s g
      | .run => { c with elm := ({ c.elm with wait := none }).start g e }
      | .wait => c

/-- The oldest write-back retires (R162). -/
def Core.writebackDone (c : Core) : Core :=
  match c.elm.wbs with
  | [] => c
  | w :: rest =>
    let u := { c.elm with wbs := rest }
    let bs := w.bytes
    if c.protects w.addr bs.length then ({ c with elm := u }).stopTag 0x0303 w.tag
    else { c with tile := c.tile.write w.addr bs, elm := u.close }

/-- The command a swap works for: its own, or the chunk that waits for its handle. -/
def Core.swapTag (c : Core) (w : Swap) : QTag :=
  match w.tag, c.elm.wait with
  | some g, _ => g
  | none, some (g, e) => if e.sh = w.sh then g else ⟨0, 0, 0⟩
  | none, none => ⟨0, 0, 0⟩

/-- Bytes of a handle's region. -/
def ElementUnit.region (u : ElementUnit) (h : Nat) : Nat := 128 * (u.handle h).rows * (u.handle h).w

/-- A swap completes (R163): outgoing leaves the handle absent and starts a swap-in a waiting chunk asked for;
incoming lands the state's bytes and makes it resident. -/
def Core.swapDone (c : Core) (h : Nat) (data : List Byte) : Core :=
  match c.elm.swaps.find? (fun s => s.sh = h) with
  | none => c
  | some s =>
    let u := { c.elm with swaps := c.elm.swaps.filter (fun x => x.sh ≠ h) }
    let x := u.handle h
    if s.out then
      let v := u.setHandle h (fun y => { y with res := .absent })
      if x.wantIn || v.wait.any (fun w => w.2.sh = h) then { c with elm := v.demandIn h } else { c with elm := v }
    else
      let n := 128 * x.rows * x.w
      if c.protects x.addr n then ({ c with elm := u }).stopTag 0x0303 (c.swapTag s)
      else
        { c with
          tile := c.tile.write x.addr (slice data 0 n)
          elm := u.setHandle h (fun y => { y with res := .resident }) }

/-! ## Registers (Tables 4.8 and 4.9) -/

def ElementUnit.status (u : ElementUnit) (depth : Nat) : Word :=
  let act := u.acts.head?
  BitVec.ofNat 32 (b2n act.isSome + 2 * (act.map (fun a => a.cmd.cfg)).getD 0 +
    8 * b2n (act.any (fun a => a.cmd.rec_)) + 16 * (u.fileSh % 16) + 256 * b2n u.fileValid +
    512 * b2n u.wait.isSome + 1024 * (u.wait.map (fun w => w.2.sh)).getD 0 + 16384 * min 8 depth)

def ElementUnit.loaded (u : ElementUnit) : Word :=
  BitVec.ofNat 32 ((List.range 4).foldl (fun n i =>
    n + 2 ^ i * b2n (u.tabLoaded.getD i false) + 2 ^ (4 + i) * b2n (u.cfgLoaded.getD i false)) 0)

def ElementUnit.shReg (u : ElementUnit) (n : Nat) : Word :=
  let h := u.handle n
  BitVec.ofNat 32 (h.gen % 65536 + 65536 * h.res.code + 2 ^ 19 * b2n h.comp + 2 ^ 20 * (h.rows % 128) +
    2 ^ 27 * b2n (u.wbs.any (fun w => w.sh = n)))

/-- Cleared at the start of each job (R156); lane registers and counters also at each hot run (R156, R167). -/
def ElementUnit.clearJob (u : ElementUnit) : ElementUnit :=
  { u with
    cfgs := List.replicate 4 [], cfgLoaded := List.replicate 4 false, tables := List.replicate 4 [],
    tabLoaded := List.replicate 4 false, handles := List.replicate 16 Handle.unbound, fileValid := false, file := [],
    wbs := [], swaps := [] }

def ElementUnit.clearRun (u : ElementUnit) : ElementUnit := { u with lregs := [], cnt := .zero }

/-- Everything in progress is dropped. -/
def ElementUnit.abandon (u : ElementUnit) : ElementUnit :=
  { u with queue := [], acts := [], load := none, wait := none, outQ := [], wbs := [], swaps := [] }

end Sys2Proof.Machine
end

