-- ==== Sys2Proof/Machine/ConvUnit.lean ====
section
/-! DEFINITION. The direct convolution engine of a core (section 5): folding (R183, R184), line sets and loads
(R172 to R176), the checks of R178 and R173, binding (R179), vectors (R170, R180, R182), global averages (R190). -/

namespace Sys2Proof.Machine

/-! ## Folding and taps -/

/-- A coordinate under its axis's rule (R183, R184): the coordinate read, or none where the tap takes the rule's
value. -/
def foldCoord (p : Pad) (n : Nat) (c : Int) : Option Nat :=
  if 0 ≤ c ∧ c < n then some c.toNat
  else
    match p with
    | .zero => none
    | .const => none
    | .rep => some (if c < 0 then 0 else n - 1)
    | .mirror =>
      if n = 1 then some 0
      else
        let per : Int := 2 * ((n : Int) - 1)
        let m := c % per
        some (if (n : Int) ≤ m then per - m else m).toNat

def WinCmd.kw' (w : WinCmd) : Nat := w.planes * w.kh * w.kw
/-- Slices of the window (R170). -/
def WinCmd.slices (w : WinCmd) : Nat := cdiv w.kw' 32

/-- Tap (i, j) of position q before folding (R170). -/
def WinCmd.tapY (w : WinCmd) (q i : Nat) : Int := ((q / w.wOut * w.sy : Nat) : Int) - w.pt + (i * w.dy : Nat)
def WinCmd.tapX (w : WinCmd) (q j : Nat) : Int := ((q % w.wOut * w.sx : Nat) : Int) - w.pl + (j * w.dx : Nat)

/-- The map coordinates a tap reads, when it reads a line (R173, R183). -/
def WinCmd.tap (w : WinCmd) (q i j : Nat) : Option (Nat × Nat) :=
  match foldCoord w.padY w.h (w.tapY q i) with
  | none => none
  | some y => (foldCoord w.padX w.w (w.tapX q j)).map (fun x => (y, x))

/-- The spatial taps (i, j) that the command's slices hold. -/
def WinCmd.taps (w : WinCmd) : List (Nat × Nat) :=
  (List.range (32 * w.ns)).filterMap (fun k =>
    let e := 32 * w.s0 + k
    if e < w.kw' then some (e / w.kw % w.kh, e % w.kw) else none) |>.eraseDups

/-- Every (row, column) the command reads (R173). -/
def WinCmd.coords (w : WinCmd) : List (Nat × Nat) :=
  (List.range w.count).flatMap (fun m => w.taps.filterMap (fun t => w.tap (w.q0 + m) t.1 t.2))

/-- The line set: distinct rows, in increasing order (R173, R174). -/
def WinCmd.lineSet (w : WinCmd) : List Nat := sortBy (fun x y => decide (x ≤ y)) ((w.coords.map Prod.fst).eraseDups)

/-- Element bits of a map format; formats outside R169 are refused by the checks. -/
def mapFmtOk (f : Fmt) : Bool := f.meaningful && !f.t && (f.code ≤ 2 || (4 ≤ f.code && f.code ≤ 7))

/-- A map's present bytes lie in tile memory (R178). -/
def mapInTile (base planes rows cols bits : Nat) (ps rs : Int) : Bool :=
  let n := cdiv (cols * bits) 8
  [(0 : Int), (planes : Int) - 1].all fun p => [(0 : Int), (rows : Int) - 1].all fun y =>
    inTile ((base : Int) + p * ps + y * rs) n

/-- The checks of a window command in their order (R178, then R173). -/
def WinCmd.check (w : WinCmd) : Option Nat :=
  if !mapFmtOk w.fmt then some 0x0601
  else if w.kh = 0 ∨ 15 < w.kh ∨ w.kw = 0 ∨ 15 < w.kw ∨ w.sy = 0 ∨ 8 < w.sy ∨ w.sx = 0 ∨ 8 < w.sx ∨
      w.dy = 0 ∨ 255 < w.dy ∨ w.dx = 0 ∨ 255 < w.dx ∨ 4095 < w.pt ∨ 4095 < w.pl ∨ w.planes = 0 ∨ 16 < w.planes ∨
      w.yHi ≤ w.yLo ∨ w.h < w.yHi ∨ w.xHi ≤ w.xLo ∨ w.w < w.xHi ∨ 2048 < w.xHi - w.xLo ∨
      64 < w.planes * w.fmt.bits ∨ w.ns = 0 ∨ w.slices < w.s0 + w.ns then some 0x0602
  else if (8 ≤ w.fmt.bits ∧ w.base % (w.fmt.bits / 8) ≠ 0) ∨ (w.fmt.bits = 4 ∧ w.xLo % 2 = 1) ∨
      w.planeStride % 16 ≠ 0 ∨ w.rowStride % 16 ≠ 0 ∨
      mapInTile w.base w.planes (w.yHi - w.yLo) (w.xHi - w.xLo) w.fmt.bits w.planeStride w.rowStride = false then
    some 0x0603
  else if w.coords.any (fun p => p.1 < w.yLo || w.yHi ≤ p.1 || p.2 < w.xLo || w.xHi ≤ p.2) ||
      16 < w.lineSet.length then some 0x0604
  else none

/-- The checks of a global average (R190). -/
def GavgCmd.check (g : GavgCmd) : Option Nat :=
  if !mapFmtOk g.fmt then some 0x0601
  else if g.planes = 0 ∨ 4096 < g.planes ∨ g.h = 0 ∨ 65536 < g.h ∨ g.w = 0 ∨ 65536 < g.w then some 0x0602
  else if (8 ≤ g.fmt.bits ∧ g.base % (g.fmt.bits / 8) ≠ 0) ∨ g.planeStride % 16 ≠ 0 ∨ g.rowStride % 16 ≠ 0 ∨
      g.dest % 16 ≠ 0 ∨ mapInTile g.base g.planes g.h g.w g.fmt.bits g.planeStride g.rowStride = false ∨
      inTile g.dest (4 * g.planes) = false then some 0x0603
  else none

/-- A position of the command is degenerate (R185). -/
def WinCmd.degenerate (w : WinCmd) : Bool :=
  1 < w.kh * w.kw &&
  (List.range w.count).any fun m =>
    let inside := (List.range (w.kh * w.kw)).filter (fun k =>
      let y := w.tapY (w.q0 + m) (k / w.kw)
      let x := w.tapX (w.q0 + m) (k % w.kw)
      0 ≤ y && y < w.h && 0 ≤ x && x < w.w)
    inside.length ≤ 1

/-! ## Lines (R172 to R176) -/

def WinCmd.lineTag (w : WinCmd) (y : Nat) : LineTag :=
  ⟨w.fmt, w.base, w.planes, w.planeStride, w.rowStride, w.xLo, w.xHi, y⟩

/-- Byte address of plane-row (p, y) (R169). -/
def WinCmd.rowAddr (w : WinCmd) (p y : Nat) : Nat :=
  ((w.base : Int) + p * w.planeStride + ((y : Int) - w.yLo) * w.rowStride).toNat

/-- The reads of a plane-row of n bytes at byte address a, as (address, bytes): each moves at most 256 B from a 16 B
boundary (R174). -/
def rowReads (a n : Nat) : List (Nat × Nat) :=
  (List.range (cdiv (a % 16 + n) 256)).map (fun k =>
    let lo := if k = 0 then 0 else 256 * k - a % 16
    (a + lo, min n (256 * (k + 1) - a % 16) - lo))

def WinCmd.rowBytes (w : WinCmd) : Nat := cdiv ((w.xHi - w.xLo) * w.fmt.bits) 8

/-- The reads that the line of row y takes, in increasing plane order, as (plane, address, bytes) (R174). -/
def WinCmd.lineReads (w : WinCmd) (y : Nat) : List (Nat × Nat × Nat) :=
  (List.range w.planes).flatMap (fun p => (rowReads (w.rowAddr p y) w.rowBytes).map (fun r => (p, r.1, r.2)))

/-- The line slots no taken command holds. -/
def ConvUnit.freeSlots (u : ConvUnit) : List Nat :=
  (List.range 16).filter (fun s => !u.acts.any (fun a => a.lines.any (fun l => l.2 = s)))

/-- The free slot least recently part of a line set, the lowest-numbered among slots never used (R176). -/
def ConvUnit.pickSlot (u : ConvUnit) : Option Nat :=
  let key := fun (s : Nat) => (u.slots.getD s ⟨none, [], 0⟩).used
  match u.freeSlots with
  | [] => none
  | s :: r => some (r.foldl (fun b x => if key x < key b then x else b) s)

/-- The slot that holds a row's line (R175). -/
def ConvUnit.held (u : ConvUnit) (w : WinCmd) (y : Nat) : Option Nat :=
  (List.range 16).find? (fun s => (u.slots.getD s ⟨none, [], 0⟩).tag = some (w.lineTag y))

/-- Reads of a global average: the plane-rows in plane and row order, each split as R174 says. -/
def GavgCmd.reads (g : GavgCmd) : List (Nat × Nat) :=
  (List.range g.planes).flatMap (fun (p : Nat) => (List.range g.h).flatMap (fun (y : Nat) =>
    rowReads ((g.base : Int) + (p : Int) * g.planeStride + (y : Int) * g.rowStride).toNat (cdiv (g.w * g.fmt.bits) 8)))

/-- The command has reads to issue. -/
def ConvAct.reading (a : ConvAct) : Bool :=
  match a.cmd with
  | .win _ => !a.toLoad.isEmpty
  | .gavg g => a.reads < g.reads.length

/-- A command with keep = 1 takes the held lines whose tags match, when its loads may begin: no command before it has
reads to issue (R175, R176). (DEDUCED, log 36) -/
def ConvUnit.settle (u : ConvUnit) : ConvUnit :=
  match u.acts.findIdx? ConvAct.reading with
  | none => u
  | some k =>
    match u.acts[k]? with
    | none => u
    | some a =>
      match a.cmd with
      | .gavg _ => u
      | .win w =>
        if !w.keep || a.reads ≠ 0 then u
        else
          let kept := a.toLoad.filterMap (fun y => (u.held w y).map (fun s => (y, s)))
          { u with acts := setAt u.acts k { a with
              lines := a.lines ++ kept, toLoad := a.toLoad.filter (fun y => !kept.any (fun l => l.1 = y)) } }

/-- A command is finished: its lines are now free, last part of a line set at this point (R176, R182). -/
def ConvUnit.finish (u : ConvUnit) (a : ConvAct) : ConvUnit :=
  { u with
    acts := u.acts.tail
    useClock := u.useClock + 1
    slots := a.lines.foldl (fun sl l => modAt sl l.2 (fun x => { x with used := u.useClock + 1 })) u.slots }

/-- The engine takes the command at its queue head (R176, R178, R185, R190). -/
def Core.convTake (c : Core) : Core :=
  let u := c.cnv
  match u.queue with
  | [] => c
  | (g, cmd) :: rest =>
    if 2 ≤ u.acts.length then c
    else
      match cmd with
      | .gavg a =>
        match a.check with
        | some s => c.stopTag s g
        | none => { c with cnv := { u with queue := rest, acts := u.acts ++ [⟨g, cmd, [], [], 0, 0, 0, 0, 0, []⟩] } }
      | .win w =>
        match w.check with
        | some s => c.stopTag s g
        | none =>
          { c with cnv := ({ u with
              queue := rest, degen := u.degen || w.degenerate, degenNow := u.degenNow || w.degenerate
              acts := u.acts ++ [⟨g, cmd, [], w.lineSet, 0, 0, 0, 0, 0, []⟩] } : ConvUnit).settle }

/-- One line-buffer read is issued and its bytes are read (R174, R176): for the oldest taken command with reads to issue,
into a free slot when it starts a line. -/
def Core.lineRead (c : Core) : Core :=
  let u := c.cnv.settle
  match u.acts.findIdx? ConvAct.reading with
  | none => c
  | some k =>
    match u.acts[k]? with
    | none => c
    | some a =>
      let count := sat32 u.readCnt 1
      match a.cmd, a.toLoad with
      | .gavg g, _ =>
        { c with cnv := { u with
            acts := setAt u.acts k { a with
              reads := a.reads + 1
              got := a.got ++ (g.reads[a.reads]?.map (fun r => c.tile.read r.1 r.2)).toList }
            readCnt := count } }
      | .win w, y :: ys =>
        let slot? := match a.lines.find? (fun l => l.1 = y) with
          | some l => some l.2
          | none => u.pickSlot
        (match slot? with
        | none => c
        | some s =>
          let lines := if a.lines.any (fun l => l.1 = y) then a.lines else a.lines ++ [(y, s)]
          let rs := w.lineReads y
          let done := rs.length ≤ a.reads + 1
          let old := u.slots.getD s ⟨none, [], 0⟩
          let base := if a.reads = 0 then List.replicate w.planes [] else old.data
          let r := rs.getD a.reads (0, 0, 0)
          let slot : LineSlot :=
            ⟨if done then some (w.lineTag y) else none, modAt base r.1 (fun x => x ++ c.tile.read r.2.1 r.2.2), old.used⟩
          { c with cnv := { u with
              slots := setAt u.slots s slot
              readCnt := count
              acts := setAt u.acts k
                { a with lines := lines, toLoad := if done then ys else y :: ys,
                         reads := if done then 0 else a.reads + 1, fresh := 6 } } })
      | .win _, [] => c

/-! ## Binding and vectors (R170, R179 to R182) -/

/-- The window command whose sweep the next array operation binds to (R179). -/
def ConvUnit.nextSweep (u : ConvUnit) : Option WinCmd :=
  let wins := (u.acts.map ConvAct.cmd ++ u.queue.map Prod.snd).filterMap (fun x => match x with
    | .win w => some w
    | .gavg _ => none)
  (wins.flatMap (fun w => List.replicate w.ns w))[u.bound]?

/-- What R179 asks of a bound operation. -/
def ArrOp.bindOk (o : ArrOp) (w : WinCmd) : Bool :=
  o.isW && decide (o.form = some .normal) && o.n = w.count && o.fv.code = w.fmt.code && o.fv.u = w.fmt.u

/-- Element e of the window of position q (R170, R183). -/
def WinCmd.elem (w : WinCmd) (slots : List LineSlot) (lines : List (Nat × Nat)) (q e : Nat) : Nat :=
  if w.kw' ≤ e then 0
  else
    let p := e / (w.kh * w.kw)
    let i := e / w.kw % w.kh
    let j := e % w.kw
    let padVal := fun (r : Pad) => if r = .const then w.padConst % 2 ^ w.fmt.bits else 0
    match foldCoord w.padY w.h (w.tapY q i) with
    | none => padVal w.padY
    | some y =>
      match foldCoord w.padX w.w (w.tapX q j) with
      | none => padVal w.padX
      | some x =>
        match lines.find? (fun l => l.1 = y) with
        | none => 0
        | some l => w.fmt.raw ((slots.getD l.2 ⟨none, [], 0⟩).data.getD p []) (x - w.xLo)

/-- Every vector of the command is formed; a global average forms none. -/
def ConvAct.formed (a : ConvAct) : Bool :=
  match a.cmd with
  | .win w => w.ns ≤ a.sweep
  | .gavg _ => false

/-- The feeders of some masked array have no free entry (R102). -/
def ArrayUnit.feedersFull (u : ArrayUnit) (x : ArrAct) : Bool := x.op.arrays.any (fun a => 16 ≤ u.feeders a)

/-- The engine forms the next vector of the oldest sweep not formed, for the operation bound to it (R180); formation
holds while the feeders have no free entry. -/
def Core.formVector (c : Core) : Core :=
  let u := if c.cnv.acts.find? (fun a => !a.formed) |>.any (fun a => a.toLoad.isEmpty) then c.cnv else c.cnv.settle
  match u.acts.findIdx? (fun a => !a.formed), c.arr.ops.findIdx? (fun x => x.op.conv && x.read < x.op.n) with
  | some n, some k =>
    (match u.acts[n]?, c.arr.ops[k]? with
    | some a, some x =>
      (match a.cmd with
      | .gavg _ => c
      | .win w =>
      if !a.toLoad.isEmpty || 27 ≤ x.read - x.slowest || c.arr.feedersFull x then c
      else
        let q := w.q0 + a.vec
        let v : Vec := ⟨w.fmt.pack ((List.range 32).map (fun r => w.elem u.slots a.lines q (32 * (w.s0 + a.sweep) + r))), []⟩
        let lastV := w.count ≤ a.vec + 1
        let a' := if lastV then { a with vec := 0, sweep := a.sweep + 1 } else { a with vec := a.vec + 1 }
        { c with
          arr := { c.arr with ops := setAt c.arr.ops k { x with read := x.read + 1, inflight := x.inflight ++ [v] } }
          seq := c.progress.seq
          cnv := { u with vecCnt := sat32 u.vecCnt 1, acts := setAt u.acts n a' } })
    | _, _ => c)
  | _, _ => c

/-! ## Global average (R190) -/

/-- A nonnegative quotient m / d × 2^e rounded to nearest even as binary32. -/
def divF32 (neg : Bool) (m : Nat) (e : Int) (d : Nat) : Nat × NumFlags :=
  let q := m * 2 ^ 200 / d
  let s := if m * 2 ^ 200 % d = 0 then 0 else 1
  f32Round .rne (.fin neg (2 * q + s) (e - 201))

/-- A fixed pairwise tree of additions over a list: neighbours first, an odd last one carried up. -/
def pairSum : Nat → List Nat → Nat × NumFlags
  | 0, l => (l.headD 0, .none)
  | n + 1, l =>
    if l.length ≤ 1 then (l.headD 0, .none)
    else
      let ps := chunks 2 (cdiv l.length 2) l
      let r := ps.map (fun p => match p with
        | [a, b] => let x := f32Add a b; (x.1, { x.2 with nanIn := false })
        | [a] => (a, NumFlags.none)
        | _ => (0, NumFlags.none))
      let t := pairSum n (r.map Prod.fst)
      (t.1, (NumFlags.all (r.map Prod.snd)).or t.2)

/-- Reads of one row of plane p. -/
def GavgCmd.rowReads (g : GavgCmd) (p y : Nat) : List (Nat × Nat) :=
  Machine.rowReads ((g.base : Int) + (p : Int) * g.planeStride + (y : Int) * g.rowStride).toNat (cdiv (g.w * g.fmt.bits) 8)

/-- The elements that each read of plane p brought, from the bytes of all the command's reads in order: a row ends at its
W-th element (R169). -/
def GavgCmd.planeElems (g : GavgCmd) (got : List (List Byte)) (p : Nat) : List (List Nat) :=
  let before := ((List.range p).map (fun q => ((List.range g.h).map (fun y => (g.rowReads q y).length)).sum)).sum
  let step := fun (acc : List (List Nat) × Nat) (y : Nat) =>
    let bs := (got.drop acc.2).take (g.rowReads p y).length
    let row := bs.foldl (fun (r : List (List Nat) × Nat) b =>
      let n := min (8 * b.length / g.fmt.bits) (g.w - r.2)
      (r.1 ++ [(List.range n).map (fun i => g.fmt.raw b i)], r.2 + n)) ([], 0)
    (acc.1 ++ row.1, acc.2 + bs.length)
  ((List.range g.h).foldl step ([], before)).1

/-- The mean of a plane (R190). -/
def GavgCmd.mean (g : GavgCmd) (got : List (List Byte)) (p : Nat) : Nat × NumFlags :=
  let raws := g.planeElems got p
  let n := g.h * g.w
  if g.fmt.isInt then
    let s := ((raws.map (fun l => (l.map g.fmt.int).foldl (· + ·) 0)).foldl (· + ·) 0 : Int)
    divF32 (decide (s < 0)) s.natAbs 0 n
  else
    let vals := raws.map (fun l => l.map (fun r => toF32 (g.fmt.val r)))
    let nan := NumFlags.ofNan (vals.any (fun l => l.any (fun w => (f32Val w).isNan)))
    let sums := vals.map (pairSum 8)
    let tot := (sums.drop 1).foldl (fun (a : Nat × NumFlags) b =>
      let x := f32Add a.1 b.1
      (x.1, (a.2.or b.2).or { x.2 with nanIn := false })) (sums.headD (0, .none))
    match f32Val tot.1 with
    | .fin s m e => let r := divF32 s m e n; (r.1, (nan.or tot.2).or r.2)
    | _ => (tot.1, nan.or tot.2)

/-- A global average whose reads are all issued writes its means and finishes (R190). -/
def Core.gavgFinish (c : Core) : Core :=
  match c.cnv.acts with
  | [] => c
  | a :: as =>
    match a.cmd with
    | .win _ => c
    | .gavg g =>
      if a.reads < g.reads.length then c
      else if c.protects g.dest (4 * g.planes) then c.stopTag 0x0303 a.tag
      else
        let ms := (List.range g.planes).map (g.mean a.got)
        { c with
          tile := c.tile.write g.dest (ms.flatMap (fun m => toLe 4 m.1))
          fl := c.fl.or (NumFlags.all (ms.map Prod.snd)), flNow := c.flNow.or (NumFlags.all (ms.map Prod.snd))
          cnv := { c.cnv with acts := as } }

/-- Sweeps of window commands that have not formed their last vector. (DEDUCED, log 33) -/
def ConvUnit.sweepsLeft (u : ConvUnit) : Nat :=
  (u.acts.map (fun a => match a.cmd with
    | .win w => w.ns - a.sweep
    | .gavg _ => 0)).sum +
  (u.queue.map (fun q => match q.2 with
    | .win w => w.ns
    | .gavg _ => 0)).sum

/-- Bound operations that have not read their sweep's last vector. -/
def ArrayUnit.boundLeft (u : ArrayUnit) : Nat :=
  (u.ops.filter (fun x => x.op.conv && x.read < x.op.n)).length +
  (u.queue.filter (fun q => match q.2 with
    | .op o => o.conv
    | .load _ => false)).length

/-- The final-waypoint check of R179: a sweep with no operation to bind it, or a bound operation whose sweep no
command will supply. Sweeps and operations bind one for one, so their numbers differ. (DEDUCED, log 33) -/
def Core.bindLeft (c : Core) : Bool := c.cnv.sweepsLeft != c.arr.boundLeft

/-! ## Registers (Tables 5.5 and 5.6) -/

def ConvUnit.status (u : ConvUnit) : Word :=
  let held := (u.slots.filter (fun s => s.tag.isSome)).length
  let left := match u.acts.head? with
    | some a => (match a.cmd with
      | .win w => w.ns - a.sweep
      | .gavg _ => 0)
    | none => 0
  let ga := match u.acts.head? with
    | some a => (match a.cmd with
      | .win _ => false
      | .gavg _ => true)
    | none => false
  BitVec.ofNat 32 (b2n (!u.acts.isEmpty) + 2 * b2n (decide (2 ≤ u.acts.length)) + 4 * b2n ga + 2 ^ 8 * held + 2 ^ 16 * left +
    2 ^ 23 * min 8 (u.queue.length + u.acts.length))

/-- Line tags, counters and flags cleared at the start of each job and each hot run (R175, R192). -/
def ConvUnit.clearRun (u : ConvUnit) : ConvUnit :=
  { u with
    slots := u.slots.map (fun s => { s with tag := none }), degen := false, vecCnt := 0, readCnt := 0, waitCnt := 0 }

def ConvUnit.abandon (u : ConvUnit) : ConvUnit := { u with queue := [], acts := [], bound := 0 }

/-! ## The array unit's takes, with the engine's binding -/

/-- The array unit takes the command at its queue head (R94, R96, R97, R98, R120, R179). -/
def Core.arrayTake (c : Core) : Core :=
  let u := c.arr
  match u.queue with
  | [] => c
  | (g, .load l) :: rest =>
    if u.loadHeld l then c
    else
      match l.check with
      | some s => c.stopTag s g
      | none => { c with arr := ({ u with queue := rest }).takeLoad g l }
  | (g, .op o) :: rest =>
    if !u.roomForOp then c
    else
      let pre := o.combOk && o.fmtOk && o.rnd ≠ 3 && o.rangeOk && o.alignOk
      if pre && o.conv && c.cnv.nextSweep.isNone then c
      else
        match o.check u (match c.cnv.nextSweep with
          | some w => o.bindOk w
          | none => false) with
        | some s => c.stopTag s g
        | none =>
          { c with
            arr := { u with queue := rest, ops := u.ops ++ [ArrAct.new g o] }
            cnv := if o.conv then { c.cnv with bound := c.cnv.bound + 1 } else c.cnv }

/-- A stationary load's last row is written (R96). -/
def Core.slotLoaded (c : Core) : Core :=
  match c.arr.loads with
  | [] => c
  | l :: rest => { c with arr := ({ c.arr with loads := rest }).finishLoad c.tile l.load }

/-- The array unit reads the next streamed vector, or the next two together at 4 operations (R99, R102). -/
def Core.streamRead (c : Core) : Core :=
  let u := c.arr
  match u.readIdx with
  | none => c
  | some k =>
    match u.ops[k]? with
    | none => c
    | some x =>
      if x.mayRead then
        { c with arr := { u with
            ops := setAt u.ops k { x with
              read := x.read + x.together
              inflight := x.inflight ++ (List.range x.together).map (fun i => x.op.readVec c.tile (x.read + i)) } } }
      else c

/-- A formed vector has entered the broadcast; with its command's last one the command is finished and releases its line
set (R182). -/
def ConvUnit.vectorSent (u : ConvUnit) : ConvUnit :=
  match u.acts with
  | [] => u
  | a :: as =>
    match a.cmd with
    | .gavg _ => u
    | .win w =>
      let a' := { a with sent := a.sent + 1 }
      if w.ns * w.count ≤ a'.sent then { (u.finish a') with bound := u.bound - w.ns } else { u with acts := a' :: as }

/-- A returned vector is broadcast once every feeder of the mask has room (R102). -/
def Core.broadcast (c : Core) : Core :=
  let u := c.arr
  match u.bcastIdx with
  | none => c
  | some k =>
    match u.ops[k]? with
    | none => c
    | some x =>
      if !u.feedersFull x then
        { c with
          arr := { u with ops := setAt u.ops k x.broadcast }
          cnv := if x.op.conv && !x.inflight.isEmpty then c.cnv.vectorSent else c.cnv }
      else c

/-- One A-cycle of the arrays (R104); no dummy cycle after the final waypoint or while parked (R127). -/
def Core.arrayCycle (c : Core) : Core :=
  let r := c.arr.cycle c.tile c.colGens .none (c.live && !c.seq.final && !c.seq.parked)
  { c with
    arr := r.1, colGens := r.2.1, fl := c.fl.or r.2.2, flNow := c.flNow.or r.2.2
    seq := if r.1.cnt.issue = c.arr.cnt.issue then c.seq else c.progress.seq }

/-- A drain read (R114). -/
def Core.drainRead (c : Core) : Core :=
  let r := c.arr.drainRead c.tile
  { c with arr := r.1, fl := c.fl.or r.2, flNow := c.flNow.or r.2 }

end Sys2Proof.Machine
end

