-- ==== Sys2Proof/Machine/Operands.lean ====
section
/-! DEFINITION. Operand forms of core instructions: the b operand, unused fields (R198, R199), parameter blocks with
their rebase, override and checks (R206), and the blocks of Tables 6.7, 6.9 and 6.10. -/

namespace Sys2Proof.Machine

/-! ## Fields (Table 6.2, R199) -/

/-- A field the operation does not use is zero. -/
def Fields.unused (rd ra rb imm : Bool) (xmask : Nat) (f : Fields) : Bool :=
  (rd || f.rd = 0#5) && (ra || f.ra = 0#5) && (rb || f.rb = 0#5) && (imm || f.imm = 0#32) &&
  (f.x.toNat &&& (7 - xmask)) = 0

/-- The status of an illegal instruction word (R199), none when it is legal. -/
def illegalUnless (ok : Bool) : Option Nat := if ok then none else some 0x0301

def Fields.x0 (f : Fields) : Bool := f.x.getLsbD 0
def Fields.x1 (f : Fields) : Bool := f.x.getLsbD 1

/-- b: the immediate with x[0] = 1, else s[rb]; the field not used is zero (Table 6.4). -/
def Fields.bOk (f : Fields) : Bool := if f.x0 then f.rb = 0#5 else f.imm = 0#32
def Fields.b (f : Fields) (k : Task) : Word := if f.x0 then f.imm else k.reg f.rb
def Fields.bReads (f : Fields) : List (BitVec 5) := if f.x0 then [] else [f.rb]

/-- s[ra] + imm. -/
def Fields.addr (f : Fields) (k : Task) : Word := k.reg f.ra + f.imm

/-- rd names a predicate: rd[4:3] = 0 (Table 6.4). -/
def Fields.rdPred (f : Fields) : Bool := f.rd.toNat < 8
def Fields.pd (f : Fields) : BitVec 3 := f.rd.setWidth 3

/-! ## Parameter blocks (R206) -/

/-- Word i of a block. (DEDUCED, log 51) -/
def blkWord (b : List Byte) (i : Nat) : Nat := leAt b (4 * i) 4

/-- Every bit outside the masks is 0 (R206: reserved bits). (DEDUCED, log 36) (DEDUCED, log 51) -/
def maskOk (b : List Byte) (masks : List Nat) : Bool :=
  (List.range masks.length).all (fun i => blkWord b i &&& (4294967295 - masks.getD i 0) = 0)

/-- An address field after any rebase (R206): stored, or stored plus s[rb] modulo 2^32 when its reloc bit is set. -/
def rebase (stored : Nat) (reloc : Bool) (delta : Option Word) : Nat :=
  match delta with
  | some d => if reloc then (stored + d.toNat) % 2 ^ 32 else stored
  | none => stored

def addrOk (used : Bool) (a : Nat) : Bool := !used || a < tileBytes

/-- A signed 32-bit stride. -/
def stride (x : Nat) : Int := sext 32 x

def fullW : Nat := 4294967295

/-- arr.op's block (Table 6.7) with its rebase and override. -/
def parseArrOp (b : List Byte) (delta : Option Word) (cnt : Option Word) : ArrOp :=
  let w := blkWord b
  let r := w 12
  { form := Form.ofCode (fld 1 0 (w 0)), heading := Heading.ofCode (fld 3 2 (w 0)), transposed := (w 0).testBit 4,
    mode := CellMode.ofCode (fld 7 5 (w 0)), mask := fld 11 8 (w 0), slot := fld 12 12 (w 0), rnd := fld 14 13 (w 0),
    accInit := (w 0).testBit 15, drain := (w 0).testBit 16, conv := (w 0).testBit 17,
    fs := Fmt.ofBits (fld 5 0 (w 1)), fv := Fmt.ofBits (fld 13 8 (w 1)), fc := Fmt.ofBits (fld 21 16 (w 1)),
    n := match cnt with
      | some v => v.toNat
      | none => fld 15 0 (w 2) + 1,
    rows := fld 20 16 (w 2) + 1, ncols := fld 8 0 (w 3) + 1,
    accBase := [fld 8 0 (w 4), fld 24 16 (w 4), fld 8 0 (w 5), fld 24 16 (w 5)],
    srcV := rebase (w 6) (r.testBit 0) delta, vstride := stride (w 7), srcC := rebase (w 8) (r.testBit 1) delta,
    sclV := rebase (w 9) (r.testBit 2) delta, sclC := rebase (w 10) (r.testBit 3) delta,
    sclT := rebase (w 11) (r.testBit 4) delta }

def arrOpMasks : List Nat :=
  [0x3FFFF, 0x003F3F3F, 0x1FFFFF, 0x1FF, 0x01FF01FF, 0x01FF01FF, fullW, fullW, fullW, fullW, fullW, fullW, 0x1F, 0, 0, 0]

/-- The address fields an array operation uses lie below 2 MiB (R206). -/
def ArrOp.addrsOk (o : ArrOp) : Bool :=
  addrOk (!o.conv) o.srcV && addrOk o.isO o.srcC && addrOk (!o.conv && o.fv.isMx) o.sclV &&
  addrOk (o.isO && o.fc.isMx) o.sclC && addrOk o.weight.t o.sclT

/-- arr.load's block (Table 6.7). -/
def parseArrLoad (b : List Byte) (delta : Option Word) : ArrLoad :=
  let w := blkWord b
  { mask := fld 3 0 (w 0), slot := fld 4 4 (w 0), fmt := ⟨fld 11 8 (w 0), (w 0).testBit 12, false⟩,
    src := rebase (w 1) ((w 5).testBit 0) delta, rowStride := stride (w 2), arrayStride := stride (w 3),
    scale := rebase (w 4) ((w 5).testBit 1) delta }

def arrLoadMasks : List Nat := [0x1F1F, fullW, fullW, fullW, fullW, 3, 0, 0]

/-- elp.cmd's block (Table 6.9). -/
def parseElpCmd (b : List Byte) (delta : Option Word) (cnt : Option Word) : ElpCmd :=
  let w := blkWord b
  let r := fld 22 16 (w 4)
  { cfg := fld 1 0 (w 0), src0 := fld 3 2 (w 0), src1 := fld 5 4 (w 0), dst := (w 0).testBit 6, rec_ := (w 0).testBit 7,
    lanes := fld 15 8 (w 0), sh := fld 19 16 (w 0), rows := fld 26 20 (w 0),
    fmt0 := ⟨fld 3 0 (w 1), (w 1).testBit 4, false⟩, fmt1 := ⟨fld 11 8 (w 1), (w 1).testBit 12, false⟩,
    fmtO := ⟨fld 19 16 (w 1), (w 1).testBit 20, false⟩, rndO := fld 25 24 (w 1), satO := (w 1).testBit 26,
    count := match cnt with
      | some v => v.toNat
      | none => fld 16 0 (w 2),
    gen := fld 15 0 (w 3), dcount := fld 15 0 (w 4) + 1,
    addr0 := rebase (w 5) (r.testBit 0) delta, stride0 := stride (w 6), scl0 := rebase (w 7) (r.testBit 1) delta,
    addr1 := rebase (w 8) (r.testBit 2) delta, stride1 := stride (w 9), scl1 := rebase (w 10) (r.testBit 3) delta,
    addrO := rebase (w 11) (r.testBit 4) delta, dstride0 := stride (w 12), dstride1 := stride (w 13),
    sclO := rebase (w 14) (r.testBit 5) delta, maskAddr := rebase (w 15) (r.testBit 6) delta }

def elpCmdMasks : List Nat :=
  [0x07FFFFFF, 0x071F1F1F, 0x1FFFF, 0xFFFF, 0x7FFFFF, fullW, fullW, fullW, fullW, fullW, fullW, fullW, fullW, fullW,
    fullW, fullW]

/-- Ranges and addresses of an element command that the sequencer checks (R206). -/
def ElpCmd.blockOk (e : ElpCmd) : Bool :=
  e.src0 ≠ 3 && e.src1 ≠ 3 && 1 ≤ e.lanes && e.lanes ≤ 128 && e.count ≤ 65536 && (e.count ≠ 0 || e.src0 = 1) &&
  addrOk (e.src0 = 2) e.addr0 && addrOk (e.src0 = 2 && e.fmt0.isMx) e.scl0 && addrOk (e.src1 ≠ 0) e.addr1 &&
  addrOk (e.src1 ≠ 0 && e.fmt1.isMx) e.scl1 && addrOk e.dst e.addrO && addrOk (e.dst && e.fmtO.isMx) e.sclO &&
  addrOk e.rec_ e.maskAddr

/-- elp.bind's block (Table 6.9). -/
def parseElpBind (b : List Byte) (delta : Option Word) : ElpBind :=
  let w := blkWord b
  { sh := fld 3 0 (w 0), rows := fld 10 4 (w 0), comp := (w 0).testBit 11, zero := (w 0).testBit 12,
    gen := fld 31 16 (w 0), addr := rebase (w 1) ((w 3).testBit 16) delta, home := w 2 + 2 ^ 32 * fld 15 0 (w 3) }

def elpBindMasks : List Nat := [0xFFFF1FFF, fullW, fullW, 0x1FFFF]

/-- A bind's rows and region (R206, R159). -/
def ElpBind.blockOk (b : ElpBind) : Bool :=
  1 ≤ b.rows && b.rows ≤ 64 && b.addr < tileBytes && b.addr + 128 * b.rows * (if b.comp then 8 else 4) ≤ tileBytes

/-- cnv.win's block (Table 6.10). -/
def parseWin (b : List Byte) (delta : Option Word) (cnt : Option Word) : WinCmd :=
  let w := blkWord b
  { fmt := ⟨fld 3 0 (w 0), (w 0).testBit 4, false⟩, planes := fld 9 5 (w 0), kh := fld 13 10 (w 0), kw := fld 17 14 (w 0),
    sy := fld 21 18 (w 0), sx := fld 25 22 (w 0), padY := Pad.ofCode (fld 27 26 (w 0)),
    padX := Pad.ofCode (fld 29 28 (w 0)), keep := (w 0).testBit 30, dy := fld 7 0 (w 1), dx := fld 15 8 (w 1),
    padConst := fld 31 16 (w 1), pt := fld 11 0 (w 2), pl := fld 27 16 (w 2),
    base := rebase (w 3) ((w 12).testBit 0) delta, planeStride := stride (w 4), rowStride := stride (w 5),
    h := fld 15 0 (w 6) + 1, w := fld 31 16 (w 6) + 1, yLo := fld 15 0 (w 7), yHi := fld 31 16 (w 7) + 1,
    xLo := fld 15 0 (w 8), xHi := fld 31 16 (w 8) + 1, wOut := fld 15 0 (w 9) + 1,
    count := match cnt with
      | some v => v.toNat
      | none => fld 24 16 (w 9) + 1,
    q0 := w 10, s0 := fld 6 0 (w 11), ns := fld 14 8 (w 11) }

def winMasks : List Nat :=
  [0x7FFFFFFF, fullW, 0x0FFF0FFF, fullW, fullW, fullW, fullW, fullW, fullW, 0x01FFFFFF, fullW, 0x7F7F, 1, 0, 0, 0]

/-- cnv.gavg's block (Table 6.10). -/
def parseGavg (b : List Byte) (delta : Option Word) : GavgCmd :=
  let w := blkWord b
  { fmt := ⟨fld 3 0 (w 0), (w 0).testBit 4, false⟩, planes := fld 27 16 (w 0) + 1,
    base := rebase (w 1) ((w 6).testBit 0) delta, planeStride := stride (w 2), rowStride := stride (w 3),
    h := fld 15 0 (w 4) + 1, w := fld 31 16 (w 4) + 1, dest := rebase (w 5) ((w 6).testBit 1) delta }

def gavgMasks : List Nat := [0x0FFF001F, fullW, fullW, fullW, fullW, fullW, 3, 0]

/-- A block command's word is legal: x[0] uses rb, x[1] uses rd, x[2] and unused fields are zero (R206). -/
def Fields.blockOk (f : Fields) (override : Bool) : Bool :=
  (f.x0 || f.rb = 0#5) && (f.x1 || f.rd = 0#5) && (override || !f.x1) && !f.x.getLsbD 2

/-- Registers a block command reads. -/
def Fields.blockReads (f : Fields) : List (BitVec 5) :=
  f.ra :: ((if f.x0 then [f.rb] else []) ++ (if f.x1 then [f.rd] else []))

/-- Issue of a command with a parameter block of `size` bytes (R206, R207): with a full queue the task waits; else the copy,
the checks (0x0305), the dispatch. `take` answers the queue entry's command or none when a check fails. A hot run's first unit command uses
the copy made at parking (R230). -/
def Core.blockCommand (c : Core) (f : Fields) (override : Bool) (size : Nat) (u : UnitQ)
    (take : List Byte → Option Word → Option Word → Option (Core → QTag → Core)) : Core :=
  c.issue f (illegalUnless (f.blockOk override)) f.blockReads (fun c t =>
    let k := c.task t
    let a := (f.addr k).toNat
    if 8 ≤ c.depth u then c.waitOn t (.queue u)
    else if a % 16 ≠ 0 ∨ tileBytes < a + size then c.stopAt t 0x0305
    else
      let bytes := (c.seq.block.getD c.tile).read a size
      let delta := if f.x0 then some (k.reg f.rb) else none
      let cnt := if f.x1 then some (k.reg f.rd) else none
      match take bytes delta cnt with
      | none => c.stopAt t 0x0305
      | some put => ({ c with seq := { c.seq with block := none } }).dispatch t u put)

end Sys2Proof.Machine
end

