-- ==== Sys2Proof/Machine/SeqOps.lean ====
section
/-! DEFINITION. What each core instruction does in the sequencer of its core (section 6, and the dispatch and wait
rules of sections 7 and 8), as a function of the core. -/

namespace Sys2Proof.Machine

/-! ## Scalar arithmetic, compares, predicates (Table 6.4, R200) -/

/-- s[rd] = op(s[ra], b), usable `lat` A-cycles after issue (Table 6.5). -/
def Core.alu (c : Core) (f : Fields) (lat : Nat) (op : Word → Word → Word) : Core :=
  c.issue f (illegalUnless (Fields.unused true true true true 1 f && f.bOk)) (f.ra :: f.bReads) (fun c t =>
    let k := c.task t
    (c.setTask t (k.setReg f.rd (op (k.reg f.ra) (f.b k)) (c.seq.cyc + lat))).done t)

/-- p[rd[2:0]] = rel(s[ra], b). -/
def Core.compare (c : Core) (f : Fields) (rel : Word → Word → Bool) : Core :=
  c.issue f (illegalUnless (Fields.unused true true true true 1 f && f.bOk && f.rdPred)) (f.ra :: f.bReads)
    (fun c t =>
      let k := c.task t
      (c.setTask t (k.setPred f.pd (rel (k.reg f.ra) (f.b k)))).done t)

/-- p[rd[2:0]] = p[ra[2:0]] op q, q being p[rb[2:0]], inverted with x[1] = 1. -/
def Core.predOp (c : Core) (f : Fields) (op : Bool → Bool → Bool) : Core :=
  c.issue f (illegalUnless (Fields.unused true true true false 2 f && f.rdPred && f.ra.toNat < 8 && f.rb.toNat < 8)) []
    (fun c t =>
      let k := c.task t
      let q := k.pred (f.rb.setWidth 3) != f.x1
      (c.setTask t (k.setPred f.pd (op (k.pred (f.ra.setWidth 3)) q))).done t)

/-- s[rd] = b. -/
def Core.mov (c : Core) (f : Fields) : Core :=
  c.issue f (illegalUnless (Fields.unused true false true true 1 f && f.bOk)) f.bReads (fun c t =>
    let k := c.task t
    (c.setTask t (k.setReg f.rd (f.b k) (c.seq.cyc + 1))).done t)

/-! ## Program CSRs (Table 6.12, R224) -/

/-- Queue occupancy as CSR qdepth packs it. -/
def Core.qdepth (c : Core) : Nat :=
  min 15 (c.depth .array) + 2 ^ 4 * min 15 (c.depth .element) + 2 ^ 8 * min 15 (c.depth .conv) +
    2 ^ 12 * min 15 (c.depth .stream) + 2 ^ 16 * min 15 (c.depth .message)

/-- The states of the four tasks, 2 bits each. -/
def Core.tstate (c : Core) : Nat :=
  c.tasks[0].st.code + 4 * c.tasks[1].st.code + 16 * c.tasks[2].st.code + 64 * c.tasks[3].st.code

/-- The value of a CSR for task t; none for an undefined number. -/
def Core.csr (c : Core) (core t tick n : Nat) : Option Word :=
  let w := BitVec.ofNat 32
  let lvl := fun (i : Nat) =>
    match (c.tasks.toList.getD t Task.idle0).loops[i]? with
    | some l => w l.index
    | none => 0#32
  match n with
  | 0x000 => some (w core)
  | 0x001 => some (w c.seq.rank)
  | 0x002 => some (w c.seq.ncores)
  | 0x003 => some c.seq.invocation
  | 0x004 => some (w t)
  | 0x008 => some (w c.seq.cyc)
  | 0x009 => some c.seq.cycLatch
  | 0x00A => some (w tick)
  | 0x00B => some c.seq.tickLatch
  | 0x010 => some (w c.qdepth)
  | 0x011 => some (w c.tstate)
  | 0x012 => some c.fl.toWord
  | 0x020 => some (lvl 0)
  | 0x021 => some (lvl 1)
  | 0x022 => some (lvl 2)
  | 0x023 => some (lvl 3)
  | 0x030 => some (c.seq.phase.setWidth 32)
  | _ => none

/-- Numbers that name a CSR. -/
def csrDefined (n : Nat) : Bool :=
  [0, 1, 2, 3, 4, 8, 9, 10, 11, 0x10, 0x11, 0x12, 0x20, 0x21, 0x22, 0x23, 0x30].contains n

/-- Reading a counter's low word latches its high word (R224). -/
def Core.csrLatch (c : Core) (tick n : Nat) : Core :=
  match n with
  | 0x008 => { c with seq := { c.seq with cycLatch := BitVec.ofNat 32 (c.seq.cyc / 2 ^ 32) } }
  | 0x00A => { c with seq := { c.seq with tickLatch := BitVec.ofNat 32 (tick / 2 ^ 32) } }
  | _ => c

/-- csrr: s[rd] = the CSR; that of tick_lo is usable one A-cycle later (DEDUCED, log 34). -/
def Core.csrr (c : Core) (f : Fields) (core tick : Nat) : Core :=
  let n := f.imm.toNat
  c.issue f (illegalUnless (Fields.unused true false false true 0 f && csrDefined n)) [] (fun c t =>
    let v := (c.csr core t tick n).getD 0#32
    let c1 := c.modTask t (fun k => k.setReg f.rd v (c.seq.cyc + (if n = 0x00A then 2 else 1)))
    (c1.csrLatch tick n).done t)

/-- csrw: only the phase marker is writable (Table 6.12). -/
def Core.csrw (c : Core) (f : Fields) : Core :=
  c.issue f (illegalUnless (Fields.unused false true false true 0 f && f.imm = 0x030#32)) [f.ra] (fun c t =>
    let v := (c.task t).reg f.ra
    ({ c with seq := { c.seq with phase := v.setWidth 16 } }).done t)

/-! ## Loads and stores (R200, R229, R242) -/

/-- A ld, st or message address is refused: misaligned or beyond tile memory. -/
def scalarBad (a align size : Nat) : Bool := a % align ≠ 0 || tileBytes < a + size

def Core.ld (c : Core) (f : Fields) : Core :=
  c.issue f (illegalUnless (Fields.unused true true false true 0 f)) [f.ra] (fun c t =>
    let k := c.task t
    let a := (f.addr k).toNat
    if scalarBad a 4 4 then c.stopAt t 0x0306
    else
      let v := BitVec.ofNat 32 (ofLe (c.tile.read a 4))
      (c.setTask t { (k.setReg f.rd v (c.seq.cyc + 8)) with memDone := max k.memDone (c.seq.cyc + 8) }).done t)

/-- st waits with reason waypoint while a release of its task holds it (R242). -/
def Core.st (c : Core) (f : Fields) : Core :=
  c.issue f (illegalUnless (Fields.unused false true true true 0 f)) [f.ra, f.rb] (fun c t =>
    let k := c.task t
    let a := (f.addr k).toNat
    if scalarBad a 4 4 then c.stopAt t 0x0306
    else if !k.rels.isEmpty then c.waitOn t .release
    else if c.protects a 4 then c.stopAt t 0x0303
    else
      ({ c with tile := c.tile.write a (toLe 4 (k.reg f.rb).toNat) }.setTask t
        { k with memDone := max k.memDone (c.seq.cyc + 4) }).done t)

/-! ## Branches and loops (R201 to R203) -/

/-- A taken branch takes 3 A-cycles, 2 of them without issue. -/
def Core.taken (c : Core) (t : Fin 4) (target : Nat) : Core :=
  ((c.modTask t (fun k => k.branch target)).counted).spend 2 2

def Core.br (c : Core) (f : Fields) : Core :=
  c.issue f (illegalUnless (Fields.unused false false false true 0 f)) [] (fun c t =>
    c.taken t (BitVec.ofNat 32 (c.task t).pc + f.imm).toNat)

def Core.jmp (c : Core) (f : Fields) : Core :=
  c.issue f (illegalUnless (Fields.unused false true false true 0 f)) [f.ra] (fun c t =>
    c.taken t (f.addr (c.task t)).toNat)

/-- A loop word is illegal when an unused field is not zero; a body length of 0 is 0x0304, whatever the guard.
(DEDUCED, log 34) -/
def loopBad (f : Fields) : Option Nat :=
  if !(Fields.unused false true false true 1 f &&
      (if f.x0 then f.ra = 0#5 else (f.imm.setWidth 16 : BitVec 16) = 0#16)) then some 0x0301
  else if f.imm.toNat / 65536 = 0 then some 0x0304
  else none

def Core.loop (c : Core) (f : Fields) : Core :=
  c.issue f (loopBad f) (if f.x0 then [] else [f.ra]) (fun c t =>
    let k := c.task t
    let n := f.imm.toNat / 65536
    let cnt := if f.x0 then f.imm.toNat % 65536 else (k.reg f.ra).toNat
    let last := k.pc + n
    if k.loops.head?.any (fun l => l.last < last) then c.stopAt t 0x0304
    else if cnt = 0 then (c.setTask t { k with pc := last + 1 }).counted
    else if 4 ≤ k.loops.length then c.stopAt t 0x0304
    else (c.setTask t { k with pc := k.pc + 1, loops := ⟨k.pc + 1, last, cnt, 0⟩ :: k.loops }).counted)

def Core.nop (c : Core) (f : Fields) : Core :=
  c.issue f (illegalUnless (Fields.unused false false false false 0 f)) [] (fun c t => c.done t)

/-! ## Unit commands (Tables 6.6, 6.8, 6.10) -/

def Core.arrOp (c : Core) (f : Fields) : Core :=
  c.blockCommand f true 64 .array (fun b delta cnt =>
    let o := parseArrOp b delta cnt
    if maskOk b arrOpMasks && o.addrsOk then
      some (fun c g => { c with arr := { c.arr with queue := c.arr.queue ++ [(g, .op o)] } })
    else none)

def Core.arrLoad (c : Core) (f : Fields) : Core :=
  c.blockCommand f false 32 .array (fun b delta _ =>
    let l := parseArrLoad b delta
    if maskOk b arrLoadMasks && addrOk true l.src && addrOk l.fmt.isMx l.scale then
      some (fun c g => { c with arr := { c.arr with queue := c.arr.queue ++ [(g, .load l)] } })
    else none)

def Core.elpCmd (c : Core) (f : Fields) : Core :=
  c.blockCommand f true 64 .element (fun b delta cnt =>
    let e := parseElpCmd b delta cnt
    if maskOk b elpCmdMasks && e.blockOk then
      some (fun c g => { c with elm := { c.elm with queue := c.elm.queue ++ [(g, .cmd e)] } })
    else none)

/-- elp.bind: an address that is not a multiple of 64 B is 0x0509 (R212). -/
def Core.elpBind (c : Core) (f : Fields) : Core :=
  c.blockCommand f false 16 .element (fun b delta _ =>
    let e := parseElpBind b delta
    if maskOk b elpBindMasks && e.blockOk then
      some (fun c g =>
        if e.addr % 64 ≠ 0 then c.stopTag 0x0509 g
        else { c with elm := { c.elm with queue := c.elm.queue ++ [(g, .bind e)] } })
    else none)

def Core.cnvWin (c : Core) (f : Fields) : Core :=
  c.blockCommand f true 64 .conv (fun b delta cnt =>
    let w := parseWin b delta cnt
    if maskOk b winMasks && addrOk true w.base && w.count ≠ 0 && w.count ≤ 512 then
      some (fun c g => { c with cnv := { c.cnv with queue := c.cnv.queue ++ [(g, .win w)] } })
    else none)

def Core.cnvGavg (c : Core) (f : Fields) : Core :=
  c.blockCommand f false 32 .conv (fun b delta _ =>
    let w := parseGavg b delta
    if maskOk b gavgMasks && addrOk true w.base && addrOk true w.dest then
      some (fun c g => { c with cnv := { c.cnv with queue := c.cnv.queue ++ [(g, .gavg w)] } })
    else none)

/-- elp.cfg and elp.table: the number in rd[1:0], a 16 B-aligned source of `size` bytes in tile memory (0x0509). -/
def Core.elpLoad (c : Core) (f : Fields) (size : Nat) (mk : Nat → Nat → ElmCmd) : Core :=
  c.issue f (illegalUnless (Fields.unused true true false true 0 f && f.rd.toNat < 4)) [f.ra] (fun c t =>
    let a := (f.addr (c.task t)).toNat
    if a % 16 ≠ 0 ∨ tileBytes < a + size then c.stopAt t 0x0509
    else
      c.dispatch t .element (fun c g =>
        { c with elm := { c.elm with queue := c.elm.queue ++ [(g, mk f.rd.toNat a)] } }))

/-- elp.swapout and elp.swapin: the handle in rd[3:0]. -/
def Core.elpSwap (c : Core) (f : Fields) (mk : Nat → ElmCmd) : Core :=
  c.issue f (illegalUnless (Fields.unused true false false false 0 f && f.rd.toNat < 16)) [] (fun c t =>
    c.dispatch t .element (fun c g =>
      { c with elm := { c.elm with queue := c.elm.queue ++ [(g, mk f.rd.toNat)] } }))

/-! ## Streams and buffers (R214, R217, R262, R274) -/

/-- A slot is busy, or a str.go for it waits in the stream queue. -/
def Core.slotBusy (c : Core) (n : Nat) : Bool :=
  (c.str.slots.getD n StrSlot.idle0).st ≠ .idle ||
  c.str.queue.any (fun q => match q.2 with
    | .go s _ => s = n
    | .release _ _ => false)

/-- A half of the core's own buffer. -/
def Core.half (c : Core) (b : Nat) (h : Bool) : Half_ :=
  let x := c.str.bufs.getD b Buf.undef
  if h then x.h1 else x.h0

def Fields.slotOk (f : Fields) : Bool := f.x.toNat ≤ 5
def Fields.bufOk (f : Fields) : Bool := f.imm.toNat < 64

/-- str.go dispatches its list; the list address is checked when the stream engine takes it (R262, R543). -/
def Core.strGo (c : Core) (f : Fields) : Core :=
  c.issue f (illegalUnless (Fields.unused false true false true 7 f && f.slotOk)) [f.ra] (fun c t =>
    let a := (f.addr (c.task t)).toNat
    c.dispatch t .stream (fun c g =>
      { c with str := { c.str with queue := c.str.queue ++ [(g, .go f.x.toNat a)] } }))

def Core.strWait (c : Core) (f : Fields) : Core :=
  c.issue f (illegalUnless (Fields.unused false false false false 7 f && f.slotOk)) [] (fun c t =>
    if c.slotBusy f.x.toNat then c.waitOn t (.slot f.x.toNat) else c.done t)

def Core.strTest (c : Core) (f : Fields) : Core :=
  c.issue f (illegalUnless (Fields.unused true false false false 7 f && f.slotOk && f.rdPred)) [] (fun c t =>
    (c.modTask t (fun k => k.setPred f.pd (c.slotBusy f.x.toNat))).done t)

def Core.bufAwait (c : Core) (f : Fields) : Core :=
  c.issue f (illegalUnless (Fields.unused false false false true 1 f && f.bufOk)) [] (fun c t =>
    if (c.half f.imm.toNat f.x0).st = .landed then c.done t else c.waitOn t (.half f.imm.toNat f.x0))

def Core.bufRelease (c : Core) (f : Fields) : Core :=
  c.issue f (illegalUnless (Fields.unused false false false true 1 f && f.bufOk)) [] (fun c t =>
    c.dispatch t .stream (fun c g =>
      { c with str := { c.str with queue := c.str.queue ++ [(g, .release f.imm.toNat f.x0)] } }))

/-! ## Handle queues (R277 to R280) -/

/-- A register pair's first register is even. -/
def evenReg (r : BitVec 5) : Bool := !r.getLsbD 0

/-- The second register of a pair. -/
def pairReg (r : BitVec 5) : BitVec 5 := r + 1#5

/-- hq.put: waits for its reply, the handle being s[ra] (low) and s[ra + 1]. `assigned`: the job may use the
queue. -/
def Core.hqPut (c : Core) (f : Fields) (assigned : Nat → Bool) : Core :=
  c.issue f (illegalUnless (Fields.unused false true false true 0 f && f.imm.toNat < 64 && evenReg f.ra))
    [f.ra, pairReg f.ra] (fun c t =>
      let k := c.task t
      if !assigned f.imm.toNat then c.stopAt t 0x0705
      else if !k.rels.isEmpty then c.waitOn t .release
      else c.waitOn t (.hqPut f.imm.toNat (k.reg (pairReg f.ra) ++ k.reg f.ra) false))

def Core.hqGet (c : Core) (f : Fields) (assigned : Nat → Bool) : Core :=
  c.issue f (illegalUnless (Fields.unused true false false true 0 f && f.imm.toNat < 64 && evenReg f.rd)) []
    (fun c t =>
      if !assigned f.imm.toNat then c.stopAt t 0x0705
      else c.waitOn t (.hqGet f.imm.toNat f.rd.toNat))

def Core.hqTest (c : Core) (f : Fields) (assigned holds : Nat → Bool) : Core :=
  c.issue f (illegalUnless (Fields.unused true false false true 0 f && f.imm.toNat < 64 && f.rdPred)) [] (fun c t =>
    if !assigned f.imm.toNat then c.stopAt t 0x0705
    else (c.modTask t (fun k => k.setPred f.pd (holds f.imm.toNat))).done t)

/-! ## Messages and barriers (R246, R251, R254, R255) -/

/-- mb.send; the message unit checks the destination when it takes the command (R246, R260). -/
def Core.mbSend (c : Core) (f : Fields) : Core :=
  c.issue f (illegalUnless (Fields.unused false true true true 0 f)) [f.ra, f.rb] (fun c t =>
    let k := c.task t
    let a := (f.addr k).toNat
    let d := (k.reg f.rb).toNat
    if scalarBad a 64 64 then c.stopAt t 0x0306
    else
      c.dispatch t .message (fun c g =>
        { c with msg := { c.msg with queue := c.msg.queue ++ [(g, .send a d)] } }))

/-- The earliest unclaimed mailbox entry. -/
def MsgUnit.unclaimed (u : MsgUnit) : Option MbEntry := u.entries.find? (fun e => !e.claimed)

def Core.mbRecv (c : Core) (f : Fields) : Core :=
  c.issue f (illegalUnless (Fields.unused true true false true 0 f)) [f.ra] (fun c t =>
    let a := (f.addr (c.task t)).toNat
    if scalarBad a 64 64 then c.stopAt t 0x0306
    else
      match c.msg.unclaimed with
      | none => c.waitOn t .mailbox
      | some e =>
        c.dispatch t .message (fun c g =>
          { c with msg := { c.msg with
              entries := c.msg.entries.map (fun x => if x.no = e.no then { x with claimed := true } else x)
              queue := c.msg.queue ++ [(g, .recv a f.rd.toNat e.no)] } }))

def Core.mbTest (c : Core) (f : Fields) : Core :=
  c.issue f (illegalUnless (Fields.unused true false false false 0 f && f.rdPred)) [] (fun c t =>
    (c.modTask t (fun k => k.setPred f.pd c.msg.unclaimed.isSome)).done t)

def Core.barArrive (c : Core) (f : Fields) : Core :=
  c.issue f (illegalUnless (Fields.unused false false false true 0 f && f.imm.toNat < 256)) [] (fun c t =>
    c.dispatch t .message (fun c g =>
      { c with msg := { c.msg with queue := c.msg.queue ++ [(g, .barArrive f.imm.toNat)] } }))

/-- a_b − c_b as a signed 16-bit value (R255). -/
def MsgUnit.ahead (u : MsgUnit) (b : Nat) : Int :=
  (Sparse.get 0#16 u.arr b - Sparse.get 0#16 u.done b).toInt

/-- bar.wait; a chain barrier named outside a multi-instance job stops the core (R254). -/
def Core.barWait (c : Core) (f : Fields) (multi : Bool) : Core :=
  c.issue f (illegalUnless (Fields.unused false false false true 0 f && f.imm.toNat < 256)) [] (fun c t =>
    if 192 ≤ f.imm.toNat && !multi then c.stopAt t 0x030D
    else if 0 < c.msg.ahead f.imm.toNat then c.waitOn t (.barrier f.imm.toNat) else c.done t)

/-! ## Waypoints (R239 to R244) -/

/-- The waypoint of a word and its kind: 0 full, 1 acquire, 2 release. -/
def Fields.wptKind (f : Fields) : Nat := fld 9 8 f.imm.toNat
def Fields.wptScope (f : Fields) : Nat := fld 11 10 f.imm.toNat
def Fields.wptOk (f : Fields) : Bool :=
  fld 7 6 f.imm.toNat = 0 && f.imm.toNat < 4096 && f.wptKind ≠ 3 && f.wptScope ≠ 3 &&
    (f.wptKind ≠ 1 || f.wptScope = 0)

/-- wpt; `performed` tells whether the writes of a task's prior set are performed at the waypoint's scope (R238). A full or acquire
waypoint whose condition does not hold waits, and issues again when the task next runs (R217, R243). -/
def Core.wpt (c : Core) (f : Fields) (performed : Nat → Wpt → Bool) : Core :=
  c.issue f (illegalUnless (Fields.unused false false false true 0 f && f.wptOk)) [] (fun c t =>
    let w : Wpt := ⟨fld 5 0 f.imm.toNat, f.wptScope, c.seq.nextId, (c.task t).memDone⟩
    let holds := c.priorDone t w && (f.wptKind = 1 || performed t w)
    if holds || w.units = 0 then c.done t
    else if f.wptKind = 2 then
      match (c.task t).rels with
      | r :: _ =>
        if 4 ≤ (c.task t).rels.length then c.waitOn t (.releaseSlots r)
        else (c.modTask t (fun k => { k with rels := k.rels ++ [w] })).done t
      | [] => (c.modTask t (fun k => { k with rels := [w] })).done t
    else c.waitOn t (.wpt w (decide (f.wptKind = 1))))

/-- wpt.final: only task 0; it waits until tasks 1 to 3 are idle and the final waypoint takes effect, when it counts as issued
(R217, R222). -/
def Core.wptFinal (c : Core) (f : Fields) : Core :=
  c.issue f (illegalUnless (Fields.unused false false false false 0 f)) [] (fun c t =>
    if t ≠ 0 then c.stopAt t 0x0307 else c.waitOn t .final)

/-! ## Tasks (R215 to R221) -/

/-- task.decl; releases of the task's earlier entries in unit queues still hold them (R216, R242). -/
def Core.taskDecl (c : Core) (f : Fields) : Core :=
  c.issue f (illegalUnless (Fields.unused false true false true 3 f)) [f.ra, 0#5, 1#5, 2#5, 3#5] (fun c t =>
    let k := c.task t
    let u : Fin 4 := ⟨f.x.toNat % 4, Nat.mod_lt _ (by decide)⟩
    if (c.task u).st ≠ .idle then c.stopAt t 0x0307
    else
      let s := ((Task.idle0.s.set 0 k.s[0]).set 1 k.s[1]).set 2 k.s[2] |>.set 3 k.s[3]
      (c.setTask u { Task.idle0 with pc := (f.addr k).toNat, s := s, st := .ready, rels := (c.task u).rels }).done t)

def Core.taskYield (c : Core) (f : Fields) : Core :=
  c.issue f (illegalUnless (Fields.unused false false false false 0 f)) [] (fun c t =>
    let d := c.done t
    if (List.finRange 4).any (fun u => u ≠ t && (d.task u).st = .ready) then
      (d.modTask t (fun k => { k with st := .ready })).switchFrom t
    else d)

def Core.taskEnd (c : Core) (f : Fields) : Core :=
  c.issue f (illegalUnless (Fields.unused false false false false 0 f)) [] (fun c t =>
    if t = 0 then c.stopAt t 0x0307
    else
      let d := c.done t
      (d.modTask t (fun k => { k with st := .idle })).switchFrom t)

/-- A waiting task's condition has ceased to hold (R217, R219). Waits that a reply or a waypoint event ends are not
among them. A task whose element chunk is in the wait slot waits for it whatever else it waits for (R218). -/
def Core.waitOver (c : Core) (t : Fin 4) : Bool :=
  (match (c.task t).wait with
    | .chunk => true
    | .slot n => !c.slotBusy n
    | .half b h => (c.half b h).st = .landed
    | .mailbox => c.msg.unclaimed.isSome
    | .barrier b => !(0 < c.msg.ahead b)
    | .release => (c.task t).rels.isEmpty
    | .releaseSlots r => !(c.task t).rels.contains r
    | .queue u => c.depth u < 8
    | _ => false) && !c.elm.wait.any (fun w => w.1.task = t.val)

/-- Waiting tasks become ready in one A-cycle: those named and, with no task running, every other whose condition no longer holds;
the first ready one in the order of R221 after the task that ran last then runs. A task whose chunk is in the wait slot goes on
waiting for that (R218, R219). -/
def Core.wake (c : Core) (ts : List (Fin 4)) : Core :=
  let idle := c.seq.running.isNone
  let d := { c with tasks := Vector.ofFn (fun (t : Fin 4) =>
    let k := c.task t
    if k.st = .waiting && (ts.contains t || (idle && c.waitOver t)) then
      (if c.elm.wait.any (fun w => w.1.task = t.val) then { k with wait := .chunk } else { k with st := .ready, wait := .none })
    else k) }
  if idle then
    match d.nextReady d.seq.last with
    | some u => d.runTask u
    | none => d
  else d

/-- A waiting task becomes ready (R219). -/
def Core.taskReady (c : Core) (t : Fin 4) : Core :=
  if c.live && (c.task t).st = .waiting && c.waitOver t then c.wake [t] else c

/-- An instruction-buffer line fill completes: the running task's line is held (R204), and its 10 A-cycles count.
(DEDUCED, log 5) -/
def Core.ibMiss (c : Core) : Core :=
  if !c.live then c
  else
    match c.seq.running with
    | none => c
    | some t =>
      if c.ibHit (c.task t).pc then c
      else ({ c with ib := ibFill c.ib (c.ibLine (c.task t).pc) }).spend 10 10

/-- 2^26 A-cycles without progress stop the core (R223). -/
def Core.hang (c : Core) : Core :=
  if c.live && 2 ^ 26 ≤ c.seq.idle then c.stopWith 0x0309 (c.task c.seq.last).pc c.seq.last else c

/-! ## Registers (Table 6.17) -/

def Core.seqStatus (c : Core) : Word :=
  BitVec.ofNat 32 (c.seq.last.val + 4 * b2n (c.seq.started && c.seq.running.isNone) + 8 * b2n c.seq.parked +
    16 * b2n c.seq.stop.isSome)

def Task.regWord (k : Task) : Word :=
  BitVec.ofNat 32 (k.pc % 2 ^ 18 + 2 ^ 18 * k.st.code + 2 ^ 20 * k.wait.code + 2 ^ 24 * k.loops.length)

end Sys2Proof.Machine
end

