-- ==== Sys2Proof/Machine/FaultTypes.lean ====
section
/-! DEFINITION. What the fault unit holds (section 14): units, soundings, partition resets, retirements, the error log. -/

namespace Sys2Proof.Machine

/-- A unit that errors are told of (Table 14.5): kind, place (physical core, slice, link port, control core or stop) and
bank, array or lane index. -/
structure UnitId where
  kind : Nat
  idx : Nat
  sub : Nat
deriving DecidableEq, Repr

/-- A sounding in progress (R444), and the partition in whose reset it runs. -/
structure Sounding where
  unit : UnitId
  part : Option Nat
deriving DecidableEq, Repr

/-- A partition reset (R450, R451): whether host software requested it, whether the drain is over, the units to sound
at its end, the units found lasting, and the job replays the cause has counted. -/
structure Reset_ where
  part : Nat
  host : Bool
  drained : Bool
  units : List UnitId
  lasting : List UnitId
deriving DecidableEq, Repr

/-- The fault unit. `trans` counts transient faults by unit, and `halved` how often the counts have been halved; `spareBank` gives each physical core's bank replaced by its
spare, `ssSpare` each slice's unit; `restarting` marks control cores in restart (R443); `ueNow` the memory units an uncorrectable error has
been met in during this F-cycle (R442). -/
structure FaultUnit where
  cfg : Word
  event : Word
  logLo : Word
  logHi : Word
  logCfg : Word
  logTail : Nat
  logHead : Nat
  logSeq : Word
  logDrop : Word
  ce : Word
  ue : Word
  soundCnt : Word
  resetCnt : Word
  trans : List (UnitId × Nat)
  halved : Nat
  sounding : List Sounding
  resets : List Reset_
  spareBank : List (Option Nat)
  ssSpare : List (Option Nat)
  ssFailing : List Word
  restarting : List Bool
  ueNow : List UnitId
deriving DecidableEq, Repr

def FaultUnit.reset : FaultUnit :=
  { cfg := 0x403, event := 0, logLo := 0, logHi := 0, logCfg := 0, logTail := 0, logHead := 0, logSeq := 0, logDrop := 0,
    ce := 0, ue := 0, soundCnt := 0, resetCnt := 0, trans := [], halved := 0, sounding := [], resets := [],
    spareBank := List.replicate 34 none, ssSpare := List.replicate 16 none, ssFailing := List.replicate 16 0,
    restarting := List.replicate 4 false, ueNow := [] }

def FaultUnit.replayMax (f : FaultUnit) : Nat := fld 3 0 f.cfg.toNat
def FaultUnit.transLimit (f : FaultUnit) : Nat := max 1 (fld 11 8 f.cfg.toNat)

end Sys2Proof.Machine
end

