-- ==== Sys2Proof/Config.lean ====
section
/-! DEFINITION. What a configuration of the block fixes (R1 to R6, Tables 0.1 and 1.2), and the values the spec
leaves open: constants with no body, applied to what they depend on. -/

namespace Sys2Proof

/-- The four configurations (R3). (DESIGN CHOICE, log 1) -/
inductive Model where
  | sd4 | sd8 | sd16 | sd32
deriving DecidableEq, Repr

namespace Model

/-- Offered (logical) cores. -/
def cores : Model → Nat
  | .sd4 => 4
  | .sd8 => 8
  | .sd16 => 16
  | .sd32 => 32

/-- Physical cores. -/
def phys : Model → Nat
  | .sd4 => 5
  | .sd8 => 9
  | .sd16 => 17
  | .sd32 => 34

/-- Fabric read channels; each fabric stop holds half (R18). -/
def rdCh : Model → Nat
  | .sd4 => 2
  | .sd8 => 4
  | .sd16 => 8
  | .sd32 => 8

/-- Fabric write channels (R18). -/
def wrCh : Model → Nat
  | .sd4 => 1
  | .sd8 => 2
  | .sd16 => 4
  | .sd32 => 4

/-- The near-memory port is present (R4). -/
def nearPort : Model → Bool
  | .sd4 => false
  | .sd8 => false
  | .sd16 => true
  | .sd32 => true

/-- Ruryn link ports (R5). -/
def links : Model → Nat
  | .sd4 => 1
  | .sd8 => 2
  | .sd16 => 2
  | .sd32 => 2

def parts : Model → Nat
  | .sd4 => 2
  | .sd8 => 4
  | .sd16 => 6
  | .sd32 => 8

/-- Chart entries as a power of two. -/
def chartLog : Model → Nat
  | .sd4 => 22
  | .sd8 => 23
  | .sd16 => 24
  | .sd32 => 25

def walkers : Model → Nat
  | .sd4 => 4
  | .sd8 => 4
  | .sd16 => 8
  | .sd32 => 8

/-- Shared-store slices (Table 1.2). -/
def slices : Model → Nat
  | .sd4 => 4
  | .sd8 => 6
  | .sd16 => 10
  | .sd32 => 16

def meshX : Model → Nat
  | .sd4 => 5
  | .sd8 => 5
  | .sd16 => 7
  | .sd32 => 8

def meshY : Model → Nat
  | .sd4 => 3
  | .sd8 => 4
  | .sd16 => 5
  | .sd32 => 7

def portStops : Model → Nat
  | .sd4 => 4
  | .sd8 => 4
  | .sd16 => 5
  | .sd32 => 5

/-- The configuration's place in Table 0.1, 0 to 3. -/
def index : Model → Nat
  | .sd4 => 0
  | .sd8 => 1
  | .sd16 => 2
  | .sd32 => 3

/-- GLB_MESH_INFO (Tables 1.2 and 1.4). -/
def meshInfo (m : Model) : Nat :=
  m.meshX + m.meshY * 2 ^ 4 + m.phys * 2 ^ 8 + m.slices * 2 ^ 16 + m.portStops * 2 ^ 24

end Model

/-- A value the spec leaves open, one for each count of the free counter: a byte string an entropy decoder or a
random generator gives, cut to the length asked. (DESIGN CHOICE, log 11) -/
opaque freeNat : Nat → Nat

/-- What a decoder makes of compressed bytes (R361, R374). The standards it follows lie outside the spec: `headerOk` is
false when the header is lost, `supported` when Table 11.1 shuts the input out; size and channels; 16-bit components; a
progressive JPEG or an Adam7 PNG (`multi`, which needs scratch); `row` the height of a JPEG block row, 0 for PNG; `px`
the components, row by row; `lost` the numbers of the pixels that no good data supplied. (DESIGN CHOICE, log 13) -/
structure Decoded where
  headerOk : Bool
  supported : Bool
  w : Nat
  h : Nat
  chans : Nat
  deep : Bool
  multi : Bool
  row : Nat
  px : List Nat
  lost : List Nat
deriving DecidableEq, Repr, Inhabited

/-- The decoder, by codec (0 JPEG, 1 PNG): a function of the bytes, which nothing else constrains.
(DESIGN CHOICE, log 13) -/
opaque decodeImage : Nat → List Byte → Decoded

/-- Which of requests and responses a router output sends first when it holds both (true: the request): R25 ranks only the control class.
(DESIGN CHOICE, log 72) -/
opaque meshPick : Nat → Bool

/-- Sine and cosine of a binary16 angle in degrees, as binary32: the spec states no rounding for them.
(DESIGN CHOICE, log 14) -/
opaque sinCos : Nat → Nat × Nat

/-- 2^((T − 70 °C) ÷ 25 °C) of Table 13.2 in units of 2^-24, by T in 1/16 °C: the spec states no rounding for it.
(DESIGN CHOICE, log 14) -/
opaque leakScale : Int → Nat

/-- Requested voltage of rails 1 and 2 in mV, which the spec does not give. (DESIGN CHOICE, log 15) -/
opaque railMv : Nat → Nat

/-- Plaintext of a payload of cells, whose layout the spec does not give: by the frame's counter, node, count and place.
(DESIGN CHOICE, log 16) -/
opaque cellByte : Nat → Nat → Nat → Nat → Byte

/-- Length of the test port's instruction register less 2, and what an instruction register's contents name but for all
ones, BYPASS (0 BYPASS, 1 SAMPLE/PRELOAD, 2 EXTEST, 3 IDCODE, others internal): the spec gives neither. -/
opaque irExtra : Nat
opaque irName : List Bool → Nat

/-- Length of the boundary register less 1, and what a boundary cell samples, by cell and time. -/
opaque boundaryExtra : Nat
opaque boundarySample : Nat → Nat → Bool

end Sys2Proof
end

