-- ==== Sys2Proof/Machine/FabricTypes.lean ====
section
/-! DEFINITION. Accesses on the system fabric and the near-memory port (R237, R288, R521 to R524, R527), and where
an address leads. -/

namespace Sys2Proof.Machine

/-- What an access was made for: who takes its data or its acknowledgement. -/
inductive FabOwner where
  | stream (core slot req : Nat)
  | write (core task id : Nat)
  | swapOut (core task id : Nat)
  | swapIn (core handle : Nat)
  | walk (stop line : Nat)
  | edit (line : Nat)
  | readEntry
  | moveRead (k : Nat)
  | moveWrite (k : Nat)
  | faultRecord (part : Nat)
  | desc (part ring : Nat) (pos : Word)
  | table (part ring : Nat)
  | header (part ring core : Nat)
  | entries (part ring : Nat)
  | image (part ring core : Nat)
  | record (part : Nat)
  | message (part vec : Nat)
  | logbook
  | errlog
  | report
  | keyBlob
  | sampleRecord (part : Nat)
  | sampleData (part lane : Nat)
  | intakeWrite (part batch : Nat)
  | frameRecord (stream : Nat)
  | frameWrite (stream no : Nat)
  | inbound (port id : Nat)
  | almanac
  | void
deriving DecidableEq, Repr

/-- An access accepted by a fabric or memory stop: its serial number, direction, byte address and length, the
data of a write, and how far it has come. `chan` is the channel of R523; `tag` is none until the stop has issued
it; `got` holds the beats of a read so far; `done` is set when its last beat or its acknowledgement has come;
`again` holds the
tick its retry is due once a response beat or acknowledgement of it was an error (R524), `retried` after the retry;
`held`: a write to one of its lines has held it at its stop (R237). (DEDUCED, log 71) -/
structure FabAcc where
  no : Nat
  owner : FabOwner
  write : Bool
  near : Bool
  coh : Bool
  addr : Nat
  len : Nat
  data : List Byte
  part : Option Nat
  deadline : Option Word
  src : Nat
  chan : Nat
  tag : Option Nat
  got : List Byte
  done : Bool
  again : Option Nat
  retried : Bool
  held : Bool
deriving DecidableEq, Repr

/-- Its stop has accepted a write: its channel has granted it (R238, R269). (DEDUCED, log 71) -/
def FabAcc.accepted (a : FabAcc) : Bool := a.tag.isSome || a.done

/-- An access to a remote window (R321, R497): its number, owner, target, data, and whether its request has been sent
on a link and its response or acknowledgement has come. -/
structure RemAcc where
  id : Nat
  owner : FabOwner
  write : Bool
  node : Nat
  win : Nat
  off : Nat
  len : Nat
  data : List Byte
  part : Nat
  sent : Bool
  got : List Byte
  done : Bool
deriving DecidableEq, Repr

/-- A regulated unit (R392): its balances and the pointer of its own order. -/
structure Reg_ where
  bal : List Int
  ptr : Nat
deriving DecidableEq, Repr

def Reg_.reset : Reg_ := ⟨List.replicate 8 0, 0⟩

/-- The fabric and memory stops: accesses in acceptance order, and the regulated channels (reads 0 to 7, writes 8
to 11, near reads 12, near writes 13). `granted` counts each channel's grants in the current 16 F-cycles while a ceiling is in force (R421).
(DEDUCED, log 71) -/
structure Fabric where
  accs : List FabAcc
  next : Nat
  chans : List Reg_
  granted : List Nat
  rem : List RemAcc
  errCnt : Word
deriving DecidableEq, Repr

def Fabric.reset : Fabric := ⟨[], 0, List.replicate 14 Reg_.reset, List.replicate 14 0, [], 0⟩

end Sys2Proof.Machine
end

