-- ==== Sys2Proof/Machine/ChartTypes.lean ====
section
/-! DEFINITION. The Chart's walkers, pending faults, edits, moves, invalidations and inbound windows (section 9). -/

namespace Sys2Proof.Machine

/-- One engine's part in a walk: who asks, its partition, engine address, access kind and issue tick (R313). -/
structure Waiter where
  eng : Engine
  part : Nat
  addr : Nat
  write : Bool
  tick : Nat
deriving DecidableEq, Repr

/-- A walk queued or in progress at a stop. `taken`: a walker has it, whose read is access number `acc`. -/
structure Walk where
  line : Nat
  taken : Bool
  waiters : List Waiter
  stale : List Engine      -- engines an invalidation has reached since their request (R319)
  acc : Nat
deriving DecidableEq, Repr

/-- A pending fault (R312): its Chart index, waiters, kinds seen, the last record's number, whether a record waits
to be written, and the access number of a replay's read in progress. -/
structure Pending where
  index : Nat
  part : Nat
  waiters : List Waiter
  rd : Bool
  wr : Bool
  seq : Option Word
  replay : Option Nat
deriving DecidableEq, Repr

/-- A fault record on its way to the ring (R314). -/
structure FaultRec where
  part : Nat
  kind : Nat
  rd : Bool
  wr : Bool
  mask : Nat
  first : Waiter
  index : Nat
  entry : Word
  tick : Nat
deriving DecidableEq, Repr

/-- A walker stop: F0 or F1. -/
structure WalkStop where
  walks : List Walk
  pend : List Pending
deriving DecidableEq, Repr

/-- An invalidation (R319), with the engines that have not acknowledged it yet, and the stream requests (core, slot,
take, number) issued before it that still hold translations. -/
structure Inval where
  first : Nat
  count : Nat
  segs : Nat
  part : Nat
  reach : List Engine
  acks : List (Engine × List Nat)    -- engines reached, with the accesses they still wait for
  reqs : List (Nat × Nat × Nat × Nat)
deriving DecidableEq, Repr

/-- An edit or read in progress (R318): the Chart lines read so far, accesses still out, whether its writes have been
issued, and whether it is refused. -/
structure Edit where
  index : Nat
  value : Word
  count : Nat
  step : Bool
  read : Bool
  got : List (Nat × List Byte)
  left : Nat
  wrote : Bool
  refused : Bool
deriving DecidableEq, Repr

/-- A page move in progress (R318). -/
structure Move where
  home : Nat
  frame : Nat
  toHome : Bool
  issued : Nat
  acked : Nat
deriving DecidableEq, Repr

/-- A Chart cache of the Intake or of the inbound link path: 8 lines (R309). -/
structure SideMmu where
  segs : List (List Seg)
  cache : List CacheLine
  walks : List OutWalk
deriving DecidableEq, Repr

/-- The Chart unit's registers and state. `region`, `nearBase`, `nearFrames`, `carve` and `chartNear` come from the
Almanac. The entries themselves lie in memory outside the block (R307). -/
structure ChartUnit where
  region : Nat
  nearBase : Nat
  nearFrames : Nat
  carve : Bool
  chartNear : Bool
  editIndex : Nat
  editValue : Word
  edit : Option Edit
  editDone : Bool
  editRefused : Bool
  editOver : Bool
  invFirst : Nat
  invCount : Nat
  invSegs : Nat
  inv : Option Inval
  invQueue : List (Nat × Nat × Nat × Nat)
  invDone : Bool
  invOver : Bool
  moveHome : Nat
  move : Option Move
  moveDone : Bool
  moveOver : Bool
  walkCnt : Word
  faultCnt : Word
  inwin : List (Nat × Nat × Nat)         -- control, first page, pages of each inbound window
  stops : List WalkStop
  itk : SideMmu
  lnk : SideMmu
deriving DecidableEq, Repr

def SideMmu.reset : SideMmu := ⟨List.replicate 8 (List.replicate 16 Seg.zero), [], []⟩

def ChartUnit.reset : ChartUnit :=
  { region := 0, nearBase := 0, nearFrames := 0, carve := false, chartNear := false, editIndex := 0, editValue := 0,
    edit := none, editDone := false, editRefused := false, editOver := false, invFirst := 0, invCount := 0,
    invSegs := 0, inv := none, invQueue := [], invDone := false, invOver := false, moveHome := 0, move := none,
    moveDone := false, moveOver := false, walkCnt := 0, faultCnt := 0, inwin := List.replicate 16 (0, 0, 0),
    stops := List.replicate 2 ⟨[], []⟩, itk := .reset, lnk := .reset }

end Sys2Proof.Machine
end

