-- ==== Sys2Proof/Machine/HostTypes.lean ====
section
/-! DEFINITION. Jobs, rings, doorbells, windows and message vectors (sections 1 and 10), and a partition with its
registers, handle queues, barriers and shares (sections 7, 8, 9 and 12). -/

namespace Sys2Proof.Machine

/-- A submission ring (R335, Table 10.8). `gen` and `tail` are G and T of the last accepted doorbell, `stamp` g_last. A
hot ring lists its pending runs as (invocation, arrival tick, arrival order); `bells` are the doorbells whose descriptors are
not all taken, as (tail, arrival tick, arrival order). -/
structure Ring where
  baseLo : Word
  baseHi : Word
  cfg : Word
  head : Word
  tail : Word
  stamp : Half
  gen : Half
  hot : Bool
  unpin : Bool
  pinnedGen : Half
  pendingRuns : List (Word × Nat × Nat)
  bells : List (Word × Nat × Nat)
  overflows : Nat
  ahead : Bool
  retrying : Bool
deriving DecidableEq, Repr

def Ring.reset : Ring :=
  { baseLo := 0, baseHi := 0, cfg := 0, head := 0, tail := 0, stamp := 0, gen := 0, hot := false, unpin := false,
    pinnedGen := 0, pendingRuns := [], bells := [], overflows := 0, ahead := false, retrying := false }

/-- A message vector (R354, R355). -/
structure Msi where
  addrLo : Word
  addrHi : Word
  data : Word
  enable : Bool
  outstanding : Bool
  deferred : Bool
deriving DecidableEq, Repr

def Msi.reset : Msi := ⟨0, 0, 0, false, false, false⟩

/-- A handle queue (R278 to R280): handles oldest first, listed gets and refused puts as (core, task). -/
structure HQueue where
  q : List DWord
  gets : List (Nat × Nat)
  refused : List (Nat × Nat)
deriving DecidableEq, Repr

def HQueue.reset : HQueue := ⟨[], [], []⟩

/-- A barrier arrival counted at the control stop (R256): barrier, phase, core. -/
structure BarCount where
  bar : Nat
  phase : Half
  core : Nat
deriving DecidableEq, Repr

/-- Where a job stands. -/
inductive JobPhase where
  | table            -- image table to be read (R337)
  | headers          -- image headers to be read
  | loading          -- images loading
  | running          -- start packets injected
  | record           -- all notices in; the record waits for the ring or for its acknowledgement
  | parked           -- a pinned job between runs
  | restart          -- interrupted by a partition reset, to be replayed
deriving DecidableEq, Repr

/-- An image as the Binnacle has read it for one core: engine address, header, section table, certificate bytes (R225,
R226, R397), and whether the core's residency record matches it. -/
structure ImageInfo where
  core : Nat
  addr : Nat
  header : List Byte
  table : List Byte
  cert : List Byte
  resident : Bool
deriving DecidableEq, Repr

/-- A job from its descriptor's passing of checks 1 to 5 to its record's acknowledgement (R37 to R43, R340). `pos` is
the descriptor position, or the invocation number of a hot run, `dpos` the descriptor position; `bell` and `bellSeq` the tick and the place of its
doorbell in the arrival order; `addrs` the images' engine addresses in rank order; `loads` the cores whose image is
loading; `got` the bytes of the image head being read; `ran` the cores that have started; `notices` those whose notice is in. `energy` is in grains (section 13). `silent`
marks the run that restores a pinned job after a reset and posts no record, `lost` a pinned job whose cores a reset has
cleared and `resume` its interrupted hot run (R455). `opened` is its share of the open power interval (R434). -/
structure Job where
  part : Nat
  ring : Nat
  kind : Nat
  desc : List Byte
  stamp : Half
  pos : Word
  dpos : Word
  phase : JobPhase
  bell : Nat
  bellSeq : Nat
  multi : Option (Nat × Nat)
  tStart : Option Nat
  tFinal : Nat
  status : Nat
  stopCore : Option Nat
  replays : Nat
  addrs : List Nat
  got : List Byte
  images : List ImageInfo
  loads : List Nat
  ran : List Nat
  notices : List Nat
  numflags : Nat
  energy : Nat
  measured : Bool
  silent : Bool
  lost : Bool
  opened : Nat
  resume : Option (Word × Nat × Nat × Nat)
  certTicks : Nat
deriving DecidableEq, Repr

/-- A dispatch queue entry (R35): partition, ring, arrival tick and order of its doorbell, and whether it
is passed over until a job of the partition completes (R339). -/
structure DispEntry where
  part : Nat
  ring : Nat
  tick : Nat
  seq : Nat
  held : Bool
deriving DecidableEq, Repr

/-- A descriptor fetch of control core 0 in progress, or its data not current and awaiting a re-read, `tries` having been
made and the next due at `nextTry` (R344). -/
structure Fetch where
  part : Nat
  ring : Nat
  pos : Word
  tick : Nat
  seq : Nat
  tries : Nat
  retrying : Bool
  nextTry : Nat
deriving DecidableEq, Repr

/-- A window or full-aperture write accepted and not yet retired (R47, R245): its order, partition and target. -/
structure WinWrite where
  seq : Nat
  part : Option Nat
  place : Place
  data : List Byte
deriving DecidableEq, Repr

/-- A completion record waiting for the ring or for its acknowledgement: its bytes but for the phase bit, whether it ends
a job, the energy it reports in grains (R434, R435), its write's serial number once issued, and the tick of its acknowledgement by the
fabric (R43). -/
structure Record where
  part : Nat
  ring : Nat
  kind : Nat
  bytes : List Byte
  irq : Bool
  job : Bool
  energy : Nat
  issued : Option Nat
  acked : Option Nat
deriving DecidableEq, Repr

/-- A partition. Shares are in the order fabric, Intake, link, shared store. -/
structure Part where
  enable : Bool
  floor : Nat
  cores : Word
  ssBase : Nat
  ssUnits : Nat
  cfgErr : Bool
  stage : List Nat
  share : List Nat
  coreTicks : Nat
  ticksLatch : Word
  missCnt : Word
  reportSeq : Word
  slowNow : Nat × Nat
  slow : Nat × Nat
  waitNow : List Nat
  wait : List Nat
  segs : List Seg
  fringLo : Word
  fringHi : Word
  fringCfg : Word
  fringTail : Nat
  fringHead : Nat
  fringSeq : Word
  fringWait : List FaultRec
  fringOut : Nat
  faultCnt : Word
  staleCnt : Word
  rings : List Ring
  cringLo : Word
  cringHi : Word
  cringCfg : Word
  cringTail : Nat
  cringHead : Nat
  msi : List Msi
  winStep : Nat
  winDrops : Nat
  bellDrops : Nat
  hqs : List HQueue
  hqPtrs : List (Nat × Nat)   -- per handle queue: rotating pointer, mesh cycle after the last tie (R281)
  hqInflight : Nat
  hqMax : Nat
  hqPut : Word
  hqGet : Word
  bars : List BarCount
  stkeep : Word
deriving DecidableEq, Repr

def Part.reset : Part :=
  { enable := false, floor := 64, cores := 0, ssBase := 0, ssUnits := 0, cfgErr := false, stage := [0, 0, 0, 0],
    share := [0, 0, 0, 0], coreTicks := 0, ticksLatch := 0, missCnt := 0, reportSeq := 0, slowNow := (0, 0),
    slow := (0, 0), waitNow := [0, 0, 0, 0], wait := [0, 0, 0, 0], segs := List.replicate 16 Seg.zero, fringLo := 0,
    fringHi := 0, fringCfg := 0, fringTail := 0, fringHead := 0, fringSeq := 0, fringWait := [], fringOut := 0,
    faultCnt := 0, staleCnt := 0, rings := List.replicate 8 Ring.reset, cringLo := 0, cringHi := 0, cringCfg := 0,
    cringTail := 0, cringHead := 0, msi := List.replicate 4 Msi.reset, winStep := 0, winDrops := 0, bellDrops := 0,
    hqs := List.replicate 64 HQueue.reset, hqPtrs := List.replicate 64 (0, 0), hqInflight := 0, hqMax := 0, hqPut := 0, hqGet := 0, bars := [], stkeep := 0x61 }

/-- A wake rule (R408). -/
structure WakeRule where
  ctrl : Word
  addr : Word
  thresh : Word
  bellLo : Word
  bellHi : Word
deriving DecidableEq, Repr

/-- Watch mode's state (Table 12.7). -/
inductive Watch where
  | normal | entering | watch | waking
deriving DecidableEq, Repr

def Watch.code : Watch → Nat
  | .normal => 0
  | .entering => 1
  | .watch => 2
  | .waking => 3

/-- State of a logical core's remap entry (Table 1.5). -/
structure Remap where
  phys : Nat
  state : Nat
  count : Nat
deriving DecidableEq, Repr

/-- The grid and the Binnacle: remap, fused-bad and retired physical cores, dispatch, jobs, records, the host port's
writes in flight, the partition common page, watch mode; `watchSel` is PRT_WATCH_CTRL.partition, `watchIn` the partition of the last
entry, `windows` the report windows closed, `reportDue` one whose message has not been sent (R405); `slices` the shared-store slices as
regulated units, `sliceWon` the source stop each granted in this F-cycle (R392, R395), `storeMarch` the shared-store banks under sounding,
as (slice, unit, F-cycles since the burst began) (R445); `barLocal` lists chain barriers complete on this instance
(partition, ring, barrier, phase) whose completion has not gone to the links (R257). -/
structure Grid where
  remap : List Remap
  bad : List Nat
  disp : List DispEntry
  fetches : List Fetch
  jobs : List Job
  records : List Record
  wins : List WinWrite
  seq : Nat
  gmsi : Msi
  shareErr : Bool
  slack : Word
  reportMsg : Bool
  watchSel : Nat
  watchIn : Nat
  watch : Watch
  watchRefused : Bool
  windows : Nat
  reportDue : Bool
  wakes : List WakeRule
  barLocal : List (Nat × Nat × Nat × Half)
  slices : List Reg_
  sliceWon : List (Option Nat)
  storeMarch : List (Nat × Nat × Nat)
deriving DecidableEq, Repr

def Grid.reset : Grid :=
  { remap := List.replicate 32 ⟨0, 0, 0⟩, bad := [], disp := [], fetches := [], jobs := [],
    records := [], wins := [], seq := 0, gmsi := .reset, shareErr := false, slack := 0xFA, reportMsg := false,
    watchSel := 0, watchIn := 0, windows := 0, reportDue := false, watch := .normal, watchRefused := false,
    wakes := List.replicate 8 ⟨0, 0, 0, 0, 0⟩, barLocal := [], slices := List.replicate 16 Reg_.reset,
    sliceWon := List.replicate 16 none, storeMarch := [] }

end Sys2Proof.Machine
end

