-- ==== Sys2Proof/Machine/IntakeTypes.lean ====
section
/-! DEFINITION. The Intake and the frame port (section 11): sessions, lanes, batches, streams, frames. -/

namespace Sys2Proof.Machine

/-- How a slot resolved (R369): the low half of its entry word and its flags concealed, late, failed, empty; the damage
extent when there is one. -/
structure SlotEnd where
  status : Nat
  flags : Nat
  damage : Option (Nat × Nat × Nat × Nat)
deriving DecidableEq, Repr

/-- A slot of a batch: its position and cookie once taken, how it resolved. -/
structure BatchSlot where
  pos : Word
  cookie : List Byte
  ended : Option SlotEnd
deriving DecidableEq, Repr

/-- A batch (R368, R370): sequence, tick of the first take, the slots in order, whether it takes no more, whether a write of
it was refused, its writes not yet issued beside the lanes' as (engine address, bytes), whether its header and entries are among
them or gone, whether it is prepared. -/
structure Batch where
  seq : Nat
  t0 : Nat
  slots : List BatchSlot
  closed : Bool
  status : Nat
  out : List (Nat × List Byte)
  headed : Bool
  prepared : Bool
deriving DecidableEq, Repr

/-- A session. `head` and `tail` are positions of the sample ring; `tries` and `nextTry` the re-reads of R364, `retrying`
while they go on, `ahead` after they have failed; `avg` is A of R375; `counts` slots by outcome; `armed` lets low_water be
raised (R373). -/
structure Session where
  sringLo : Word
  sringHi : Word
  cfg : Word
  outLo : Word
  outHi : Word
  outCfg : Word
  outShape : Word
  stride : Word
  scrLo : Word
  scrHi : Word
  budget : Word
  pad : Word
  event : Nat
  bellDrop : Nat
  avg : Nat
  counts : List Word
  msi : Msi
  head : Word
  tail : Word
  retrying : Bool
  tries : Nat
  nextTry : Nat
  ahead : Bool
  batches : List Batch
  nextSeq : Nat
  armed : Bool
deriving DecidableEq, Repr

def Session.reset : Session :=
  { sringLo := 0, sringHi := 0, cfg := 0, outLo := 0, outHi := 0, outCfg := 0, outShape := 0, stride := 0, scrLo := 0,
    scrHi := 0, budget := 8, pad := 0, event := 0, bellDrop := 0, avg := 0, counts := List.replicate 4 0, msi := .reset,
    head := 0, tail := 0, retrying := false, tries := 0, nextTry := 0, ahead := false, batches := [], nextSeq := 0,
    armed := false }

/-- What a lane holds: a sample with its record, its batch and slot; a video frame of a stream, by its arrival number. -/
inductive LaneItem where
  | sample (record : List Byte) (batch slot : Nat)
  | frame (stream no : Nat)
deriving DecidableEq, Repr

/-- A lane at work (R358): its session and item, the tick of the take, ticks spent waiting on faults and since when it
waits; the engine range it still reads and the first unread byte, and the status of a refused read; output writes
not yet issued, as (engine address, bytes); whether its item has resolved. -/
structure ItkLane where
  sess : Nat
  item : LaneItem
  take : Nat
  faultTicks : Nat
  waiting : Option Nat
  rdAddr : Nat
  rdLen : Nat
  rdDone : Nat
  bytes : List Byte
  refused : Option Nat
  out : List (Nat × List Byte)
  resolved : Bool
deriving DecidableEq, Repr

/-- Where a frame stands (R378 to R382); `discarding`: dropped, its remaining lines still arriving (R377). -/
inductive FrameState where
  | arriving | discarding | pending | shaping | written | closing | dropped
deriving DecidableEq, Repr

/-- A frame or audio block, from its start to its record: arrival number, its slot, capture tick and number, line in
arrival and lines received, flags short, long, line_fix, status, statistics with the count of bytes that came. `noSlot`: its lines are
discarded. -/
structure FrameRec where
  no : Nat
  slot : Option Nat
  tCap : Nat
  fnum : Word
  tStart : Nat
  tEnd : Nat
  tDisp : Nat
  st : FrameState
  line : List Byte
  last : List Byte
  lines : Nat
  flags : Nat
  status : Nat
  stats : List Byte
  hasStats : Bool
  trunc : Bool
deriving DecidableEq, Repr

/-- A frame stream (Table 11.8). `busy` lists slots taken, `frames` those not recorded yet in arrival order, `stage` staging
writes not yet issued, `held` the frames whose statistics are being received, by kind. -/
structure FStream where
  ctrl : Word
  inShape : Word
  outShape : Word
  stale : Word
  stageLo : Word
  stageHi : Word
  outLo : Word
  outHi : Word
  recLo : Word
  recHi : Word
  head : Nat
  tail : Nat
  drops : Nat
  lost : Nat
  busy : List Nat
  frames : List FrameRec
  stage : List (Nat × List Byte)
  nextNo : Nat
  statsFor : Option Nat
deriving DecidableEq, Repr

def FStream.reset : FStream :=
  { ctrl := 0, inShape := 0, outShape := 0, stale := 0, stageLo := 0, stageHi := 0, outLo := 0, outHi := 0, recLo := 0,
    recHi := 0, head := 0, tail := 0, drops := 0, lost := 0, busy := [], frames := [], stage := [], nextNo := 0,
    statsFor := none }

/-- The Intake and the frame port. `reg` is the lane pool's regulated unit (R392). -/
structure Intake where
  sess : List Session
  lanes : List (Option ItkLane)
  streams : List FStream
  reg : Reg_
deriving DecidableEq, Repr

def Intake.reset : Intake :=
  { sess := List.replicate 8 Session.reset, lanes := List.replicate 4 none, streams := List.replicate 6 FStream.reset,
    reg := .reset }

end Sys2Proof.Machine
end

