-- ==== Sys2Proof/Machine/LinkTypes.lean ====
section
/-! DEFINITION. What the Ruryn links hold (section 16). Sub-link l is port l / 2, sub-link a or b by l mod 2. -/

namespace Sys2Proof.Machine

/-- What a cell says (R490, R497 to R501, R429). Their layout in the payload is not given by the spec. -/
inductive Cell where
  | readReq (tag addr len : Nat)
  | writeAck (tag : Nat)
  | error (tag : Nat)
  | hqPut (queue core task : Nat) (h : DWord)
  | hqReply (core task : Nat) (ok : Bool)
  | hqSpace (core task : Nat)
  | barArrive (cjob bar : Nat) (phase : Half)
  | barDone (cjob bar : Nat) (phase : Half)
  | divider (cjob div tick : Nat)
  | down (nodes : List Nat)
  | restart (cjob replays : Nat)
deriving DecidableEq, Repr

/-- The link stop, the source of cells and of answers (R395). -/
def linkStop : Nat := 41

/-- What a frame carries: bytes, or up to 16 cells. -/
inductive Load_ where
  | data (bs : List Byte)
  | cells (cs : List Cell)
deriving DecidableEq, Repr

/-- A frame's header fields (Table 16.2) but for the counter, and its contents. `kind`: 1 write, 2 read request, 3 read
response, 4 cells; `cls`: 0 request, 1 response, 2 cell. `own` is the local partition it is sent for, `via` the sub-link it came in on
when it is in transit, `stop` the stop it is from. -/
structure Frame_ where
  kind : Nat
  cls : Nat
  dst : Nat
  src : Nat
  part : Nat
  tag : Nat
  addr : Nat
  load : Load_
  own : Nat
  via : Option Nat
  stop : Nat
deriving DecidableEq, Repr

/-- An accepted frame in a receive buffer: its header, its deciphered payload, the cells of it not served yet. -/
structure RxFrame where
  kind : Nat
  cls : Nat
  dst : Nat
  src : Nat
  part : Nat
  tag : Nat
  addr : Nat
  data : List Byte
  left : Nat
deriving DecidableEq, Repr

/-- A frame in the replay buffer: its counter, class and bytes on the wire. -/
structure SentFrame where
  counter : Nat
  bytes : List Byte
deriving DecidableEq, Repr

/-- State of a sub-link (Table 16.5). -/
inductive LinkState where
  | down | lock | training | keying | up | upNarrow
deriving DecidableEq, Repr

def LinkState.code : LinkState → Nat
  | .down => 0
  | .lock => 1
  | .training => 2
  | .keying => 3
  | .up => 4
  | .upNarrow => 5

def LinkState.isUp : LinkState → Bool
  | .up => true
  | .upNarrow => true
  | _ => false

/-- Keys of one epoch: key and salt of each direction (R479). -/
structure LinkKeys where
  txKey : List Byte
  txSalt : List Byte
  rxKey : List Byte
  rxSalt : List Byte
deriving DecidableEq, Repr

/-- A sub-link. `txCtr` and `rxCtr` are the next counters to send and to accept; `credits` those held a class; `owed`
credit returns due; `resend` the counter the sender resends from; `ack` and `nack` what the next control slot says; `nacks` the run of
negative acknowledgements of one frame received, `nacksSent` sent; `eph` the ephemeral private key of a handshake in progress;
`nextKeys` keys that take effect at the frame a handshake named; `slots` counts frame slots; `txNow` is the frame slot on the lanes; `back`
marks a link retraining at its epoch. -/
structure SubLink where
  st : LinkState
  peer : Nat
  minor : Nat
  width : Nat
  half : Nat
  rate : Bool
  retryAt : Nat
  back : Bool
  epoch : Nat
  keys : Option LinkKeys
  eph : Option Nat
  nextKeys : Option (Nat × LinkKeys)
  peerRefused : Bool
  peerDate : Bool
  timed : Bool
  txCtr : Nat
  rxCtr : Nat
  credits : List Nat
  owed : List Nat
  rx : List RxFrame
  replay : List SentFrame
  resend : Option Nat
  ack : Bool
  nack : Bool
  nacks : Nat × Nat
  nacksSent : Nat × Nat
  skipping : Bool
  sounding : Bool
  slots : Nat
  transitLast : Bool
  txNow : List Byte
deriving DecidableEq, Repr

def SubLink.reset : SubLink :=
  { st := .down, peer := 0, minor := 0, width := 0, half := 0, rate := false, retryAt := 0, back := false,
    epoch := 0, keys := none, eph := none, nextKeys := none, peerRefused := false, peerDate := false, timed := false, txCtr := 0, rxCtr := 0,
    credits := [32, 32, 32], owed := [0, 0, 0], rx := [], replay := [], resend := none, ack := false, nack := false,
    nacks := (0, 0), nacksSent := (0, 0), skipping := false, sounding := false, slots := 0, transitLast := false, txNow := [] }

/-- A port's registers, and which sub-link its last grant went to (R488). -/
structure LinkPort where
  cfg : Word
  event : Word
  txCnt : Word
  rxCnt : Word
  replayCnt : Word
  last : Option Nat
deriving DecidableEq, Repr

def LinkPort.reset : LinkPort := ⟨0, 0, 0, 0, 0, none⟩

/-- An inbound access being served (R322): its requester, tag, partition, direction, how many bytes, the data of a
write, whether it has been issued. `mid` marks an earlier frame of a write, whose last frame answers; `bad` one refused. -/
structure InAcc where
  id : Nat
  node : Nat
  tag : Nat
  part : Nat
  write : Bool
  ea : Nat
  len : Nat
  data : List Byte
  issued : Bool
  mid : Bool
  bad : Bool
deriving DecidableEq, Repr

/-- The link stop. `queue` holds frames and cells of this instance waiting for a slot, `transit` frames to forward, `loop` frames to itself;
`reg` the balances of each port's sending and receiving direction (R392); `cjob` the chain job entries, `hqb` the bindings of
handle queues, eight a partition; `arrivals` chain-barrier arrivals counted at the root; `noticed` nodes a down notice has
named. -/
structure Links where
  node : Word
  ports : List LinkPort
  subs : List SubLink
  routes : List Word
  cjob : List (Word × Word)
  hqb : List Word
  queue : List Frame_
  transit : List Frame_
  loop : List RxFrame
  reg : List Reg_
  hqInflight : Nat
  synced : Bool
  offset : Int
  hops : Nat
  slew : Int
  t1 : Nat
  arrivals : List (Nat × Nat × Half × Nat)
  noticed : List Nat
  inbound : List InAcc
  nextIn : Nat
deriving DecidableEq, Repr

def Links.reset : Links :=
  { node := 0, ports := [.reset, .reset], subs := List.replicate 4 SubLink.reset, routes := List.replicate 32 0,
    cjob := List.replicate 16 (0, 0), hqb := List.replicate 64 0, queue := [], transit := [], loop := [],
    reg := List.replicate 4 Reg_.reset, hqInflight := 0, synced := false, offset := 0, hops := 0, slew := 0, t1 := 0, arrivals := [],
    noticed := [], inbound := [], nextIn := 0 }

end Sys2Proof.Machine
end

