-- ==== Sys2Proof/Machine/LodestarTypes.lean ====
section
/-! DEFINITION. What the Lodestar holds (section 15). -/

namespace Sys2Proof.Machine

/-- An installed key slot (R469, R472). -/
structure KeySlot where
  key : List Byte
  keyId : Word
  salt : List Byte
  tagBase : Nat
  weightDigest : List Byte
deriving DecidableEq, Repr

/-- A kept report (R468): the release private key, the report digest, the epochs at its snapshot. -/
structure KeptReport where
  priv : Nat
  digest : List Byte
  epochs : List Word
deriving DecidableEq, Repr

/-- An install in progress: its blob's address (R469, R470). A clear takes no time of its own. -/
inductive KeyOp where
  | install (addr : Nat)
deriving DecidableEq, Repr

/-- The Lodestar. `dpriv` is the device private key, none until it is derived; `rptQueue` the requests' nonces and
addresses; `writing` while a report's writes are out; `scrubs` the partitions in scrub. -/
structure Lodestar where
  secret : List Byte
  dpriv : Option Nat
  devkey : List Byte
  lifecycle : Nat
  secVersion : Nat
  nonce : List Word
  rptLo : Word
  rptHi : Word
  rptQueue : List (List Byte × Nat)
  writing : Bool
  rptSeq : Word
  kept : List KeptReport
  keyLo : Word
  keyHi : Word
  keyOp : Option KeyOp
  keyResult : Nat
  event : Word
  denyCnt : Word
  epochs : List Word
  peers : List Word
  scrubs : List Nat
  scrubStatus : Nat
  acc : List Word
  accLock : Bool
  keys : List (List (Option KeySlot))
  sealFailCnt : Word
  sealFailPart : Nat
  sealFailSeg : Nat
  sealFailChunk : Nat
deriving DecidableEq, Repr

def Lodestar.reset : Lodestar :=
  { secret := [], dpriv := none, devkey := [], lifecycle := 0, secVersion := 0, nonce := List.replicate 8 0, rptLo := 0,
    rptHi := 0, rptQueue := [], writing := false, rptSeq := 0, kept := [], keyLo := 0, keyHi := 0, keyOp := none,
    keyResult := 0, event := 0, denyCnt := 0, epochs := List.replicate 8 0, peers := List.replicate 32 0, scrubs := [],
    scrubStatus := 0, acc := 0x81000000#32 :: List.replicate 15 0#32, accLock := false,
    keys := List.replicate 8 (List.replicate 16 none), sealFailCnt := 0, sealFailPart := 0, sealFailSeg := 0,
    sealFailChunk := 0 }

/-- Some key slot is installed. -/
def Lodestar.anyKey (l : Lodestar) : Bool := l.keys.any (fun p => p.any Option.isSome)

end Sys2Proof.Machine
end

