-- ==== Sys2Proof/Machine/Mesh.lean ====
section
/-! DEFINITION. The mesh of routers (R19 to R27): where each stop lies, the fixed route of a packet, and one F-cycle of the
routers: buffers, virtual channels, credits and arbitration. -/

namespace Sys2Proof

/-- What sits at a position of the mesh (Table 1.1); cores by physical number. -/
inductive Stop where
  | core (p : Nat)
  | slice (n : Nat)
  | fab (f : Nat)
  | control
  | memory
  | link
  | router
deriving DecidableEq, Repr

namespace Model

/-- The port stops of row 0 in order, from x = 0 (R19, step 1). -/
def ports (m : Model) : List Stop :=
  [.fab 0, .control] ++ (if m.nearPort then [.memory] else []) ++ [.link, .fab 1]

/-- The edge positions slices fill, in order (R19, step 2). -/
def edges (m : Model) : List (Nat × Nat) :=
  (List.range (m.meshX - m.portStops)).map (fun i => (m.portStops + i, 0)) ++
    (List.range (m.meshY - 1)).map (fun i => (0, i + 1)) ++ (List.range (m.meshY - 1)).map (fun i => (m.meshX - 1, i + 1))

/-- The k-th interior position in row-major order (R19, step 3). -/
def inner (m : Model) (k : Nat) : Nat × Nat := (1 + k % (m.meshX - 2), 1 + k / (m.meshX - 2))

/-- The stop at a position (R19). -/
def stopAt (m : Model) (x y : Nat) : Stop :=
  if y = 0 ∧ x < m.portStops then m.ports.getD x .router
  else
    match m.edges.findIdx? (fun e => e = (x, y)) with
    | some i => if i < m.slices then .slice i else .router
    | none =>
      let k := (y - 1) * (m.meshX - 2) + (x - 1)
      if k < m.phys then .core k
      else if k - m.phys + m.edges.length < m.slices then .slice (k - m.phys + m.edges.length)
      else .router

/-- The position of a stop (R19). -/
def posOf (m : Model) (st : Stop) : Nat × Nat :=
  match st with
  | .core p => m.inner p
  | .slice n => if n < m.edges.length then m.edges.getD n (0, 0) else m.inner (m.phys + (n - m.edges.length))
  | .router => (m.meshX - 1, m.meshY - 1)
  | port => ((m.ports.findIdx? (fun q => q = port)).getD 0, 0)

/-- Every position, row by row. -/
def positions (m : Model) : List (Nat × Nat) :=
  (List.range m.meshY).flatMap (fun y => (List.range m.meshX).map (fun x => (x, y)))

/-- Stops of the mesh and router-only stops (Table 1.2). -/
def stops (m : Model) : Nat := m.meshX * m.meshY
def routerOnly (m : Model) : Nat := (m.positions.filter (fun e => m.stopAt e.1 e.2 = .router)).length

end Model

/-- Hops between two positions. -/
def hopsBetween (a b : Nat × Nat) : Nat := (max a.1 b.1 - min a.1 b.1) + (max a.2 b.2 - min a.2 b.2)

namespace Model

/-- The largest hop distance between two core stops, and from the control stop to a core stop (R20). -/
def coreDiameter (m : Model) : Nat :=
  (List.range m.phys).foldl (fun d a =>
    (List.range m.phys).foldl (fun d b => max d (hopsBetween (m.posOf (.core a)) (m.posOf (.core b)))) d) 0
def startReach (m : Model) : Nat :=
  (List.range m.phys).foldl (fun d a => max d (hopsBetween (m.posOf .control) (m.posOf (.core a)))) 0

end Model

namespace Machine

/-- The classes of packets, each with its own virtual channel on every link (R24). -/
inductive PktClass where
  | control | request | response
deriving DecidableEq, Repr

def PktClass.code : PktClass → Nat
  | .control => 0
  | .request => 1
  | .response => 2

/-- A packet on its way (R21, R22): class, source and destination positions, and for each flit, head first, how many buffers it
has entered (0: still with its source; 1 + j: that of the router j hops on; one more than the last: ejected) and the mesh cycle of
its last move. `held`: its unit takes it from the last router's buffer itself (R287); `own`: it is one of State.mesh, in the order
of that list. -/
structure Flight where
  cls : PktClass
  src : Nat × Nat
  dst : Nat × Nat
  flits : List (Nat × Nat)
  held : Bool
  own : Bool
deriving DecidableEq, Repr

/-- The routers: F-cycles they have run, packets in injection order, the credits each sender of a link holds per class (4 when
unlisted, R27), credits on the return wires with the cycle they left, rotating pointers of the router outputs (R25), and the
count of open choices made. -/
structure Routers where
  cyc : Nat
  flights : List Flight
  cred : Sparse Nat
  back : List (Nat × Nat)
  ptr : Sparse Nat
  picks : Nat
deriving DecidableEq, Repr

def Routers.reset : Routers := ⟨0, [], [], [], [], 0⟩

/-- Flits of a packet of n payload bytes, 1 to 4 of 256 B (R21). -/
def flitsOf (n : Nat) : Nat := max 1 (min 4 (cdiv n 256))

/-- A packet about to be injected (R21). -/
def Flight.new (cls : PktClass) (src dst : Nat × Nat) (bytes : Nat) (held own : Bool) : Flight :=
  ⟨cls, src, dst, List.replicate (flitsOf bytes) (0, 0), held, own⟩

def Flight.hops (f : Flight) : Nat := hopsBetween f.src f.dst

/-- One coordinate moved by up to n towards its goal, and what is left of n. -/
def toward (a b n : Nat) : Nat × Nat :=
  let d := max a b - min a b
  if n ≤ d then (if a ≤ b then a + n else a - n, 0) else (b, n - d)

/-- The position j hops along the route: first along x, then along y (R22). (DESIGN CHOICE, log 72) -/
def Flight.node (f : Flight) (j : Nat) : Nat × Nat :=
  let x := toward f.src.1 f.dst.1 j
  (x.1, (toward f.src.2 f.dst.2 x.2).1)

/-- The input by which the packet enters the router j hops on: 0 from its own stop, 1 from the west, 2 from the east, 3 from lower y,
4 from higher y. (DESIGN CHOICE, log 72) -/
def Flight.inAt (f : Flight) (j : Nat) : Nat :=
  match j with
  | 0 => 0
  | i + 1 =>
    let a := f.node i
    let b := f.node (i + 1)
    if a.1 < b.1 then 1 else if b.1 < a.1 then 2 else if a.2 < b.2 then 3 else 4

/-- The link into the router j hops on, as a number. -/
def Flight.link (f : Flight) (j : Nat) : Nat := ((f.node j).2 * 8 + (f.node j).1) * 5 + f.inAt j

/-- A link's buffer for a class, as a number. -/
def bufOf (link : Nat) (cls : PktClass) : Nat := 3 * link + cls.code

/-- The buffer a flit that has entered k of them lies in. -/
def Flight.buf (f : Flight) (k : Nat) : Nat := bufOf (f.link (k - 1)) f.cls

def Flight.done (f : Flight) : Bool := f.flits.all (fun e => e.1 = f.hops + 2)

/-- The mesh cycle of a packet's last move: that of its ejection, once it is ejected. -/
def Flight.lastMove (f : Flight) : Nat := f.flits.foldl (fun m e => max m e.2) 0

/-- Flits in router buffers: buffer and cycle of entry. -/
def Routers.inBuffers (r : Routers) : List (Nat × Nat) :=
  r.flights.flatMap (fun f =>
    f.flits.filterMap (fun e => if e.1 = 0 ∨ e.1 = f.hops + 2 then none else some (f.buf e.1, e.2)))

/-- The credits of a buffer: held by the sender, on the return wire, or a flit in the buffer (R27). -/
def Routers.credits (r : Routers) (b : Nat) : Nat :=
  Sparse.get 4 r.cred b + (r.back.filter (fun e => e.1 = b)).length + (r.inBuffers.filter (fun e => e.1 = b)).length

/-- A flit a router would send: the link it wants, its class, the input it waits at, its packet and place in it. -/
structure Offer where
  link : Nat
  cls : PktClass
  inp : Nat
  flight : Nat
  flit : Nat
deriving DecidableEq, Repr

/-- A packet some of whose flits have crossed a link and some not keeps its class on that link (R25: back to back). -/
def Flight.keeps (f : Flight) (link : Nat) : Bool :=
  match f.flits with
  | [] => false
  | [_] => false
  | _ => (List.range (f.hops + 1)).any (fun j =>
      f.link j = link && f.flits.any (fun e => j < e.1) && f.flits.any (fun e => e.1 ≤ j))

/-- The offers of one F-cycle: an injection goes flit by flit in injection order; a flit leaves a buffer from its head, two F-cycles
after it entered (R23), when the next buffer has a credit (R27) and no other packet of its class keeps the link. -/
def Routers.offers (r : Routers) : List Offer :=
  let heads := r.inBuffers
  (List.range r.flights.length).flatMap fun i =>
    match r.flights[i]? with
    | none => []
    | some f =>
      let free := fun (link : Nat) => 0 < Sparse.get 4 r.cred (bufOf link f.cls) &&
        ((List.range r.flights.length).all (fun g => g = i || (match r.flights[g]? with
          | some x => !(x.cls = f.cls && x.keeps link)
          | none => true)))
      (List.range f.flits.length).filterMap fun q =>
        match f.flits[q]? with
        | none => none
        | some (k, t) =>
          if f.hops < k then none
          else
            let link := f.link k
            let turn :=
              if k = 0 then
                (f.flits.take q).all (fun e => e.1 ≠ 0) &&
                  (r.flights.take i).all (fun x => !(x.src = f.src && x.cls = f.cls && x.flits.any (fun e => e.1 = 0)))
              else t + 2 ≤ r.cyc && heads.all (fun e => !(e.1 = f.buf k && e.2 < t))
            if turn && free link then some ⟨link, f.cls, if k = 0 then 0 else f.inAt (k - 1), i, q⟩ else none

/-- The better of two offers of one class to one output: the next input from the rotating pointer on (R25). -/
def Routers.nearer (r : Routers) (a b : Offer) : Offer :=
  let p := Sparse.get 0 r.ptr a.link
  if (b.inp + 5 - p) % 5 < (a.inp + 5 - p) % 5 then b else a

/-- The offer an output takes: control wins over the others (R25); the rule between requests and responses is left open, so an
open choice decides. (DESIGN CHOICE, log 72) -/
def Routers.winner (r : Routers) (l : List Offer) : Option Offer × Routers :=
  let of := fun (c : PktClass) => l.filter (fun o => o.cls = c)
  let best := fun (l : List Offer) => match l with
    | [] => none
    | o :: os => some (os.foldl r.nearer o)
  match of .control, of .request, of .response with
  | [], [], ps => (best ps, r)
  | [], qs, [] => (best qs, r)
  | [], qs, ps => (best (if meshPick r.picks then qs else ps), { r with picks := r.picks + 1 })
  | cs, _, _ => (best cs, r)

/-- A flit moves into the next buffer: its credit is taken, that of the buffer it leaves goes back. -/
def Routers.advance (r : Routers) (i q : Nat) : Routers :=
  match r.flights[i]? with
  | none => r
  | some f =>
    match f.flits[q]? with
    | none => r
    | some (k, _) =>
      let to_ := bufOf (f.link k) f.cls
      { r with
        flights := setAt r.flights i { f with flits := setAt f.flits q (k + 1, r.cyc) }
        cred := if f.hops < k then r.cred else Sparse.set 4 r.cred to_ (Sparse.get 4 r.cred to_ - 1)
        back := if k = 0 then r.back else r.back ++ [(f.buf k, r.cyc)] }

/-- An output sends the flit that wins; its pointer moves to the input after the winner (R25). -/
def Routers.output (r : Routers) (offers : List Offer) (link : Nat) : Routers :=
  match r.winner (offers.filter (fun o => o.link = link)) with
  | (none, r) => r
  | (some o, r) => ({ r with ptr := Sparse.set 0 r.ptr link ((o.inp + 1) % 5) }).advance o.flight o.flit

/-- The flits that may be ejected: at the head of a buffer of their destination, one F-cycle after they entered (R23). -/
def Routers.ejections (r : Routers) : List (Nat × Nat) :=
  let heads := r.inBuffers
  (List.range r.flights.length).flatMap fun i =>
    match r.flights[i]? with
    | none => []
    | some f =>
      if f.held then []
      else
        (List.range f.flits.length).filterMap fun q =>
          match f.flits[q]? with
          | some (k, t) =>
            if k = f.hops + 1 ∧ t + 1 ≤ r.cyc ∧ heads.all (fun e => !(e.1 = f.buf k && e.2 < t)) then some (i, q) else none
          | none => none

/-- Credits come back to their senders after one F-cycle on the return wire. -/
def Routers.creditBack (r : Routers) : Routers :=
  let home := r.back.filter (fun e => e.2 + 2 ≤ r.cyc)
  { r with
    back := r.back.filter (fun e => !(e.2 + 2 ≤ r.cyc))
    cred := home.foldl (fun c e => Sparse.set 4 c e.1 (Sparse.get 4 c e.1 + 1)) r.cred }

/-- One F-cycle of the mesh (R21 to R27). A packet that is no packet of State.mesh leaves once it is ejected.
(DESIGN CHOICE, log 72) -/
def Routers.cycle (r : Routers) : Routers :=
  if r.flights.all Flight.done && r.back.isEmpty then { r with cyc := r.cyc + 1 }
  else
    let r := r.creditBack
    let out := r.ejections
    let offers := r.offers
    let links := (offers.map Offer.link).eraseDups
    let r := out.foldl (fun r e => r.advance e.1 e.2) r
    let r := links.foldl (fun r l => r.output offers l) r
    { r with cyc := r.cyc + 1, flights := r.flights.filter (fun f => f.own || !f.done) }

/-- The mesh runs until a condition holds, at most n F-cycles. -/
def Routers.runUntil (stop : Routers → Bool) : Nat → Routers → Routers
  | 0, r => r
  | n + 1, r => if stop r then r else Routers.runUntil stop n r.cycle

/-- F-cycles that let every packet in flight reach its stop, when nothing holds one there. -/
def Routers.bound (r : Routers) : Nat := 64 + 8 * sumNat (r.flights.map (fun f => f.flits.length))

/-- The place among all flights of the k-th packet of State.mesh. -/
def Routers.place (r : Routers) (k : Nat) : Option Nat :=
  ((List.range r.flights.length).filter (fun i => (r.flights[i]?).any Flight.own))[k]?

/-- The k-th packet of State.mesh is ejected, and no earlier packet of its class between the same two stops is still to be taken
(R26). -/
def Routers.ready (r : Routers) (k : Nat) : Bool :=
  match r.place k with
  | none => false
  | some i =>
    match r.flights[i]? with
    | none => false
    | some f => f.done && (r.flights.take i).all (fun g => !(g.own && g.cls = f.cls && g.src = f.src && g.dst = f.dst))

/-- The mesh once the k-th packet of State.mesh may be taken by its unit. -/
def Routers.deliver (r : Routers) (k : Nat) : Routers :=
  let r := match r.place k with
    | some i => { r with flights := modAt r.flights i (fun f => { f with held := false }) }
    | none => r
  r.runUntil (fun x => x.ready k) r.bound

/-- The k-th packet of State.mesh leaves; flits of it still in buffers give their credits back at once. -/
def Routers.drop (r : Routers) (k : Nat) : Routers :=
  match r.place k with
  | none => r
  | some i =>
    match r.flights[i]? with
    | none => r
    | some f => { r with
        flights := dropAt r.flights i
        back := r.back ++ f.flits.filterMap (fun e =>
          if e.1 = 0 ∨ e.1 = f.hops + 2 then none else some (f.buf e.1, r.cyc)) }

/-- A packet that no command takes is carried to its stop (R24: requests, read data, acknowledgements). -/
def Routers.carry (r : Routers) (f : Flight) : Routers :=
  let r := { r with flights := r.flights ++ [f] }
  r.runUntil (fun x => !(x.flights.getLast?.any (fun g => g.src = f.src && g.dst = f.dst && g.cls = f.cls && !g.own))) r.bound

end Machine
end Sys2Proof
end

