-- ==== Sys2Proof/Machine/MeshTypes.lean ====
section
/-! DEFINITION. Packets in flight on the mesh (R21 to R26): those whose arrival is an event of its own. -/

namespace Sys2Proof.Machine

/-- A packet in flight, from injection to ejection. Cores are logical. -/
inductive Pkt where
  | start (core : Nat) (hot : Bool)
  | notice (core : Nat)
  | creditReq (src dst n : Nat)
  | creditGrant (src dst n : Nat)
  | creditRet (src dst n : Nat)
  | message (src dst : Nat) (data : List Byte)
  | barArrive (part core bar : Nat) (phase : Half)
  | barDone (core bar : Nat)
  | hqPut (part core task q : Nat) (h : DWord) (born : Nat)
  | hqPutRep (core task : Nat) (ok : Bool)
  | hqGet (part core task q : Nat)
  | hqGetRep (core task : Nat) (h : DWord) (born : Nat)
  | hqSpace (core task : Nat)
  | chain (src core : Nat) (p : ChainPkt)
  | walk (stop line : Nat) (w : Waiter)
  | fill (eng : Engine) (line : Nat) (entries : List Word) (use : Bool) (replayed : Option Nat)
  | halt (eng : Engine) (index : Nat) (status : Nat)
  | retry (eng : Engine) (line : Nat)
  | faultRec (stop : Nat) (r : FaultRec)
  | release (stop : Nat) (part : Nat) (seq : Word) (abort : Bool)
deriving DecidableEq, Repr

end Sys2Proof.Machine
end

