-- ==== Sys2Proof/Machine/PortTypes.lean ====
section
/-! DEFINITION. Pins of the power and test ports (R531 to R535) that hold their value between events. -/

namespace Sys2Proof.Machine

/-- The states of the IEEE 1149.1 controller. (PRESUMED, log 17) -/
inductive TapState where
  | reset | idle
  | selectDr | captureDr | shiftDr | exit1Dr | pauseDr | exit2Dr | updateDr
  | selectIr | captureIr | shiftIr | exit1Ir | pauseIr | exit2Ir | updateIr
deriving DecidableEq, Repr

/-- The test port: controller state, shift register and held value of the instruction register, the data register
selected, the boundary register's update stage, TST_TDO; TST_IDCODE_MFR. -/
structure Tap where
  st : TapState
  irShift : List Bool
  ir : Option (List Bool)
  dr : List Bool
  cells : List Bool
  edges : Nat
  tdo : Bool
  mfr : Nat
deriving DecidableEq, Repr

def Tap.reset : Tap := { st := .reset, irShift := [], ir := none, dr := [], cells := [], edges := 0, tdo := false, mfr := 0 }

/-- The power port's handshake for power-down (R533): request seen, preparing, answers, PW_MODE 3. -/
structure PwPins where
  downReq : Bool
  preparing : Bool
  ack : Bool
  nack : Bool
deriving DecidableEq, Repr

def PwPins.reset : PwPins := ⟨false, false, false, false⟩

end Sys2Proof.Machine
end

