-- ==== Sys2Proof/Machine/State.lean ====
section
/-! DEFINITION. The state of the block: every unit, port and queue, and the waiting commands; what stops a run; the
state after reset. -/

namespace Sys2Proof.Machine

/-- Why a command faults. -/
inductive Fault where
  /-- Raised by TEST_PORT_TCK when an internal scan or memory-access instruction of the test port is carried out
  while R474 does not lock it: the spec does not say what it does. Safe: the run stops. -/
  | internalScan
deriving DecidableEq, Repr

/-- Why a command is refused. -/
inductive Refusal where
  /-- Raised by exec for a command that has no meaning in the model yet. Safe: the run stops. -/
  | notModelled (mnemonic : String)
deriving DecidableEq, Repr

/-- Time (R7, R8, R496): ticks of 10 ns, PLL cycles since the tick began, F-cycles, PLL cycles each core's A-clock
divider has counted, the latched high word of the tick counter. -/
structure Clock where
  tick : Nat
  sub : Nat
  fcyc : Nat
  adiv : List Nat
  latch : Word
deriving DecidableEq, Repr

def Clock.reset : Clock := ⟨0, 0, 0, List.replicate 32 0, 0⟩

/-- The block: its configuration, time, cores, partitions, grid and Binnacle, shared store with the seal bits of its 4 KiB
units, fabric and memory stops, Chart unit, Lodestar, links, fault unit, power controller, Intake, start-up, test and
power ports, the W1C bits that events have set in the present F-cycle (page, offset, bits; R14), packets in flight in injection order and
the routers that carry them, host read responses in order, the count of free values used, the waiting commands. -/
structure State where
  cfg : Model
  clk : Clock
  cores : Vector Core 32
  parts : Vector Part 8
  grid : Grid
  store : Mem
  storeSeal : List Nat
  fab : Fabric
  cht : ChartUnit
  lds : Lodestar
  lnk : Links
  flt : FaultUnit
  pwr : PowerUnit
  itk : Intake
  alm : Almanac
  tap : Tap
  pw : PwPins
  fresh : List (Nat × Nat × Nat)
  mesh : List Pkt
  noc : Routers
  reads : List DWord
  free : Nat
  pending : List Instr
deriving DecidableEq, Repr

/-- The block right after reset, in configuration SD3-32 (the reference configuration, R2). (DESIGN CHOICE, log 1)
(DESIGN CHOICE, log 7) -/
def State.reset : State :=
  { cfg := .sd32, clk := .reset, cores := Vector.replicate 32 Core.reset, parts := Vector.replicate 8 Part.reset,
    grid := .reset, store := [], storeSeal := [], fab := .reset, cht := .reset, lds := .reset, lnk := .reset, flt := .reset,
    pwr := .reset, itk := .reset, alm := .reset, tap := .reset, pw := .reset, fresh := [], mesh := [], noc := .reset, reads := [], free := 0,
    pending := [] }

end Sys2Proof.Machine
end

