-- ==== Sys2Proof/Machine/Ops.lean ====
section
/-! DEFINITION. Reading and changing the parts of the state, and the accesses the block makes on the system fabric
and the near-memory port (R237, R288, R392, R521 to R523). -/

namespace Sys2Proof.Machine

/-! ## Parts of the state -/

def State.core (s : State) (c : Nat) : Core := s.cores.toList.getD c Core.reset

def State.modCore (s : State) (c : Nat) (f : Core → Core) : State :=
  if h : c < 32 then { s with cores := s.cores.set c (f s.cores[c]) } else s

def State.part (s : State) (p : Nat) : Part := s.parts.toList.getD p Part.reset

def State.modPart (s : State) (p : Nat) (f : Part → Part) : State :=
  if h : p < 8 then { s with parts := s.parts.set p (f s.parts[p]) } else s

def State.modGrid (s : State) (f : Grid → Grid) : State := { s with grid := f s.grid }

def State.modCht (s : State) (f : ChartUnit → ChartUnit) : State := { s with cht := f s.cht }

def State.modRing (s : State) (p r : Nat) (f : Ring → Ring) : State :=
  s.modPart p (fun q => { q with rings := modAt q.rings r f })

def State.ring (s : State) (p r : Nat) : Ring := (s.part p).rings.getD r Ring.reset

/-- The tick counter's value. -/
def State.tick (s : State) : Nat := s.clk.tick

/-! ## The mesh (R19 to R27) -/

/-- Where a logical core's stop lies: that of the physical core it is mapped to (R28); before the remap is filled, of its number. -/
def State.corePos (s : State) (c : Nat) : Nat × Nat :=
  let r := s.grid.remap.getD c ⟨0, 0, 0⟩
  s.cfg.posOf (.core (if r.state = 0 then c else r.phys))

def State.controlPos (s : State) : Nat × Nat := s.cfg.posOf .control

/-- The stop of an engine of R312. -/
def State.enginePos (s : State) (e : Engine) : Nat × Nat :=
  match e with
  | .core c => s.corePos c
  | .intake _ => s.controlPos
  | .link _ => s.cfg.posOf .link
  | .walker f => s.cfg.posOf (.fab f)

/-- The class, the two stops and the payload bytes of a packet (R21, R24). What R24 does not list travels with the class its
purpose is nearest to. (DESIGN CHOICE, log 72) -/
def State.pathOf (s : State) (p : Pkt) : PktClass × (Nat × Nat) × (Nat × Nat) × Nat :=
  let ctl := s.controlPos
  let fab := fun (f : Nat) => s.cfg.posOf (.fab (f % 2))
  match p with
  | .start c _ => (.control, ctl, s.corePos c, 64)
  | .notice c => (.control, s.corePos c, ctl, 8)
  | .creditReq a b _ => (.control, s.corePos a, s.corePos b, 8)
  | .creditGrant a b _ => (.control, s.corePos b, s.corePos a, 8)
  | .creditRet a b _ => (.control, s.corePos a, s.corePos b, 8)
  | .message a b _ => (.control, s.corePos a, s.corePos b, 64)
  | .barArrive _ c _ _ => (.control, s.corePos c, ctl, 8)
  | .barDone c _ => (.control, ctl, s.corePos c, 8)
  | .hqPut _ c _ _ _ _ => (.control, s.corePos c, ctl, 8)
  | .hqPutRep c _ _ => (.control, ctl, s.corePos c, 8)
  | .hqGet _ c _ _ => (.control, s.corePos c, ctl, 8)
  | .hqGetRep c _ _ _ => (.control, ctl, s.corePos c, 8)
  | .hqSpace c _ => (.control, ctl, s.corePos c, 8)
  | .chain a c x => (.request, s.corePos a, s.corePos c, x.data.length)
  | .walk f _ w => (.request, s.enginePos w.eng, fab f, 8)
  | .fill e line _ _ _ => (.response, fab line, s.enginePos e, 64)
  | .halt e i _ => (.response, fab (i / 16), s.enginePos e, 8)
  | .retry e i => (.response, fab (i / 16), s.enginePos e, 8)
  | .faultRec f _ => (.request, fab f, ctl, 64)
  | .release f _ _ _ => (.request, ctl, fab f, 8)

/-- A packet as the routers carry it (R21). A forwarded chain packet is taken from the mesh by its core (R287). -/
def State.flightOf (s : State) (p : Pkt) : Flight :=
  let e := s.pathOf p
  let held := match p with
    | .chain _ _ _ => true
    | _ => false
  Flight.new e.1 e.2.1 e.2.2.1 e.2.2.2 held true

/-- A packet injected into the mesh. -/
def State.send (s : State) (p : Pkt) : State :=
  { s with mesh := s.mesh ++ [p], noc := { s.noc with flights := s.noc.flights ++ [s.flightOf p] } }

def State.sendAll (s : State) (ps : List Pkt) : State :=
  { s with mesh := s.mesh ++ ps, noc := { s.noc with flights := s.noc.flights ++ ps.map s.flightOf } }

/-- The k-th packet in flight can reach its stop now: its unit may take it. -/
def State.arrives (s : State) (k : Nat) : Bool := (s.noc.deliver k).ready k

/-- The first packet in flight that a predicate admits, taken from the mesh at its stop: the routers run until it is ejected; packets
of one class between two stops are taken in injection order (R26). (DESIGN CHOICE, log 72) -/
def State.eject (s : State) (p : Pkt → Bool) : Option (Pkt × State) :=
  match s.mesh.findIdx? p with
  | none => none
  | some k =>
    if s.arrives k then
      s.mesh[k]?.map (fun x => (x, { s with mesh := dropAt s.mesh k, noc := (s.noc.deliver k).drop k }))
    else none

/-- The packets a predicate admits vanish (R247, R451). -/
def State.dropPkts (s : State) (p : Pkt → Bool) : State :=
  let ks := (List.range s.mesh.length).filter (fun k => (s.mesh[k]?).any p)
  { s with mesh := s.mesh.filter (fun x => !p x), noc := ks.reverse.foldl Routers.drop s.noc }

/-- A packet that no command takes is carried to its stop: a request, read data or an acknowledgement (R24).
(DESIGN CHOICE, log 72) -/
def State.carry (s : State) (cls : PktClass) (src dst : Nat × Nat) (bytes : Nat) : State :=
  if src = dst then s else { s with noc := s.noc.carry (Flight.new cls src dst bytes false false) }

/-- The next free value's number, and the state that has used it, for the values the spec leaves open.
(DESIGN CHOICE, log 11) -/
def State.takeFree (s : State) : Nat × State := (s.free, { s with free := s.free + 1 })

/-- A partition is in reset (R451). -/
def State.inReset (s : State) (p : Nat) : Bool := s.flt.resets.any (fun r => r.part = p)

/-- A partition is in scrub (R482). -/
def State.inScrub (s : State) (p : Nat) : Bool := s.lds.scrubs.contains p

/-- No work of a partition starts: it is in reset or in scrub (R452, R482). -/
def State.barred (s : State) (p : Nat) : Bool := s.inReset p || s.inScrub p

/-- The watch partition: the one named now, or since entry the one that entered (R406). -/
def Grid.watchPart (g : Grid) : Nat := if g.watch = .normal then g.watchSel else g.watchIn

/-- Start-up is over (R505). -/
def State.ready (s : State) : Bool := s.alm.st = .ready || s.alm.st = .activating

/-! ## Jobs and their cores -/

/-- A core takes part in a job. -/
def Job.has (j : Job) (c : Nat) : Bool := (leAt j.desc 4 4).testBit c

/-- The job's cores in increasing logical number. -/
def Job.coreList (j : Job) : List Nat := (List.range 32).filter j.has

def Job.flags (j : Job) : Nat := leAt j.desc 2 2
def Job.pin (j : Job) : Bool := j.flags.testBit 1
def Job.critical (j : Job) : Bool := j.flags.testBit 2
def Job.hqMask (j : Job) : Nat := leAt j.desc 0x10 8
def Job.deadline (j : Job) : Nat := leAt j.desc 0x24 4
def Job.seed (j : Job) : Nat := leAt j.desc 0x20 4
def Job.chainJob (j : Job) : Nat := leAt j.desc 0x28 2

/-- The job that holds a core, or for which the core's image is loading: not one whose descriptor is still being checked. -/
def State.jobOf (s : State) (c : Nat) : Option Job :=
  s.grid.jobs.find? (fun j => j.has c && j.phase ≠ .table && j.phase ≠ .headers)

/-- The partition whose job a core works for. -/
def State.partOf (s : State) (c : Nat) : Nat :=
  match s.jobOf c with
  | some j => j.part
  | none => 0

/-- A core belongs to the same job as core c. -/
def State.sameJob (s : State) (c d : Nat) : Bool :=
  match s.jobOf c with
  | some j => d < 32 && j.has d
  | none => false

def State.modJob (s : State) (p r : Nat) (f : Job → Job) : State :=
  s.modGrid (fun g => { g with jobs := g.jobs.map (fun j => if j.part = p ∧ j.ring = r then f j else j) })

/-- A core's job changed. -/
def State.modJobOf (s : State) (c : Nat) (f : Job → Job) : State :=
  match s.jobOf c with
  | some j => s.modGrid (fun g => { g with jobs := g.jobs.map (fun k => if k = j then f j else k) })
  | none => s

/-! ## Stops (R52): the first one sets the status of the job and ends the issue of its other cores -/

/-- A core's stop reaches its job. -/
def State.jobStopped (s : State) (c status : Nat) : State :=
  match s.jobOf c with
  | none => s
  | some j =>
    let s := if j.status = 0 then s.modJobOf c (fun j => { j with status := status, stopCore := some c }) else s
    (j.coreList.filter (fun d => d ≠ c)).foldl
      (fun s d => s.modCore d (fun k => { k with seq := { k.seq with halted := true } })) s

/-- A step of one core: its effect on the core, and the stop it may have made carried to the core's job. -/
def State.onCore (s : State) (c : Nat) (f : Core → Core) : State :=
  let before := (s.core c).seq.stop
  let s := s.modCore c f
  match before, (s.core c).seq.stop with
  | none, some st => s.jobStopped c st
  | _, _ => s

/-! ## Shares (R392) -/

/-- Balances before a grant: every partition's share is added, up to 16,384. -/
def regAdd (bal : List Int) (share : List Nat) : List Int :=
  (bal.zip share).map (fun e => min (e.1 + e.2) 16384)

/-- Of the requesting partitions, those that may win: the saturated ones, else those not in debt, else all. -/
def regEligible (bal : List Int) (req : List Nat) : List Nat :=
  let sat := req.filter (fun p => bal.getD p 0 = 16384)
  if !sat.isEmpty then sat
  else
    let pos := req.filter (fun p => 0 ≤ bal.getD p 0)
    if !pos.isEmpty then pos else req

/-- The winner pays. -/
def regPay (bal : List Int) (p : Nat) : List Int := modAt bal p (fun b => max (b - 1024) (-16384))

/-- Active shares of one resource: 0 fabric, 1 Intake, 2 link, 3 shared store. -/
def State.shares (s : State) (res : Nat) : List Nat := s.parts.toList.map (fun p => p.share.getD res 0)

/-- Report windows that the tick has left behind are latched before anything of a later one is counted: window k closes with tick
100000(k + 1), the first beyond it (R404, R405). (DESIGN CHOICE, log 77) -/
def State.reportTurn (s : State) : State :=
  let k := s.tick / 100000
  if k ≤ s.grid.windows then s
  else
    let one := k = s.grid.windows + 1
    let slow := s.parts.toList.any (fun p => 1024 < p.slowNow.1)
    let s := { s with parts := s.parts.map (fun (p : Part) =>
      { p with
        slow := if one then p.slowNow else (0, 0), slowNow := (0, 0)
        wait := if one then p.waitNow else [0, 0, 0, 0], waitNow := [0, 0, 0, 0]
        reportSeq := sat32 p.reportSeq (k - s.grid.windows) }) }
    s.modGrid (fun g => { g with windows := k, reportDue := g.reportDue || (g.reportMsg && slow) })

/-- Partitions that requested and lost count a wait (R405). -/
def State.countWaits (s : State) (res winner : Nat) (req : List Nat) : State :=
  (req.filter (fun p => p ≠ winner)).foldl
    (fun s p => s.modPart p (fun q => { q with waitNow := modAt q.waitNow res (· + 1) })) s.reportTurn

/-! ## Fabric and near-memory accesses -/

/-- A fabric address lies in the Chart region. -/
def State.inChart (s : State) (a : Nat) : Bool :=
  !s.cht.chartNear && s.cht.region ≤ a && a < s.cht.region + 4 * 2 ^ s.cfg.chartLog

/-- The fabric stop of an address (R523). -/
def State.fabStop (s : State) (a : Nat) : Nat := if s.inChart a then a / 64 % 2 else a / 1024 % 2

/-- The channel of an access (R523, R527): reads 0 to 7, writes 8 to 11, near reads 12, near writes 13. -/
def State.fabChan (s : State) (write near : Bool) (a : Nat) : Nat :=
  if near then (if write then 13 else 12)
  else if write then
    let w := s.cfg.wrCh / 2
    8 + (if w = 0 then 0 else s.fabStop a * w + a / 2048 % w)
  else
    let r := s.cfg.rdCh / 2
    s.fabStop a * r + a / 2048 % r

/-- Two accesses touch a common 64 B line. -/
def FabAcc.meets (a b : FabAcc) : Bool :=
  a.near == b.near && a.addr / 64 ≤ (b.addr + b.len - 1) / 64 && b.addr / 64 ≤ (a.addr + a.len - 1) / 64

/-- The stop has issued a write that is not acknowledged yet, also one whose retry is due. -/
def FabAcc.open_ (a : FabAcc) : Bool := a.write && !a.done && (a.tag.isSome || a.again.isSome || a.retried)

/-- A stop holds an access back at its acceptance (R237): a write it has issued to one of its lines is unacknowledged, or an earlier
access to one of its lines is held. -/
def holdsBack (l : List FabAcc) (i : FabAcc) : Bool :=
  l.any (fun e => e.meets i && (e.open_ || (e.held && !e.done && e.tag.isNone)))

/-- The stop may issue an access (R237): no other write it has issued to one of its lines is unacknowledged, and, where the access has
been held, no access to one of its lines that it accepted earlier is still held. -/
def mayIssue (l : List FabAcc) (i : FabAcc) : Bool :=
  l.all (fun e => !(e.no ≠ i.no && e.meets i && e.open_)) &&
  (!i.held || (l.takeWhile (fun e => e.no ≠ i.no)).all (fun e => !(e.meets i && e.held && !e.done && e.tag.isNone)))

/-- The lowest tag no access holds on a channel (R521). -/
def freeTag (l : List FabAcc) (ch : Nat) : Option Nat :=
  let used := (l.filter (fun e => e.chan = ch)).filterMap FabAcc.tag
  (List.range (if ch < 12 then 128 else 64)).find? (fun t => !used.contains t)

/-- Rank of a request under R288: signed distance to its deadline; none ranks last. -/
def dlRank (tick : Nat) (d : Option Word) : Int :=
  match d with
  | some w => (w - BitVec.ofNat 32 tick).toInt
  | none => 2 ^ 40

/-- The better of two requests under R288: earlier deadline, then the source stop from the pointer on. -/
def dlFirst (tick ptr : Nat) (a b : FabAcc) : FabAcc :=
  let ra := dlRank tick a.deadline
  let rb := dlRank tick b.deadline
  let ka := (a.src + 64 - ptr) % 64
  let kb := (b.src + 64 - ptr) % 64
  if rb < ra ∨ (rb = ra ∧ kb < ka) then b else a

/-- The memory class's ceiling is in force: a channel grants in at most `memCeil` of 16 F-cycles (R421). -/
def State.ceiled (s : State) : Bool := s.pwr.memCeil < 16

/-- A ceiling in force leaves the channel no grant in the current 16 F-cycles. (DEDUCED, log 40) -/
def State.ceilingReached (s : State) (ch : Nat) : Bool := s.ceiled && s.pwr.memCeil ≤ s.fab.granted.getD ch 0

/-- One grant of a channel (R288, R392): the winner gets its tag. An access made for no partition is eligible beside
any; no write of a partition in scrub is issued (R482). -/
def State.grant (s : State) (ch : Nat) : Option State :=
  let cands := s.fab.accs.filter (fun e =>
    e.chan = ch && e.tag.isNone && !e.done && e.again.isNone && mayIssue s.fab.accs e && !(e.write && e.part.any s.inScrub))
  if s.ceilingReached ch then none else
  match cands, freeTag s.fab.accs ch with
  | [], _ => none
  | _, none => none
  | c0 :: _, some t =>
    let unit := s.fab.chans.getD ch Reg_.reset
    let req := (cands.filterMap FabAcc.part).eraseDups
    let bal := regAdd unit.bal (s.shares 0)
    let elig := regEligible bal req
    let best := (cands.filter (fun e => e.part.all elig.contains))
    let w := (best.drop 1).foldl (dlFirst s.tick unit.ptr) (best.headD c0)
    let bal := match w.part with
      | some p => regPay bal p
      | none => bal
    let s := { s with fab := { s.fab with
      chans := setAt s.fab.chans ch ⟨bal, (w.src + 1) % 64⟩
      granted := if s.ceiled then modAt s.fab.granted ch (fun n => n + 1) else s.fab.granted
      accs := s.fab.accs.map (fun e =>
        if e.no = w.no then { e with tag := some t }
        else if w.write && e.tag.isNone && !e.done && e.meets w then { e with held := true } else e) } }
    some (match w.part with
      | some p => s.countWaits 0 p req
      | none => s)

/-- Grants of every channel while one can be made; at most `n` of each. -/
def State.pumpCh (s : State) (ch : Nat) : Nat → State
  | 0 => s
  | n + 1 =>
    match s.grant ch with
    | none => s
    | some s => State.pumpCh s ch n

/-- Accesses of the ports are issued; none before the block is ready (R505). (DEDUCED, log 30) -/
def State.pump (s : State) : State :=
  if !s.ready then s else (List.range 14).foldl (fun s ch => s.pumpCh ch s.fab.accs.length) s

/-- Every 16 F-cycles the channels under a ceiling may grant anew (R421). (DEDUCED, log 40) -/
def State.ceilingTurn (s : State) : State :=
  if s.clk.fcyc % 16 ≠ 0 || s.fab.granted.all (fun n => n = 0) then s
  else State.pump { s with fab := { s.fab with granted := List.replicate 14 0 } }

/-- The stop an access comes from: a core's, a walker's, the link stop for a remote requester's, else the control stop. -/
def State.accFrom (s : State) (owner : FabOwner) (src : Nat) : Nat × Nat :=
  match owner with
  | .inbound _ _ => s.cfg.posOf .link
  | _ => if src < 32 then s.corePos src else if src < 34 then s.cfg.posOf (.fab (src - 32)) else s.controlPos

/-- The stop that makes an access: the memory stop, or the fabric stop of its address (R237). -/
def State.accStop (s : State) (near : Bool) (addr : Nat) : Nat × Nat :=
  s.cfg.posOf (if near then .memory else .fab (s.fabStop addr))

/-- An access reaches its stop, which accepts it: a read of `len` bytes, or a write of bytes. There is no memory stop without a
near-memory port (R4). -/
def State.access (s : State) (owner : FabOwner) (write near coh : Bool) (addr len : Nat) (data : List Byte)
    (part : Option Nat) (deadline : Option Word) (src : Nat) : State :=
  let near := near && s.cfg.nearPort
  let s := s.carry .request (s.accFrom owner src) (s.accStop near addr) data.length
  let a : FabAcc :=
    { no := s.fab.next, owner, write, near, coh, addr, len, data, part, deadline, src,
      chan := s.fabChan write near addr, tag := none, got := [], done := false, again := none, retried := false, held := false }
  let a := { a with held := holdsBack s.fab.accs a }
  (({ s with fab := { s.fab with accs := s.fab.accs ++ [a], next := s.fab.next + 1 } } : State)).pump

/-- Accesses that never cross a 1 KiB boundary: the pieces of [addr, addr + len). -/
def kibPieces : Nat → Nat → Nat → List (Nat × Nat)
  | 0, _, _ => []
  | _, _, 0 => []
  | n + 1, a, len =>
    let k := min len (1024 - a % 1024)
    (a, k) :: kibPieces n (a + k) (len - k)

/-- A posted write in pieces of at most 1 KiB (R521). -/
def State.postWrite (s : State) (owner : FabOwner) (addr : Nat) (data : List Byte) (part : Option Nat) : State :=
  (kibPieces (data.length / 512 + 2) addr data.length).foldl
    (fun s e => s.access owner true false false e.1 e.2 (slice data (e.1 - addr) e.2) part none 40) s

/-- A read in pieces of at most 1 KiB. -/
def State.postRead (s : State) (owner : FabOwner) (coh : Bool) (addr len : Nat) (part : Option Nat) : State :=
  (kibPieces (len / 512 + 2) addr len).foldl
    (fun s e => s.access owner false false coh e.1 e.2 [] part none 40) s

/-- Accesses of an owner. -/
def State.accsOf (s : State) (o : FabOwner) : List FabAcc := s.fab.accs.filter (fun a => a.owner = o)

/-- Every access of an owner has returned or been acknowledged, and there is one. -/
def State.accsDone (s : State) (o : FabOwner) : Bool :=
  !(s.accsOf o).isEmpty && (s.accsOf o).all FabAcc.done

/-- The bytes an owner's reads brought, in order. -/
def State.accsData (s : State) (o : FabOwner) : List Byte := (s.accsOf o).flatMap FabAcc.got

/-- An owner takes its accesses. -/
def State.dropAccs (s : State) (o : FabOwner) : State :=
  { s with fab := { s.fab with accs := s.fab.accs.filter (fun a => a.owner ≠ o) } }

/-- Every access of an owner, local or remote, has returned or been acknowledged. -/
def State.ownerDone (s : State) (o : FabOwner) : Bool :=
  s.fab.accs.all (fun a => !(a.owner = o && !a.done)) && s.fab.rem.all (fun a => !(a.owner = o && !a.done))

/-- An owner has no access. -/
def State.ownerIdle (s : State) (o : FabOwner) : Bool :=
  s.fab.accs.all (fun a => a.owner ≠ o) && s.fab.rem.all (fun a => a.owner ≠ o)

/-- The bytes an owner's reads brought, and its accesses taken. -/
def State.ownerTake (s : State) (o : FabOwner) : List Byte × State :=
  let bs := s.accsData o ++ (s.fab.rem.filter (fun a => a.owner = o)).flatMap RemAcc.got
  let s := s.dropAccs o
  (bs, { s with fab := { s.fab with rem := s.fab.rem.filter (fun a => a.owner ≠ o) } })

/-- Every access to an owner has been acknowledged and taken. -/
def State.noAccs (s : State) (p : FabOwner → Bool) : Bool := s.fab.accs.all (fun a => !p a.owner)

/-- Reads whose data nobody takes any more: those a channel has not issued leave, the others wait for their response
(R451). -/
def State.voidReads (s : State) (p : FabOwner → Bool) : State :=
  { s with fab := { s.fab with
    accs := (s.fab.accs.filter (fun a => !(!a.write && p a.owner && (a.tag.isNone || a.done)))).map (fun a =>
      if !a.write && p a.owner then { a with owner := .void } else a)
    rem := (s.fab.rem.filter (fun a => !(!a.write && p a.owner && (!a.sent || a.done)))).map (fun a =>
      if !a.write && p a.owner then { a with owner := .void } else a) } }

/-- A cell to another node waits for a frame slot (R490, R497). -/
def State.sendCell (s : State) (dst part : Nat) (c : Cell) : State :=
  { s with lnk := { s.lnk with queue := s.lnk.queue ++
    [⟨4, 2, dst, fld 7 0 s.lnk.node.toNat, part, 0, 0, .cells [c], part, none, linkStop⟩] } }

/-- A frame of this instance that a scrub keeps from being sent: all of the partition's but the answer to a refused access (R482). -/
def State.frameHeld (s : State) (f : Frame_) : Bool :=
  s.inScrub f.own && (match f.load with
    | .cells [.error _] => false
    | _ => true)

/-- A remote access of a partition that has a frame still to be sent. -/
def State.unsentAcc (s : State) (p : Nat) (a : RemAcc) : Bool :=
  a.part = p && (!a.sent || s.lnk.queue.any (fun f => f.own = p && (f.kind = 1 || f.kind = 2) && f.tag = a.id % 65536))

/-- This instance's node number. -/
def State.node (s : State) : Nat := fld 7 0 s.lnk.node.toNat

/-- The other members of a multi-instance job (R499). -/
def State.otherNodes (s : State) (m : Nat × Nat) : List Nat :=
  ((List.range m.2).map (fun i => (m.1 + i) % 256)).filter (fun n => n ≠ s.node)

/-! ## The shared store (R389) -/

/-- Bytes of the shared store a partition holds; none in watch mode (R407). -/
def State.ssCapacity (s : State) (p : Nat) : Nat :=
  if s.grid.watch = .watch then 0 else s.cfg.slices * (s.part p).ssUnits * 65536

/-- Where a partition's offset lies in the store: slice × 2 MiB + local byte. -/
def State.ssPlace (s : State) (p o : Nat) : Nat :=
  let n := s.cfg.slices
  (o / 1024 % n) * 2 ^ 21 + (s.part p).ssBase * 65536 + o / 1024 / n * 1024 + o % 1024

end Sys2Proof.Machine
end

