-- ==== Sys2Proof/Machine/HostAccess.lean ====
section
/-! DEFINITION. Which host accesses are admitted (R326, R327, R331, R476), and the message vectors (R354, R355). -/

namespace Sys2Proof.Machine

/-- A unit's event sets W1C bits of a register in the present F-cycle: a write of 1 in that cycle leaves them set (R14). -/
def State.mark (s : State) (page off bits : Nat) : State := { s with fresh := s.fresh ++ [(page, off, bits)] }

/-- A written value without the bits that such events hold. -/
def State.unhit (s : State) (page off v : Nat) : Nat :=
  s.fresh.foldl (fun v e => if e.1 = page ∧ e.2.1 = off then v ^^^ (v &&& e.2.2) else v) v

/-- The first valid entry whose masked bits equal the identifier's (R476). -/
def accEntry (acc : List Word) (mid : Nat) : Option Word :=
  acc.find? (fun e =>
    e.getLsbD 31 && (mid ^^^ fld 7 0 e.toNat) &&& fld 15 8 e.toNat = 0)

/-- The full aperture is admitted for a master. -/
def State.admitsFull (s : State) (mid : BitVec 8) : Bool :=
  match accEntry s.lds.acc mid.toNat with
  | some e => e.getLsbD 24
  | none => false

/-- Partition p's aperture is admitted for a master; it exists below the partition count. -/
def State.admitsPart (s : State) (mid : BitVec 8) (p : Nat) : Bool :=
  p < s.cfg.parts &&
    (match accEntry s.lds.acc mid.toNat with
     | some e => e.getLsbD (16 + p)
     | none => false)

/-- Drops counted in a partition's HST_DROP_CNT (R331, R342). (DEDUCED, log 21) -/
def State.dropWin (s : State) (p : Nat) : State :=
  s.modPart p (fun q => { q with winDrops := min 65535 (q.winDrops + 1) })
def State.dropBell (s : State) (p : Nat) : State :=
  s.modPart p (fun q => { q with bellDrops := min 65535 (q.bellDrops + 1) })

/-- The port takes writes: not while power goes (R533), nor beyond 16 waiting ones (R525). The stop of the clocks (R520) lies within
the events that enter and leave watch mode (log 19). -/
def State.portOpen (s : State) : Bool := !s.pw.preparing && !s.pw.ack && s.grid.wins.length < 16

/-- The port takes writes to register pages: it is open and the block is ready (R505). (DESIGN CHOICE, log 19) -/
def State.pagesOpen (s : State) : Bool := s.portOpen && s.ready

/-- A 4 B write to a register of the full aperture (R477, R538). -/
def State.fullWrite (s : State) (a : HostAcc) (f : State → Nat → State) : State :=
  if s.pagesOpen && a.full && s.admitsFull a.mid && a.size = 2#2 then f s (a.data.toNat % 2 ^ 32) else s

/-- A 4 B write to a register of the ALM page, served in every state (R505). -/
def State.almWrite (s : State) (a : HostAcc) (f : State → Nat → State) : State :=
  if s.portOpen && a.full && s.admitsFull a.mid && a.size = 2#2 then f s (a.data.toNat % 2 ^ 32) else s

/-- A 4 B write to a partition's page of the full aperture; a refused one counts. -/
def State.partWrite (s : State) (p : Nat) (a : HostAcc) (f : State → Nat → State) : State :=
  if s.cfg.parts ≤ p || !s.pagesOpen then s
  else if !(a.full && s.admitsFull a.mid) then s.dropWin p
  else if a.size = 2#2 then f s (a.data.toNat % 2 ^ 32)
  else s

/-- A master may reach partition p's control page, through its aperture or through the full one (R357). -/
def State.ctlAdmits (s : State) (p : Nat) (a : HostAcc) : Bool :=
  p < s.cfg.parts && (if a.full then s.admitsFull a.mid else s.admitsPart a.mid p)

/-- A 4 B write to a register of a partition's control page. -/
def State.ctlWrite (s : State) (p : Nat) (a : HostAcc) (f : State → Nat → State) : State :=
  if s.cfg.parts ≤ p || !s.pagesOpen then s
  else if !s.ctlAdmits p a then s.dropWin p
  else if a.size = 2#2 then f s (a.data.toNat % 2 ^ 32)
  else s

/-! ## Message vectors -/

/-- An event on a vector: a 4 B posted write, or deferred while one is outstanding; nothing while disabled. -/
def Msi.event (m : Msi) : Msi × Bool :=
  if !m.enable then (m, false)
  else if m.outstanding then ({ m with deferred := true }, false)
  else ({ m with outstanding := true }, true)

/-- The message's address and data. -/
def Msi.target (m : Msi) : Nat := fld 31 2 m.addrLo.toNat * 4 + m.addrHi.toNat * 2 ^ 32

/-- An event on vector v of partition p; none is sent during a scrub (R482). -/
def State.msi (s : State) (p v : Nat) : State :=
  let r := ((s.part p).msi.getD v Msi.reset).event
  if s.inScrub p then s
  else
  let s := s.modPart p (fun q => { q with msi := setAt q.msi v r.1 })
  if r.2 then s.access (.message p v) true false false r.1.target 4 (toLe 4 r.1.data.toNat) (some p) none 40 else s

/-- An event on the block's own vector; its message counts as vector 0 of partition 8. -/
def State.gmsi (s : State) : State :=
  let r := s.grid.gmsi.event
  let s := s.modGrid (fun g => { g with gmsi := r.1 })
  if r.2 then s.access (.message 8 0) true false false r.1.target 4 (toLe 4 r.1.data.toNat) none none 40 else s

/-- An event on the vector of Intake session p (R384); its message counts as vector 4. -/
def State.sessMsi (s : State) (p : Nat) : State :=
  let r := (s.itk.sess.getD p Session.reset).msi.event
  let s := { s with itk := { s.itk with sess := modAt s.itk.sess p (fun x => { x with msi := r.1 }) } }
  if r.2 then s.access (.message p 4) true false false r.1.target 4 (toLe 4 r.1.data.toNat) (some p) none 40 else s

/-- INTERRUPT_MESSAGE_ACK: the outstanding message is acknowledged; a deferred event sends one more (R355). -/
def State.msiAck (s : State) (v : MsgVec) : State :=
  match v with
  | .part p i =>
    let own := FabOwner.message p i
    if s.accsDone own then
      let m := (s.part p).msi.getD i Msi.reset
      let s := (s.dropAccs own).modPart p (fun q => { q with
        msi := setAt q.msi i { m with outstanding := false, deferred := false } })
      if m.deferred then s.msi p i else s
    else s
  | .session p =>
    let own := FabOwner.message p 4
    if s.accsDone own then
      let m := (s.itk.sess.getD p Session.reset).msi
      let set := fun (s : State) (m : Msi) => { s with itk := { s.itk with
        sess := modAt s.itk.sess p (fun x => { x with msi := m }) } }
      let s := set (s.dropAccs own) { m with outstanding := false, deferred := false }
      if m.deferred then s.sessMsi p else s
    else s
  | .block =>
    let own := FabOwner.message 8 0
    if s.accsDone own then
      let m := s.grid.gmsi
      let s := (s.dropAccs own).modGrid (fun g => { g with gmsi := { m with outstanding := false, deferred := false } })
      if m.deferred then s.gmsi else s
    else s

end Sys2Proof.Machine
end

