-- ==== Sys2Proof/Machine/Crypto.lean ====
section
/-! DEFINITION. The algorithms the Lodestar and the inline authentication paths use, by the standards the spec names
(R227, R462 to R472, R478, R479): SHA-384, HMAC and HKDF over it, AES-256 with GCM and key unwrap, and the group of
P-384. -/

namespace Sys2Proof.Machine

/-! ## SHA-384 (FIPS 180-4): 64-bit words as numbers below 2^64 -/

/-- The largest number whose `k`th power does not pass `x`, from the powers of two below 2^n down. -/
def rootFloor (k x : Nat) : Nat → Nat → Nat
  | 0, r => r
  | n + 1, r => rootFloor k x n (if (r + 2 ^ n) ^ k ≤ x then r + 2 ^ n else r)

/-- The first 64 bits of the fractional part of the `k`th root. -/
def rootFraction (k p : Nat) : Nat := rootFloor k (p * 2 ^ (64 * k)) 70 0 % 2 ^ 64

/-- The primes among the `n` numbers from `p` up. -/
def primesFrom : Nat → Nat → List Nat
  | 0, _ => []
  | fuel + 1, p =>
    if (List.range p).all (fun d => d < 2 || p % d ≠ 0) then p :: primesFrom fuel (p + 1) else primesFrom fuel (p + 1)

/-- The 80 primes up to 409. -/
def shaPrimes : List Nat := primesFrom 408 2

/-- The round constants: cube roots of the first 80 primes. -/
def shaConst : List Nat := shaPrimes.map (rootFraction 3)

/-- The initial hash value of SHA-384: square roots of the ninth to the sixteenth prime. -/
def shaStart : List Nat := ((shaPrimes.drop 8).take 8).map (rootFraction 2)

/-- A 64-bit word turned right. -/
def rot64 (x n : Nat) : Nat := x >>> n ||| (x <<< (64 - n)) % 2 ^ 64

/-- Exclusive or of a word turned by each of some amounts, and of `y`. -/
def mix64 (x : Nat) (turns : List Nat) (y : Nat) : Nat := turns.foldl (fun a n => a ^^^ rot64 x n) y

/-- The message schedule carried on by n words: `past` holds the words so far, latest first. -/
def shaSchedule : Nat → List Nat → List Nat
  | 0, past => past.reverse
  | n + 1, past =>
    let two := past.getD 1 0
    let fifteen := past.getD 14 0
    shaSchedule n ((past.getD 15 0 + past.getD 6 0 + mix64 fifteen [1, 8] (fifteen >>> 7)
      + mix64 two [19, 61] (two >>> 6)) % 2 ^ 64 :: past)

/-- One round: the eight variables move down by one place; the first and the fifth take a new value. -/
def shaTurn (v : List Nat) (kw : Nat × Nat) : List Nat :=
  let at_ := fun (i : Nat) => v.getD i 0
  let choose := (at_ 4 &&& at_ 5) ^^^ ((2 ^ 64 - 1 - at_ 4) &&& at_ 6)
  let most := (at_ 0 &&& (at_ 1 ||| at_ 2)) ||| (at_ 1 &&& at_ 2)
  let carry := at_ 7 + kw.1 + kw.2 + choose + mix64 (at_ 4) [14, 18, 41] 0
  let moved := (0 :: v).take 8
  setAt (setAt moved 4 ((at_ 3 + carry) % 2 ^ 64)) 0 ((carry + most + mix64 (at_ 0) [28, 34, 39] 0) % 2 ^ 64)

/-- The hash value after one more block of 128 bytes. -/
def shaAbsorb (h : List Nat) (blk : List Byte) : List Nat :=
  let sched := shaSchedule 64 (((List.range 16).map (fun i => ofBe (slice blk (8 * i) 8))).reverse)
  let v := (shaConst.zip sched).foldl shaTurn h
  (List.range 8).map (fun i => (h.getD i 0 + v.getD i 0) % 2 ^ 64)

/-- SHA-384 of a byte string: the message, a 1 bit, zeros up to a whole block and the length in bits. -/
def sha384 (m : List Byte) : List Byte :=
  let blocks := (m.length + 17 + 127) / 128
  let tail := 0x80#8 :: toBe (128 * blocks - m.length - 1) (8 * m.length)
  let h := (List.range blocks).foldl (fun h i => shaAbsorb h (slice (m ++ tail) (128 * i) 128)) shaStart
  (h.flatMap (toBe 8)).take 48

/-- HMAC with SHA-384. -/
def hmac384 (key m : List Byte) : List Byte :=
  let k := if 128 < key.length then sha384 key else key
  let k := k ++ List.replicate (128 - k.length) 0#8
  sha384 (k.map (· ^^^ 0x5c#8) ++ sha384 (k.map (· ^^^ 0x36#8) ++ m))

/-- The output blocks of HKDF's expansion. -/
def hkdfBlocks (prk info : List Byte) : Nat → Nat → List Byte → List Byte
  | 0, _, _ => []
  | n + 1, i, last =>
    let t := hmac384 prk (last ++ info ++ [BitVec.ofNat 8 i])
    t ++ hkdfBlocks prk info n (i + 1) t

/-- HKDF with SHA-384: `len` bytes. -/
def hkdf384 (salt ikm info : List Byte) (len : Nat) : List Byte :=
  (hkdfBlocks (hmac384 salt ikm) info (cdiv len 48) 1 []).take len

/-! ## AES-256 (FIPS 197) -/

/-- Product in GF(2^8). -/
def gfMul8 (a b : Nat) : Nat :=
  let p := (List.range 8).foldl (fun r i => if b.testBit i then r ^^^ (a <<< i) else r) 0
  [6, 5, 4, 3, 2, 1, 0].foldl (fun r i => if r.testBit (8 + i) then r ^^^ (0x11b <<< i) else r) p

/-- The inverse in GF(2^8): the 254th power, 0 for 0. -/
def gfInv8 (a : Nat) : Nat :=
  let a2 := gfMul8 a a
  let a4 := gfMul8 a2 a2
  let a8 := gfMul8 a4 a4
  let a16 := gfMul8 a8 a8
  let a32 := gfMul8 a16 a16
  let a64 := gfMul8 a32 a32
  let a128 := gfMul8 a64 a64
  gfMul8 a128 (gfMul8 a64 (gfMul8 a32 (gfMul8 a16 (gfMul8 a8 (gfMul8 a4 a2)))))

/-- The S-box. -/
def aesSub (a : Nat) : Nat :=
  let x := BitVec.ofNat 8 (gfInv8 a)
  (x ^^^ x.rotateLeft 1 ^^^ x.rotateLeft 2 ^^^ x.rotateLeft 3 ^^^ x.rotateLeft 4 ^^^ 0x63#8).toNat

/-- The inverse S-box. -/
def aesUnsub (y : Nat) : Nat :=
  let b := BitVec.ofNat 8 y
  gfInv8 (b.rotateLeft 1 ^^^ b.rotateLeft 3 ^^^ b.rotateLeft 6 ^^^ 0x05#8).toNat

def xorN (a b : List Nat) : List Nat := (a.zip b).map (fun e => e.1 ^^^ e.2)

/-- The key schedule: 52 more words of 4 bytes after the key's 8, the list held latest first. -/
def aesExpand : Nat → Nat → Nat → List (List Nat) → List (List Nat)
  | 0, _, _, ws => ws
  | n + 1, i, rc, ws =>
    let t := ws.headD []
    let t' :=
      if i % 8 = 0 then xorN ((t.drop 1 ++ t.take 1).map aesSub) [rc, 0, 0, 0]
      else if i % 8 = 4 then t.map aesSub
      else t
    aesExpand n (i + 1) (if i % 8 = 0 then gfMul8 rc 2 else rc) (xorN (ws.getD 7 []) t' :: ws)

/-- The 15 round keys of 16 bytes. -/
def aesKeys (key : List Byte) : List (List Nat) :=
  let w := (chunks 4 8 (key.map BitVec.toNat)).reverse
  let ws := (aesExpand 52 8 1 w).reverse
  (chunks 4 15 ws).map List.flatten

def aesShift (s : List Nat) : List Nat := (List.range 16).map (fun i => s.getD ((i + 4 * (i % 4)) % 16) 0)
def aesUnshift (s : List Nat) : List Nat := (List.range 16).map (fun i => s.getD ((i + 12 * (i % 4)) % 16) 0)

def aesMix (m : List Nat) (s : List Nat) : List Nat :=
  (chunks 4 4 s).flatMap (fun col =>
    (List.range 4).map (fun r =>
      (List.range 4).foldl (fun a k => a ^^^ gfMul8 (m.getD ((k + 4 - r) % 4) 0) (col.getD k 0)) 0))

/-- One block enciphered. -/
def aesEnc (keys : List (List Nat)) (b : List Nat) : List Nat :=
  let s := xorN b (keys.headD [])
  let s := ((keys.drop 1).take 13).foldl (fun s k => xorN (aesMix [2, 3, 1, 1] (aesShift (s.map aesSub))) k) s
  xorN (aesShift (s.map aesSub)) (keys.getD 14 [])

/-- One block deciphered. -/
def aesDec (keys : List (List Nat)) (b : List Nat) : List Nat :=
  let s := (aesUnshift (xorN b (keys.getD 14 []))).map aesUnsub
  let s := ((keys.drop 1).take 13).reverse.foldl
    (fun s k => (aesUnshift (aesMix [14, 11, 13, 9] (xorN s k))).map aesUnsub) s
  xorN s (keys.headD [])

/-! ## GCM (SP 800-38D) -/

/-- Product in GF(2^128) in GCM's bit order, blocks as 128-bit numbers, first bit highest. -/
def ghashMul (x y : Nat) : Nat :=
  ((List.range 128).foldl (fun (zv : Nat × Nat) i =>
    let z := if x.testBit (127 - i) then zv.1 ^^^ zv.2 else zv.1
    let v := if zv.2.testBit 0 then (zv.2 / 2) ^^^ (0xE1 <<< 120) else zv.2 / 2
    (z, v)) (0, y)).1

def pad16 (m : List Byte) : List Byte := m ++ List.replicate ((16 - m.length % 16) % 16) 0#8

def ghash (h : Nat) (m : List Byte) : Nat :=
  (chunks 16 (m.length / 16) m).foldl (fun y b => ghashMul (y ^^^ ofBe b) h) 0

/-- The counter-mode stream applied to a text, counter from `c`. -/
def gctr (keys : List (List Nat)) (iv : List Byte) (c : Nat) (m : List Byte) : List Byte :=
  (List.range (cdiv m.length 16)).flatMap (fun i =>
    let ks := aesEnc keys ((iv ++ toBe 4 (c + i)).map BitVec.toNat)
    (((m.drop (16 * i)).take 16).zip ks).map (fun e => e.1 ^^^ BitVec.ofNat 8 e.2))

/-- The tag over additional data and ciphertext. -/
def gcmTag (keys : List (List Nat)) (iv aad ct : List Byte) : List Byte :=
  let h := ofBe ((aesEnc keys (List.replicate 16 0)).map (BitVec.ofNat 8))
  let s := ghash h (pad16 aad ++ pad16 ct ++ toBe 8 (8 * aad.length) ++ toBe 8 (8 * ct.length))
  gctr keys iv 1 (toBe 16 s)

/-- AES-256-GCM: ciphertext and tag. -/
def gcmEnc (key iv aad pt : List Byte) : List Byte × List Byte :=
  let ks := aesKeys key
  let ct := gctr ks iv 2 pt
  (ct, gcmTag ks iv aad ct)

/-- AES-256-GCM: the plaintext, when the tag holds. -/
def gcmDec (key iv aad ct tag : List Byte) : Option (List Byte) :=
  let ks := aesKeys key
  if gcmTag ks iv aad ct = tag then some (gctr ks iv 2 ct) else none

/-! ## Key unwrap (RFC 3394) -/

/-- One step of the unwrapping, step number t from 6n down to 1, the registers as 8-byte blocks. -/
def kwSteps (keys : List (List Nat)) (n : Nat) : Nat → List Byte → List (List Byte) → List Byte × List (List Byte)
  | 0, a, r => (a, r)
  | t + 1, a, r =>
    let i := t % n
    let at' := toBe 8 (ofBe a ^^^ (t + 1))
    let b := (aesDec keys ((at' ++ r.getD i []).map BitVec.toNat)).map (BitVec.ofNat 8)
    kwSteps keys n t (b.take 8) (setAt r i (b.drop 8))

/-- AES-256 key unwrap: the key, when its integrity value holds. -/
def keyUnwrap (kek wrapped : List Byte) : Option (List Byte) :=
  let n := wrapped.length / 8 - 1
  let r := kwSteps (aesKeys kek) n (6 * n) (wrapped.take 8) (chunks 8 n (wrapped.drop 8))
  if r.1 = List.replicate 8 0xA6#8 then some r.2.flatten else none

/-! ## P-384 (FIPS 186-5, SP 800-186) -/

def p384 : Nat := 2 ^ 384 - 2 ^ 128 - 2 ^ 96 + 2 ^ 32 - 1
def p384n : Nat :=
  0xffffffffffffffffffffffffffffffffffffffffffffffffc7634d81f4372ddf581a0db248b0a77aecec196accc52973
def p384b : Nat :=
  0xb3312fa7e23ee7e4988e056be3f82d19181d9c6efe8141120314088f5013875ac656398d8a2ed19d2a85c8edd3ec2aef
def p384gx : Nat :=
  0xaa87ca22be8b05378eb1c71ef320ad746e1d3b628ba79b9859f741e082542a385502f25dbf55296c3a545e3872760ab7
def p384gy : Nat :=
  0x3617de4a96262c6f5d9e98bf9292dc29f8f41dbd289a147ce9da3113b5f0b8c00a60b1ce1d7e819d7a431d7c90ea0e5f

/-- x^e mod m by squaring, over the low `k` bits of e. -/
def powMod (m x e : Nat) : Nat → Nat
  | 0 => 1 % m
  | k + 1 =>
    let r := powMod m x e k
    let sq := r * r % m
    if e.testBit (383 - k) then sq * x % m else sq

def invMod (m x : Nat) : Nat := powMod m (x % m) (m - 2) 384

/-- A point: none at infinity. -/
abbrev Pt := Option (Nat × Nat)

def ptAdd (a b : Pt) : Pt :=
  match a, b with
  | none, q => q
  | q, none => q
  | some (x1, y1), some (x2, y2) =>
    if x1 = x2 ∧ (y1 + y2) % p384 = 0 then none
    else
      let l :=
        if x1 = x2 ∧ y1 = y2 then (3 * x1 * x1 + (p384 - 3)) * invMod p384 (2 * y1) % p384
        else (y2 + p384 - y1) * invMod p384 (x2 + p384 - x1) % p384
      let x3 := (l * l + 2 * p384 - x1 - x2) % p384
      some (x3, (l * (x1 + p384 - x3) + p384 - y1) % p384)

/-- k times a point, over the low `n` of 384 bits, highest first. -/
def ptMulN (k : Nat) (q : Pt) : Nat → Pt
  | 0 => none
  | n + 1 =>
    let r := ptMulN k q n
    let d := ptAdd r r
    if k.testBit (383 - n) then ptAdd d q else d

def ptMul (k : Nat) (q : Pt) : Pt := ptMulN k q 384

def onCurve (x y : Nat) : Bool :=
  decide (x < p384) && decide (y < p384) && (y * y) % p384 == (x * x * x + (p384 - 3) * x + p384b) % p384

/-- The public key of a private key, x ∥ y, 48 bytes each, big-endian. -/
def pubKey (d : Nat) : List Byte :=
  match ptMul d (some (p384gx, p384gy)) with
  | some (x, y) => toBe 48 x ++ toBe 48 y
  | none => List.replicate 96 0#8

/-- A public key's point, when it lies on the curve. -/
def keyPoint (k : List Byte) : Option (Nat × Nat) :=
  let x := ofBe (k.take 48)
  let y := ofBe (k.drop 48)
  if onCurve x y then some (x, y) else none

/-- ECDH: the shared x coordinate, 48 bytes (R469, R479). -/
def ecdh (d : Nat) (k : List Byte) : Option (List Byte) :=
  match keyPoint k with
  | none => none
  | some q =>
    match ptMul d (some q) with
    | some (x, _) => some (toBe 48 x)
    | none => none

/-- ECDSA with a nonce: r ∥ s (R463). -/
def ecdsaSign (d k : Nat) (digest : List Byte) : List Byte :=
  match ptMul k (some (p384gx, p384gy)) with
  | some (x, _) =>
    let r := x % p384n
    toBe 48 r ++ toBe 48 (invMod p384n k * (ofBe digest + r * d) % p384n)
  | none => List.replicate 96 0#8

/-- An ECDSA signature of a digest verifies under a public key. -/
def ecdsaVerify (k digest sig : List Byte) : Bool :=
  let r := ofBe (sig.take 48)
  let s := ofBe ((sig.drop 48).take 48)
  match keyPoint k with
  | none => false
  | some q =>
    decide (0 < r) && decide (r < p384n) && decide (0 < s) && decide (s < p384n) &&
      (let w := invMod p384n s
       match ptAdd (ptMul (ofBe digest * w % p384n) (some (p384gx, p384gy))) (ptMul (r * w % p384n) (some q)) with
       | some (x, _) => x % p384n == r
       | none => false)

end Sys2Proof.Machine
end

