-- ==== Sys2Proof/Machine/Resolve.lean ====
section
/-! DEFINITION. How an engine address becomes a place: segments, Chart entries, Chart caches (R300 to R309). -/

namespace Sys2Proof.Machine

/-! ## Segments (Table 9.1, R301) -/

def Seg.base (g : Seg) : Nat := fld 31 16 g.baseLo.toNat * 2 ^ 16 + fld 15 0 g.baseHi.toNat * 2 ^ 32
def Seg.pages (g : Seg) : Nat := fld 27 0 g.limit.toNat
def Seg.valid (g : Seg) : Bool := g.attr.getLsbD 0
def Seg.coh (g : Seg) : Bool := g.attr.getLsbD 1
def Seg.nearOk (g : Seg) : Bool := g.attr.getLsbD 2
def Seg.sealed_ (g : Seg) : Bool := g.attr.getLsbD 3
def Seg.remote (g : Seg) : Bool := g.attr.getLsbD 4
def Seg.chartBase (g : Seg) : Nat := fld 31 7 g.attr.toNat

/-- Node, inbound window and byte offset of a remote segment (Table 9.1, R321). -/
def Seg.node (g : Seg) : Nat := fld 7 0 g.baseHi.toNat
def Seg.window (g : Seg) : Nat := fld 11 8 g.baseHi.toNat
def Seg.remoteOff (g : Seg) : Nat := fld 31 16 g.baseLo.toNat * 65536

/-- Segment number and offset of an engine address (R300). -/
def eaSeg (ea : Nat) : Nat := fld 47 44 ea
def eaOff (ea : Nat) : Nat := ea % 2 ^ 44

def segAt (segs : List Seg) (ea : Nat) : Seg := segs.getD (eaSeg ea) Seg.zero

/-- The first failing check of a range of a segment: validity and Chart range (0x0801), then the limit (0x0802).
`lo` and `hi` are the lowest and highest byte's offsets. -/
def segStatus (chartLog : Nat) (g : Seg) (lo hi : Int) : Option Nat :=
  if !g.valid || (!g.remote && 2 ^ chartLog < g.chartBase + g.pages) then some 0x0801
  else if lo < 0 ∨ (g.pages * 65536 : Nat) ≤ hi then some 0x0802
  else none

/-! ## Chart entries (R308, Table 9.3) -/

/-- What an access that finds an entry meets. -/
inductive EntryFate where
  | usable (page : Place)
  | fault (kind : Nat)
  | bad
deriving DecidableEq, Repr

/-- The fate of an access of partition p through segment g at page number `pg` that finds entry e. -/
def State.entryFate (s : State) (p : Nat) (g : Seg) (pg : Nat) (e : Word) : EntryFate :=
  let x := e.toNat
  let st := fld 2 0 x
  let fr := fld 27 8 x
  if fld 30 28 x ≠ p ∨ fld 7 3 x ≠ 0 ∨ e.getLsbD 31 ∨ 5 ≤ st then .bad
  else if st = 0 then .fault 0
  else if st = 3 then .fault 1
  else if st = 2 then
    if s.cht.nearFrames ≤ fr ∨ !g.nearOk then .bad
    else if s.cht.carve then .usable (.sys (s.cht.nearBase + fr * 65536) false)
    else .usable (.near (fr * 65536))
  else .usable (.sys (g.base + pg * 65536) g.coh)

/-- Chart index and Chart line of a page of a segment. -/
def chartIndex (g : Seg) (ea : Nat) : Nat := g.chartBase + eaOff ea / 65536

/-- A lookup in a Chart cache. -/
def cacheLook (cache : List CacheLine) (index : Nat) : Option Word :=
  match cache.find? (fun l => l.line = index / 16) with
  | some l => l.entries[index % 16]?
  | none => none

/-- A line becomes the most recently used; a new one replaces the least recently used of `cap` lines. -/
def cacheFill (cache : List CacheLine) (cap : Nat) (l : CacheLine) : List CacheLine :=
  (l :: cache.filter (fun x => x.line ≠ l.line)).take cap

/-- A line used. -/
def cacheTouch (cache : List CacheLine) (line : Nat) : List CacheLine :=
  match cache.find? (fun x => x.line = line) with
  | some l => cacheFill cache 32 l
  | none => cache

/-- A byte of a page. -/
def Place.plus (p : Place) (o : Nat) : Place :=
  match p with
  | .tile c a => .tile c (a + o)
  | .store a => .store (a + o)
  | .sys a k => .sys (a + o) k
  | .near a => .near (a + o)
  | .remote n w a => .remote n w (a + o)

/-- The page an engine address lies in, for partition p with these segments and this cache: none when a walk is
needed. A remote segment needs no Chart (R321). -/
def State.lookPage (s : State) (p : Nat) (segs : List Seg) (cache : List CacheLine) (ea : Nat) : Option Place :=
  let g := segAt segs ea
  let pg := eaOff ea / 65536
  if g.remote then some (.remote g.node g.window (g.remoteOff + pg * 65536))
  else
    match cacheLook cache (chartIndex g ea) with
    | none => none
    | some e =>
      match s.entryFate p g pg e with
      | .usable q => some q
      | _ => none

end Sys2Proof.Machine
end

