-- ==== Sys2Proof/Machine/Descriptor.lean ====
section
/-! DEFINITION. Stream descriptors: layout, element addresses, and the checks a list passes before it runs (R262 to
R268, R472, R543). -/

namespace Sys2Proof.Machine

/-- A descriptor from its 64 bytes (Tables 8.1 and 8.2). -/
def parseDesc (b : List Byte) : Desc :=
  let c := leAt b 0 4
  { kind := fld 1 0 c, listLen := fld 5 2 c, esize := fld 7 6 c, conv := fld 9 8 c, land := c.testBit 10,
    nodl := c.testBit 11, chain := fld 14 12 c, buffer := fld 20 15 c, resv := fld 31 21 c, deadline := leAt b 4 4,
    src := leAt b 8 6, srcLoc := leAt b 0xE 1, dst := leAt b 0x10 6, dstLoc := leAt b 0xF 1,
    counts := (List.range 5).map (fun k => leAt b (0x16 + 2 * k) 2 + 1),
    sstr := (List.range 4).map (fun k => sext 32 (leAt b (0x20 + 4 * k) 4)),
    dstr := (List.range 4).map (fun k => sext 32 (leAt b (0x30 + 4 * k) 4)) }

def Desc.empty : Desc := parseDesc []

/-- Bytes of an element. -/
def Desc.es (d : Desc) : Nat := 2 ^ d.esize

/-- N of R266. -/
def Desc.total (d : Desc) : Nat := d.counts.foldl (· * ·) 1

/-- The source is read. -/
def Desc.reads (d : Desc) : Bool := d.kind = 0 && d.conv ≠ 2

/-- Strides of dimensions 0 to 4 at the source and at the destination (R266). -/
def Desc.srcStr (d : Desc) : List Int := (d.es : Int) :: d.sstr
def Desc.dstStr (d : Desc) : List Int :=
  if d.conv = 1 then d.dstr.headD 0 :: (d.es : Int) :: d.dstr.drop 1 else (d.es : Int) :: d.dstr

/-- Indices i0 to i4 of an element in issue order. -/
def indices : Nat → List Nat → List Nat
  | _, [] => []
  | e, c :: cs => e % c :: indices (e / c) cs

/-- Offset of an element under strides. -/
def offsetOf (counts : List Nat) (str : List Int) (e : Nat) : Int :=
  ((indices e counts).zip str).foldl (fun a x => a + x.1 * x.2) 0

/-- Lowest and highest byte touched, from the base (R268). -/
def extent (counts : List Nat) (str : List Int) (es : Nat) : Int × Int :=
  let r := (counts.zip str).map (fun x => ((x.1 : Int) - 1) * x.2)
  (r.foldl (fun a x => a + min 0 x) 0, r.foldl (fun a x => a + max 0 x) 0 + es - 1)

/-- Elements that lie in one contiguous run, dimensions above 0 joined while they continue it (R269). -/
def runLen (es : Nat) : List Nat → List Int → Nat
  | c0 :: cs, _ :: ss => go c0 cs ss
  | _, _ => 1
where
  go (m : Nat) : List Nat → List Int → Nat
    | c :: cs, s :: ss => if c = 1 then go m cs ss else if s = (m * es : Nat) then go (m * c) cs ss else m
    | _, _ => m

/-- Every stride above dimension 0 equals the span of the dimension below it. -/
def spansMeet : Nat → List Nat → List Int → Bool
  | m, c :: cs, s :: ss => s = (m : Int) && spansMeet (m * c) cs ss
  | _, _, _ => true

/-- The destination is dense: every dstride_k equals the span of dimension k − 1 (R285). -/
def Desc.dense (d : Desc) : Bool := spansMeet (d.es * d.counts.headD 1) (d.counts.drop 1) (d.dstStr.drop 1)

def locSpace (l : Nat) : Nat := l % 8
def locCore (l : Nat) : Nat := l / 8

def Desc.ssp (d : Desc) : Nat := locSpace d.srcLoc
def Desc.dsp (d : Desc) : Nat := locSpace d.dstLoc

/-- Parts of a space 4 address (Table 8.3). -/
def halfBuf (a : Nat) : Nat := fld 26 21 a
def halfBit (a : Nat) : Bool := a.testBit 27
def halfGen (a : Nat) : Half := BitVec.ofNat 16 (fld 43 28 a)
def halfOff (a : Nat) : Nat := fld 20 0 a

/-- Address bits of a space. -/
def spaceWidth (sp : Nat) : Nat :=
  match sp with
  | 0 => 21
  | 1 => 21
  | 2 => 24
  | 3 => 48
  | _ => 44

/-- A location byte's core field is nonzero where Table 8.3 gives 0. -/
def coreField (loc : Nat) : Bool :=
  let sp := locSpace loc
  (sp = 0 || sp = 2 || sp = 3) && locCore loc ≠ 0

/-- A location or address breaks Table 8.3. -/
def locBad (loc addr : Nat) : Bool := coreField loc || 2 ^ spaceWidth (locSpace loc) ≤ addr

/-- Step 2a of R543: 0x0701. A location byte's reserved values are rejected in every descriptor (R265, R272). -/
def Desc.illegal (d : Desc) (first : Bool) : Bool :=
  d.resv ≠ 0 || coreField d.srcLoc || coreField d.dstLoc || d.esize = 3 || d.conv = 3 || (!first && d.listLen ≠ 0) || 4 < d.ssp || 4 < d.dsp ||
  (d.reads && locBad d.srcLoc d.src) || ((d.kind ≠ 2) && locBad d.dstLoc d.dst) ||
  (d.kind = 1 && (d.dsp ≠ 0 || d.chain ≠ 0 || d.dst % 16 ≠ 0)) ||
  (d.kind = 2 && (1 < d.dsp || locBad d.dstLoc 0 || d.chain = 0)) ||
  (d.kind = 3 && d.chain = 0) ||
  (d.kind = 0 && d.conv = 1 && 4096 < d.counts.getD 0 1 * d.counts.getD 1 1 * d.es)

/-- Step 2b: a core outside the job (0x0703), at either end of a transfer, a fill's source location among them; a define and a receive
do not use theirs (R265, R272, R286). -/
def Desc.coreBad (d : Desc) (inJob : Nat → Bool) : Bool :=
  (d.kind = 0 && (d.ssp = 1 || d.ssp = 4) && !inJob (locCore d.srcLoc)) ||
  (d.kind ≠ 1 && (d.dsp = 1 || d.dsp = 4) && !inJob (locCore d.dstLoc))

/-- Base of an end within its space: of a half, the offset in it. -/
def endBase (sp a : Nat) : Nat := if sp = 4 then halfOff a else a

def strideBad (es : Nat) (counts : List Nat) (str : List Int) : Bool :=
  (counts.zip str).any (fun x => 1 < x.1 && x.2 % (es : Int) ≠ 0)

/-- Step 2c: alignment (0x0702). -/
def Desc.alignBad (d : Desc) : Bool :=
  (d.reads && (endBase d.ssp d.src % d.es ≠ 0 || strideBad d.es d.counts d.srcStr)) ||
  ((d.kind = 0 || d.kind = 3) && endBase d.dsp d.dst % d.es ≠ 0) ||
  (d.kind = 0 && strideBad d.es d.counts d.dstStr)

/-- Lowest and highest byte of an end, from its base address. -/
def Desc.srcExt (d : Desc) : Int × Int := extent d.counts d.srcStr d.es
def Desc.dstExt (d : Desc) : Int × Int :=
  if d.kind = 3 then (0, (d.total * d.es : Nat) - 1) else extent d.counts d.dstStr d.es

def rangeBad (base : Nat) (x : Int × Int) (lim : Nat) : Bool :=
  (base : Int) + x.1 < 0 || (lim : Int) ≤ base + x.2

/-- Step 2d: ranges of spaces 0 to 2 (0x0703); `cap` is the partition's shared-store capacity. -/
def Desc.rangeBad (d : Desc) (cap : Nat) : Bool :=
  let lim := fun sp => if sp = 2 then cap else tileBytes
  (d.reads && d.ssp ≤ 2 && Machine.rangeBad d.src d.srcExt (lim d.ssp)) ||
  ((d.kind = 0 || d.kind = 3) && d.dsp ≤ 2 && Machine.rangeBad d.dst d.dstExt (lim d.dsp)) ||
  (d.kind = 1 && tileBytes < d.dst + 32 * d.counts.getD 0 1)

/-- An end in space 3 and its segment (step 2e): segment, limit, then for a destination the sealed write. -/
def endSeg (chartLog : Nat) (segs : List Seg) (a : Nat) (x : Int × Int) (write : Bool) : Option Nat :=
  let g := segAt segs a
  match segStatus chartLog g (eaOff a + x.1) (eaOff a + x.2) with
  | some st => some st
  | none => if write && g.sealed_ then some 0x0805 else none

/-- A sealed source: its destination must lie on the chip (0x0707), and its tag_base within a local, unsealed segment
(0x0F08, R472). -/
def sealedSrc (segs : List Seg) (key : Option KeySlot) (dsp : Nat) : Option Nat :=
  if dsp = 3 then some 0x0707
  else
    match key with
    | none => some 0x0F08
    | some k =>
      let g := segAt segs k.tagBase
      if !g.valid || g.remote || g.sealed_ || g.pages * 65536 ≤ eaOff k.tagBase then some 0x0F08 else none

/-- All checks of step 2 of R543 for one descriptor. -/
def Desc.check (d : Desc) (first : Bool) (inJob : Nat → Bool) (cap chartLog : Nat) (segs : List Seg)
    (key : Nat → Option KeySlot) : Option Nat :=
  if d.illegal first then some 0x0701
  else if d.coreBad inJob then some 0x0703
  else if d.alignBad then some 0x0702
  else if d.rangeBad cap then some 0x0703
  else
    let src :=
      if d.reads && d.ssp = 3 then
        match endSeg chartLog segs d.src d.srcExt false with
        | some st => some st
        | none => if (segAt segs d.src).sealed_ then sealedSrc segs (key (eaSeg d.src)) d.dsp else none
      else none
    match src with
    | some st => some st
    | none => if (d.kind = 0 || d.kind = 3) && d.dsp = 3 then endSeg chartLog segs d.dst d.dstExt true else none

end Sys2Proof.Machine
end

