-- ==== Sys2Proof/Machine/StreamUnit.lean ====
section
/-! DEFINITION. The stream engine (section 8): taking lists, starting descriptors, requests, returns, landing, chains,
sealed sources. -/

namespace Sys2Proof.Machine

/-! ## Slots, buffers and halves -/

def State.slot (s : State) (c k : Nat) : StrSlot := (s.core c).str.slots.getD k StrSlot.idle0

def State.modStr (s : State) (c : Nat) (f : StreamUnit → StreamUnit) : State :=
  s.modCore c (fun q => { q with str := f q.str })

def State.modSlot (s : State) (c k : Nat) (f : StrSlot → StrSlot) : State :=
  s.modStr c (fun u => { u with slots := modAt u.slots k f })

def StrSlot.desc (l : StrSlot) : Desc := l.descs.getD l.idx Desc.empty

def Core.buf (c : Core) (b : Nat) : Buf := c.str.bufs.getD b Buf.undef

def State.half (s : State) (c b : Nat) (h : Bool) : Half_ := (s.core c).half b h

def Buf.modHalf (x : Buf) (h : Bool) (f : Half_ → Half_) : Buf :=
  if h then { x with h1 := f x.h1 } else { x with h0 := f x.h0 }

def State.modHalf (s : State) (c b : Nat) (h : Bool) (f : Half_ → Half_) : State :=
  s.modStr c (fun u => { u with bufs := modAt u.bufs b (fun x => x.modHalf h f) })

/-- A stop by the slot's str.go. -/
def State.slotStop (s : State) (c k status : Nat) : State :=
  s.onCore c (fun q => q.stopTag status (s.slot c k).tag)

/-- The half a descriptor writes: owning core, buffer, half, generation. -/
def Desc.dstHalf (d : Desc) : Option (Nat × Nat × Bool × Half) :=
  if (d.kind = 0 || d.kind = 3) && d.dsp = 4 then
    some (locCore d.dstLoc, halfBuf d.dst, halfBit d.dst, halfGen d.dst)
  else none

/-- Descriptors of a busy slot that have not finished, with their indices. -/
def StrSlot.open_ (l : StrSlot) : List (Nat × Desc) :=
  if l.st = .idle then [] else ((List.range l.descs.length).zip l.descs).drop l.idx

/-- A descriptor names a half of a buffer of a core, at either end. -/
def Desc.names (d : Desc) (c b : Nat) : Bool :=
  (d.reads && d.ssp = 4 && locCore d.srcLoc = c && halfBuf d.src = b) ||
  (d.dstHalf.any (fun h => h.1 = c && h.2.1 = b))

/-- Some slot other than slot k of core c has an unfinished descriptor that names the buffer (R272). -/
def State.bufNamed (s : State) (c k b : Nat) : Bool :=
  (List.range 32).any fun x =>
    (List.range 6).any fun y =>
      !(x = c && y = k) && (s.slot x y).open_.any (fun e => e.2.names c b)

/-- An unfinished transfer into a half, taken before (take, index) (R274). -/
def State.earlierInto (s : State) (c b : Nat) (h : Bool) (g : Half) (take idx : Nat) : Bool :=
  (List.range 32).any fun x =>
    (s.core x).str.slots.any fun l =>
      l.open_.any fun e => e.2.dstHalf = some (c, b, h, g) && (l.take < take || (l.take = take && e.1 < idx))

/-! ## Places of the two ends -/

/-- Where an end's byte lies, or the engine address a Chart walk is needed for. -/
inductive Look where
  | found (p : Place)
  | walk (ea : Nat)
deriving DecidableEq, Repr

def State.endAt (s : State) (c sp loc a : Nat) (rel : Int) : Look :=
  match sp with
  | 0 => .found (.tile c (a + rel).toNat)
  | 1 => .found (.tile (locCore loc) (a + rel).toNat)
  | 2 => .found (.store (s.ssPlace (s.partOf c) (a + rel).toNat))
  | 3 =>
    let ea := (a + rel).toNat
    let m := (s.core c).mmu
    match s.lookPage (s.partOf c) m.segs m.cache ea with
    | some p => .found (p.plus (ea % 65536))
    | none => .walk ea
  | _ =>
    let b := (s.core (locCore loc)).buf (halfBuf a)
    .found (.tile (locCore loc) ((b.base + (if halfBit a then b.size else 0) + halfOff a : Nat) + rel).toNat)

/-- The address of an end in its own space, for request splitting. -/
def State.endAddr (s : State) (c sp loc a : Nat) (rel : Int) : Nat :=
  if sp = 4 then
    match s.endAt c sp loc a rel with
    | .found (.tile _ x) => x
    | _ => 0
  else (a + rel).toNat

/-! ## Bytes on the chip -/

/-- A 4 KiB unit of a byte range carries a seal bit (R295). -/
def sealedRange (seals : List Nat) (a n : Nat) : Bool :=
  seals.any (fun u => decide (u * 4096 < a + n) && decide (a < u * 4096 + 4096))

def addSeals (seals : List Nat) (a n : Nat) : List Nat :=
  (List.range ((a + n - 1) / 4096 + 1 - a / 4096)).foldl
    (fun l i => let u := a / 4096 + i; if l.contains u then l else u :: l) seals

/-- Bytes read from tile memory or the shared store. -/
def State.readOn (s : State) (p : Place) (n : Nat) : List Byte :=
  match p with
  | .tile c a => (s.core c).tile.read a n
  | .store a => s.store.read a n
  | _ => []

/-- A sealed unit among the bytes of an on-chip place. -/
def State.placeSealed (s : State) (p : Place) (n : Nat) : Bool :=
  match p with
  | .tile c a => sealedRange (s.core c).tileSeal a n
  | .store a => sealedRange s.storeSeal a n
  | _ => false

/-- A remote access started (R321). -/
def State.remoteAccess (s : State) (owner : FabOwner) (write : Bool) (node win off len : Nat) (data : List Byte)
    (part : Nat) : State :=
  let a : RemAcc :=
    { id := s.fab.next, owner, write, node, win, off, len, data, part, sent := false, got := [], done := false }
  { s with fab := { s.fab with rem := s.fab.rem ++ [a], next := s.fab.next + 1 } }

/-- KiB counters with the bytes left over. -/
def addKib (cnt : Word) (rem n : Nat) : Word × Nat := (sat32 cnt ((rem + n) / 1024), (rem + n) % 1024)

/-- Core c's engine writes bytes to a place for a command. A write into a protected section of a core is dropped and
stops c (R229); a sealed write sets the seal bits (R295). (DEDUCED, log 67) -/
def State.putBytes (s : State) (c : Nat) (g : QTag) (deadline : Option Word) (sealed_ : Bool) (p : Place)
    (bs : List Byte) : State :=
  let n := bs.length
  let own := FabOwner.write c g.task g.id
  if (s.core c).seq.stop.isSome then s
  else
    let s := s.modStr c (fun u =>
      let k := addKib u.wrKib u.wrRem n
      { u with wrKib := k.1, wrRem := k.2 })
    match p with
    | .tile t a =>
      if (s.core t).protects a n then s.onCore c (fun q => q.stopTag 0x0303 g)
      else
        s.modCore t (fun q => { q with
          tile := q.tile.write a bs
          tileSeal := if sealed_ then addSeals q.tileSeal a n else q.tileSeal })
    | .store a =>
      { s with store := s.store.write a bs, storeSeal := if sealed_ then addSeals s.storeSeal a n else s.storeSeal }
    | .sys a _ => s.access own true false false a n bs (some (s.partOf c)) deadline c
    | .near a => s.access own true true false a n bs (some (s.partOf c)) deadline c
    | .remote nd w o => s.remoteAccess own true nd w o n bs (s.partOf c)

/-- Pieces that continue one another within a 1 KiB block are joined. -/
def joinPieces : List (Place × List Byte) → List (Place × List Byte)
  | [] => []
  | (p, b) :: r =>
    match joinPieces r with
    | (q, b') :: r' =>
      let lo := match p with
        | .tile _ a => a
        | .store a => a
        | .sys a _ => a
        | .near a => a
        | .remote _ _ a => a
      if q = p.plus b.length ∧ (lo + b.length) % 1024 ≠ 0 then (p, b ++ b') :: r' else (p, b) :: (q, b') :: r'
    | [] => [(p, b)]

def Desc.dl (d : Desc) : Option Word := if d.nodl then none else some (BitVec.ofNat 32 d.deadline)

/-- Where element e of a transfer goes, by the translations its request holds. -/
def State.dstAt (s : State) (c : Nat) (d : Desc) (pages : List (Nat × Place)) (e : Nat) : Option Place :=
  let rel := offsetOf d.counts d.dstStr e
  if d.dsp = 3 then
    let ea := (d.dst + rel).toNat
    match pages.find? (fun x => x.1 = ea / 65536) with
    | some (_, p) => some (p.plus (ea % 65536))
    | none => none
  else
    match s.endAt c d.dsp d.dstLoc d.dst rel with
    | .found p => some p
    | .walk _ => none

/-- Elements [first, first + n) written with their bytes (R266), a chain head forwarding them (R285). -/
def State.writeElems (s : State) (c k : Nat) (pages : List (Nat × Place)) (sealed_ : Bool) (first n : Nat)
    (data : List Byte) : State :=
  let l := s.slot c k
  let d := l.desc
  let es := (List.range n).filterMap (fun j =>
    match s.dstAt c d pages (first + j) with
    | some p => some (p, slice data (j * d.es) d.es)
    | none => none)
  let s := (joinPieces es).foldl (fun s e => s.putBytes c l.tag d.dl sealed_ e.1 e.2) s
  if d.chain = 0 then s
  else
    match (s.core c).str.chains.getD d.chain .undef with
    | .succ t => s.send (.chain c t ⟨d.chain, first * d.es, data, sealed_⟩)
    | _ => s

/-! ## Finishing and landing (R270, R274, R289) -/

/-- A transfer into a half is halted on a fault, or has been and has not finished since (R276, R293). -/
def State.haltedInto (s : State) (c b : Nat) (h : Bool) (g : Half) : Bool :=
  (List.range 32).any fun x =>
    (s.core x).str.slots.any fun l =>
      (l.st = .halted || (l.faulted && l.st ≠ .idle)) && l.desc.dstHalf = some (c, b, h, g)

/-- A half lands once a finished land descriptor has no earlier unfinished transfer into the half (R274), and none into it
is halted (R276). -/
def State.tryLand (s : State) (c b : Nat) (h : Bool) : State :=
  let x := s.half c b h
  if x.st = .filling && !s.haltedInto c b h x.gen && x.lands.any (fun l => !s.earlierInto c b h x.gen l.1 l.2) then
    s.modHalf c b h (fun x => { x with st := .landed, lands := [] })
  else s

/-- The slot's current descriptor has finished: the next one may start, or the slot is idle. -/
def State.nextDesc (s : State) (c k : Nat) : State :=
  s.modSlot c k (fun l =>
    if l.idx + 1 < l.descs.length then
      { l with idx := l.idx + 1, started := false, pos := 0, rcvd := 0, sealWork := none, faulted := false, st := .running }
    else { l with st := .idle, started := false, pos := 0, rcvd := 0, sealWork := none, faulted := false })

/-- A transfer or receive has finished: lateness, then landing (R274, R289). -/
def State.finishDesc (s : State) (c k : Nat) : State :=
  let l := s.slot c k
  let d := l.desc
  let late := !d.nodl && 0 ≤ (BitVec.ofNat 32 s.tick - BitVec.ofNat 32 d.deadline).toInt
  let s := s.modSlot c k (fun l => { l with late := late })
  let s := if late then s.modStr c (fun u => { u with late := sat32 u.late 1 }) else s
  let s := s.nextDesc c k
  match d.dstHalf with
  | none => s
  | some (o, b, h, _) =>
    let s := if d.land then s.modHalf o b h (fun x => { x with lands := x.lands ++ [(l.take, l.idx)] }) else s
    s.tryLand o b h

/-! ## Starting a descriptor (R272 to R276, R285, R286, R295, R543 step 3) -/

/-- Checks of a source half (R268, R276). -/
def State.srcHalfBad (s : State) (d : Desc) : Option Nat :=
  if d.reads && d.ssp = 4 then
    let b := (s.core (locCore d.srcLoc)).buf (halfBuf d.src)
    let h := s.half (locCore d.srcLoc) (halfBuf d.src) (halfBit d.src)
    if h.st = .undef then some 0x0704
    else if rangeBad (halfOff d.src) d.srcExt b.size then some 0x0703
    else if h.st ≠ .landed ∨ h.gen ≠ halfGen d.src then some 0x0704
    else none
  else none

/-- Checks of a destination half (R268, R273). -/
def State.dstHalfBad (s : State) (d : Desc) : Option Nat :=
  match d.dstHalf with
  | none => none
  | some (o, b, h, g) =>
    let x := s.half o b h
    if x.st = .undef then some 0x0704
    else if rangeBad (halfOff d.dst) d.dstExt ((s.core o).buf b).size then some 0x0703
    else if 0 < (x.gen - g).toInt then some 0x0704
    else none

/-- The destination half is ready for the transfer: empty or filling at its generation (R273). -/
def State.dstHalfReady (s : State) (d : Desc) : Bool :=
  match d.dstHalf with
  | none => true
  | some (o, b, h, g) =>
    let x := s.half o b h
    x.gen = g && (x.st = .empty || x.st = .filling)

/-- A transfer bound outside the block that reads a sealed unit (R295). -/
def State.sealOut (s : State) (c : Nat) (d : Desc) : Bool :=
  d.reads && d.dsp = 3 && d.ssp ≠ 3 && (!s.storeSeal.isEmpty || s.cores.toList.any (fun q => !q.tileSeal.isEmpty)) &&
    (List.range d.total).any (fun e =>
      match s.endAt c d.ssp d.srcLoc d.src (offsetOf d.counts d.srcStr e) with
      | .found p => s.placeSealed p d.es
      | .walk _ => false)

/-- A chain head or receive breaks its conditions (R285, R286). -/
def State.chainBad (s : State) (c : Nat) (d : Desc) : Bool :=
  let ownDst := d.dsp = 0 || (d.dsp = 4 && locCore d.dstLoc = c)
  (d.kind = 0 && d.chain ≠ 0 &&
    (!ownDst || !d.dense || d.conv ≠ 0 || (s.core c).str.chains.getD d.chain .undef = .undef)) ||
  (d.kind = 3 && !ownDst)

/-- The transfer begins: its half fills (R273). -/
def State.beginMove (s : State) (c k : Nat) : State :=
  let d := (s.slot c k).desc
  let s := match d.dstHalf with
    | some (o, b, h, _) => s.modHalf o b h (fun x => { x with st := .filling })
    | none => s
  s.modSlot c k (fun l => { l with st := .running, started := true, pos := 0, rcvd := 0 })

/-- Writes of one forwarded packet by the active receive of slot k; one that passes the byte count stops the core (R286). -/
def State.chainWrite (s : State) (c k : Nat) (p : ChainPkt) : State :=
  let l := s.slot c k
  let d := l.desc
  if d.total * d.es < p.off + p.data.length ∨ d.total * d.es < l.rcvd + p.data.length then s.slotStop c k 0x0706
  else
    match s.endAt c d.dsp d.dstLoc d.dst p.off with
    | .found q =>
      (s.putBytes c l.tag d.dl p.sealed_ q p.data).modSlot c k (fun l => { l with rcvd := l.rcvd + p.data.length })
    | .walk _ => s

/-- A receive still takes packets: its byte count has not been written (R286). -/
def StrSlot.receiving (l : StrSlot) : Bool :=
  l.st = .running && l.started && l.desc.kind = 3 && l.rcvd < l.desc.total * l.desc.es

/-- Packets of the chain input that wait for the receive, until its byte count is written; the rest wait for the next one. -/
def State.drainChain (s : State) (c k : Nat) : State :=
  let ch := (s.slot c k).desc.chain
  ((s.core c).str.chainIn.filter (fun p => p.chain = ch)).foldl (fun s p =>
    if (s.slot c k).receiving then
      (s.modStr c (fun u => { u with chainIn := u.chainIn.erase p })).chainWrite c k p
    else s) s

/-- Start of the slot's current descriptor. -/
def State.startDesc (s : State) (c k : Nat) : State :=
  let d := (s.slot c k).desc
  match d.kind with
  | 1 =>
    let b := (s.core c).buf d.buffer
    if b.h0.st = .filling || b.h1.st = .filling || s.bufNamed c k d.buffer then s.slotStop c k 0x0704
    else
      let g := BitVec.ofNat 16 d.src
      let x : Buf := ⟨d.dst, 16 * d.counts.getD 0 1, ⟨.empty, g, []⟩, ⟨.empty, g, []⟩⟩
      (s.modStr c (fun u => { u with bufs := setAt u.bufs d.buffer x })).nextDesc c k
  | 2 =>
    let x := if d.dsp = 1 then ChainDef.succ (locCore d.dstLoc) else ChainDef.last
    (s.modStr c (fun u => { u with chains := setAt u.chains d.chain x })).nextDesc c k
  | _ =>
    match s.srcHalfBad d, s.dstHalfBad d with
    | some st, _ => s.slotStop c k st
    | none, some st => s.slotStop c k st
    | none, none =>
      if s.sealOut c d then s.slotStop c k 0x0707
      else if s.chainBad c d then s.slotStop c k 0x0706
      else if !s.dstHalfReady d then s.modSlot c k (fun l => { l with st := .waiting })
      else
        let s := s.beginMove c k
        if d.kind = 3 then s.drainChain c k else s

/-! ## Taking a list (R261, R262) -/

/-- STR_GO_TAKE: the str.go at the head of the queue, when its slot is idle and no release holds it (R242). -/
def State.strTake (s : State) (c : Nat) : State :=
  let q := s.core c
  match q.str.queue with
  | (g, .go k a) :: rest =>
    if !q.live || (s.slot c k).st ≠ .idle || q.heldBy g then s
    else
      let n := fld 5 2 (leAt (q.tile.read a 4) 0 4) + 1
      if a % 64 ≠ 0 ∨ tileBytes < a + 64 ∨ tileBytes < a + 64 * n then s.onCore c (fun q => q.stopTag 0x0702 g)
      else
        let ds := (chunks 64 n (q.tile.read a (64 * n))).map parseDesc
        let p := s.partOf c
        let key := fun i => (s.lds.keys.getD p []).getD i none
        let bad := ((List.range n).zip ds).findSome? (fun e =>
          e.2.check (e.1 = 0) (s.sameJob c) (s.ssCapacity p) s.cfg.chartLog q.mmu.segs key)
        match bad with
        | some st => s.onCore c (fun q => q.stopTag st g)
        | none =>
          let take := s.grid.seq
          let s := (s.modGrid (fun x => { x with seq := x.seq + 1 })).modStr c (fun u => { u with queue := rest })
          let s := s.modSlot c k (fun l => { l with
            st := .running, tag := g, take := take, descs := ds, idx := 0, started := false, pos := 0, reqs := [],
            nextReq := 0, walking := none, sealWork := none, rcvd := 0, faulted := false })
          s.startDesc c k
  | _ => s

/-- DESCRIPTOR_START: a later descriptor of the list, after the one before it has finished. -/
def State.descStart (s : State) (c k : Nat) : State :=
  let l := s.slot c k
  if (s.core c).live && l.st = .running && !l.started && 0 < l.idx then s.startDesc c k else s

/-- HALF_WAIT_END: the destination half has become empty at the generation the slot waits for (R273). -/
def State.halfWaitEnd (s : State) (c k : Nat) : State :=
  let l := s.slot c k
  if (s.core c).live && l.st = .waiting then
    match s.dstHalfBad l.desc with
    | some st => s.slotStop c k st
    | none =>
      if s.dstHalfReady l.desc then
        let s := s.beginMove c k
        if l.desc.kind = 3 then s.drainChain c k else s
      else s
  else s

/-- BUF_RELEASE_TAKE (R275). -/
def State.bufReleaseTake (s : State) (c : Nat) : State :=
  let q := s.core c
  match q.str.queue with
  | (g, .release b h) :: rest =>
    if !q.live || q.heldBy g then s
    else if (q.half b h).st ≠ .landed then s.onCore c (fun q => q.stopTag 0x0704 g)
    else
      (s.modStr c (fun u => { u with queue := rest })).modHalf c b h
        (fun x => { x with st := .empty, gen := x.gen + 1#16 })
  | _ => s

/-! ## Requests (R269, R288) -/

/-- A read of a core's internal path (R263). -/
def FabOwner.internal (o : FabOwner) (c : Nat) : Bool :=
  match o with
  | .swapIn x _ => x = c
  | .image _ _ x => x = c
  | _ => false

/-- Read requests of a core outstanding, those of its internal path among them (R263, R269). -/
def State.readsOut (s : State) (c : Nat) : Nat :=
  (((s.core c).str.slots.flatMap StrSlot.reqs).filter (fun r => r.src.isSome)).length +
    (s.fab.accs.filter (fun a => a.owner.internal c && !a.done)).length +
    (s.fab.rem.filter (fun a => a.owner.internal c && !a.done)).length

/-- Walks of a core outstanding, halts apart: at most 4 (R309). -/
def State.walksOut (s : State) (c : Nat) : Nat :=
  ((s.core c).mmu.walks.filter (fun w => w.st ≠ .halted)).length

/-- A walk of an engine address starts for request `by_` of a core, unless 4 are outstanding; it counts as a miss (R309). -/
def State.startWalk (s : State) (c by_ ea : Nat) (write : Bool) : State :=
  let m := (s.core c).mmu
  if 4 ≤ s.walksOut c then s
  else
    let w : OutWalk := ⟨s.partOf c, chartIndex (segAt m.segs ea) ea, ea, write, s.tick, .toSend, by_⟩
    s.modCore c (fun q => { q with mmu := { q.mmu with
      walks := q.mmu.walks ++ [w], missCnt := sat32 q.mmu.missCnt 1 } })

/-- A request of slot k waits for the walk of an engine address. -/
def State.needWalk (s : State) (c k ea : Nat) (write : Bool) : State :=
  let m := (s.core c).mmu
  if 4 ≤ s.walksOut c then s
  else (s.startWalk c k ea write).modSlot c k (fun l => { l with walking := some (chartIndex (segAt m.segs ea) ea) })

/-- A read of `n` bytes at a place, for request `no` of slot k. -/
def State.issueRead (s : State) (c k no : Nat) (p : Place) (n : Nat) : State :=
  let own := FabOwner.stream c k no
  let d := (s.slot c k).desc
  let s := s.modStr c (fun u =>
    let x := addKib u.rdKib u.rdRem n
    { u with rdKib := x.1, rdRem := x.2 })
  match p with
  | .sys a coh => s.access own false false coh a n [] (some (s.partOf c)) d.dl c
  | .near a => s.access own false true false a n [] (some (s.partOf c)) d.dl c
  | .remote nd w o => s.remoteAccess own false nd w o n [] (s.partOf c)
  | _ => s

def StrSlot.addReq (l : StrSlot) (r : StrReq) : StrSlot := { l with reqs := l.reqs ++ [r], nextReq := l.nextReq + 1 }

/-- Of elements [e, e + n), those up to the first whose destination page is not at hand, with the pages; and the
engine address the next one needs. (DEDUCED, log 37) -/
def State.dstPages (s : State) (c : Nat) (d : Desc) (e n : Nat) : Nat × List (Nat × Place) × Option Nat :=
  if d.dsp ≠ 3 then (n, [], none)
  else
    (List.range n).foldl (fun (acc : Nat × List (Nat × Place) × Option Nat) j =>
      if acc.2.2.isSome then acc
      else
        let ea := (d.dst + offsetOf d.counts d.dstStr (e + j)).toNat
        if acc.2.1.any (fun x => x.1 = ea / 65536) then (acc.1 + 1, acc.2.1, none)
        else
          match s.endAt c 3 0 ea 0 with
          | .found p =>
            match s.endAt c 3 0 (ea / 65536 * 65536) 0 with
            | .found q => (acc.1 + 1, (ea / 65536, q) :: acc.2.1, none)
            | .walk _ => (acc.1 + 1, (ea / 65536, p) :: acc.2.1, none)
          | .walk a => (acc.1, acc.2.1, some a)) (0, [], none)

/-- The cached Chart line of a page of a local segment was used (R309). -/
def State.touchPage (s : State) (c page : Nat) : State :=
  let g := segAt (s.core c).mmu.segs (page * 65536)
  if g.remote then s
  else s.modCore c (fun q => { q with mmu := { q.mmu with
    cache := cacheTouch q.mmu.cache (chartIndex g (page * 65536) / 16) } })

def State.touchPages (s : State) (c : Nat) (pages : List (Nat × Place)) : State :=
  pages.reverse.foldl (fun s p => s.touchPage c p.1) s

/-- The chunk a slot works on, the engine address and bytes of its next read, and whether that is the tag (R294, R472). -/
def State.sealNext (s : State) (c k chunk : Nat) : SealWork × Nat × Nat × Bool :=
  let l := s.slot c k
  let w := match l.sealWork with
    | some w => if w.chunk = chunk then w else ⟨chunk, 0, [], none, none⟩
    | none => ⟨chunk, 0, [], none, none⟩
  let seg := eaSeg l.desc.src
  let key := ((s.lds.keys.getD (s.partOf c) []).getD seg none)
  let isTag := w.asked = 64
  (w, if isTag then (key.map KeySlot.tagBase).getD 0 + 16 * chunk else seg * 2 ^ 44 + chunk * 65536 + w.asked * 1024,
    if isTag then 16 else 1024, isTag)

/-- A read of a sealed chunk or of its tag (R294, R472). -/
def State.issueSealed (s : State) (c k chunk : Nat) : State :=
  let l := s.slot c k
  let x := s.sealNext c k chunk
  let w := x.1
  let ea := x.2.1
  let n := x.2.2.1
  let isTag := x.2.2.2
  let segs := (s.core c).mmu.segs
  match segStatus s.cfg.chartLog (segAt segs ea) (eaOff ea) (eaOff ea + n - 1) with
  | some st => s.slotStop c k st
  | none =>
    match s.endAt c 3 0 ea 0 with
    | .walk a => s.needWalk c k a false
    | .found p =>
      let kind := if isTag then ReqKind.tag else ReqKind.chunk (w.asked * 1024)
      let no := l.nextReq
      let s := s.modSlot c k (fun l =>
        { (l.addReq ⟨no, kind, some p, n, [], none⟩) with sealWork := some { w with asked := w.asked + 1 } })
      (s.touchPage c (ea / 65536)).issueRead c k no p n

/-- The next request of slot k. (DEDUCED, log 37) -/
def State.issueSlot (s : State) (c k : Nat) : State :=
  let l := s.slot c k
  let d := l.desc
  let e := l.pos
  let fill := d.conv = 2
  let str := if fill then d.dstStr else d.srcStr
  let run := runLen d.es d.counts str
  let rel := offsetOf d.counts str e
  let addr := if fill then s.endAddr c d.dsp d.dstLoc d.dst rel else s.endAddr c d.ssp d.srcLoc d.src rel
  let n := max 1 (min (run - e % run) ((1024 - addr % 1024) / d.es))
  let dp := s.dstPages c d e n
  let no := l.nextReq
  if fill then
    match dp with
    | (0, _, some a) => s.needWalk c k a true
    | (m, pages, _) =>
      let pat := toLe d.es (d.src % 2 ^ 32)
      (s.touchPages c pages).modSlot c k (fun l =>
        { (l.addReq ⟨no, .elems e m, none, m * d.es, pages, some ((List.replicate m pat).flatten)⟩) with pos := e + m })
  else
    let sealSrc := d.ssp = 3 && (segAt (s.core c).mmu.segs d.src).sealed_
    let chunk := eaOff addr / 65536
    let plain := match l.sealWork with
      | some w => if w.chunk = chunk then w.plain else none
      | none => none
    match sealSrc, plain with
    | true, none => s.issueSealed c k chunk
    | true, some t =>
      match dp with
      | (0, _, some a) => s.needWalk c k a true
      | (m, pages, _) =>
        (s.touchPages c pages).modSlot c k (fun l =>
          { (l.addReq ⟨no, .elems e m, none, m * d.es, pages, some (slice t (addr % 65536) (m * d.es))⟩) with
            pos := e + m })
    | false, _ =>
      match s.endAt c d.ssp d.srcLoc d.src rel with
      | .walk a => s.needWalk c k a false
      | .found p =>
        match dp with
        | (0, _, some a) => s.needWalk c k a true
        | (m, pages, _) =>
          let s := s.modSlot c k (fun l =>
            { (l.addReq ⟨no, .elems e m, some p, m * d.es, pages, none⟩) with pos := e + m })
          let s := if d.ssp = 3 then s.touchPage c (addr / 65536) else s
          (s.touchPages c pages).issueRead c k no p (m * d.es)

/-- The Chart walk that a slot's next request needs first: the engine address, and whether it is for a write. -/
def State.slotWalk (s : State) (c k : Nat) : Option (Nat × Bool) :=
  let l := s.slot c k
  let d := l.desc
  let dst := match s.dstPages c d l.pos 1 with
    | (0, _, some a) => some (a, true)
    | _ => none
  if d.conv = 2 then dst
  else
    let rel := offsetOf d.counts d.srcStr l.pos
    let chunk := eaOff (s.endAddr c d.ssp d.srcLoc d.src rel) / 65536
    let at_ := fun (x : Look) => match x with
      | .walk a => some (a, false)
      | .found _ => none
    if d.ssp = 3 && (segAt (s.core c).mmu.segs d.src).sealed_ then
      (if l.sealWork.any (fun w => w.chunk = chunk && w.plain.isSome) then dst
      else at_ (s.endAt c 3 0 (s.sealNext c k chunk).2.1 0))
    else (at_ (s.endAt c d.ssp d.srcLoc d.src rel)).or dst

/-- A slot has a request to issue; one that needs a walk waits alone while 4 walks are outstanding (R309). -/
def State.slotReady (s : State) (c k : Nat) : Bool :=
  let l := s.slot c k
  let d := l.desc
  l.st = .running && l.started && d.kind = 0 && l.pos < d.total && l.walking.isNone &&
    (l.reqs.filter (fun r => r.src.isSome)).length < 16 && s.readsOut c < 32 &&
    !(l.sealWork.any (fun w => w.plain.isNone && 65 ≤ w.asked)) && (s.walksOut c < 4 || (s.slotWalk c k).isNone)

/-- Rank of a slot's next request under R288. -/
def State.slotKey (s : State) (c k : Nat) : Int × Nat :=
  (dlRank s.tick (s.slot c k).desc.dl, (k + 6 - (s.core c).str.ptr % 6) % 6)

/-- The slot that issues next. -/
def State.pickSlot (s : State) (c : Nat) : Option Nat :=
  ((List.range 6).filter (s.slotReady c)).foldl (fun best k =>
    match best with
    | none => some k
    | some b =>
      let x := s.slotKey c b
      let y := s.slotKey c k
      if y.1 < x.1 ∨ (y.1 = x.1 ∧ y.2 < x.2) then some k else some b) none

/-! ## The internal path: state swaps and image loads (R163, R227, R263) -/

/-- Writes of a core's transfers and swap-outs that their stops have not accepted. -/
def State.writesOut (s : State) (c : Nat) : Nat :=
  (s.fab.accs.filter (fun a => !a.accepted && (match a.owner with
    | .write x _ _ => x = c
    | .swapOut x _ _ => x = c
    | _ => false))).length

/-- An access of a partition to a place off the chip, from requester `src`, without a deadline (R288). -/
def State.placeAccess (s : State) (own : FabOwner) (part src : Nat) (write : Bool) (p : Place) (n : Nat) (bs : List Byte) : State :=
  match p with
  | .sys a coh => s.access own write false (coh && !write) a n bs (some part) none src
  | .near a => s.access own write true false a n bs (some part) none src
  | .remote nd w o => s.remoteAccess own write nd w o n bs part
  | _ => s

/-- An access of the internal path. -/
def State.internAccess (s : State) (own : FabOwner) (c : Nat) (write : Bool) (p : Place) (n : Nat) (bs : List Byte) : State :=
  s.placeAccess own (s.partOf c) c write p n bs

/-- What keeps the internal path's next request at an engine address: nothing and its place, or a walk to start, or a walk that is
out. -/
inductive PathStep where
  | at_ (p : Place)
  | walk
  | wait
deriving DecidableEq, Repr

def State.pathStep (s : State) (c by_ ea : Nat) : PathStep :=
  match s.endAt c 3 0 ea 0 with
  | .found p => .at_ p
  | .walk _ => if (s.core c).mmu.walks.any (fun w => w.by_ = by_) || 4 ≤ s.walksOut c then .wait else .walk

/-- Bytes of the next request of [ea + pos, ea + len): at most 1 KiB, to the next 1 KiB boundary (R269). -/
def pathLen (ea pos len : Nat) : Nat := min (len - pos) (1024 - (ea + pos) % 1024)

/-- The next request of a swap whose limits allow one: a range beyond the segment, or a swap-out into a sealed one, stops the core
(R301, R305). -/
def State.swapGo (s : State) (c : Nat) (w : Swap) : State :=
  let u := (s.core c).elm
  let h := u.handle w.sh
  let len := u.region w.sh
  let ea := h.home + w.pos
  let g := (s.core c).swapTag w
  let stop := fun (st : Nat) => s.onCore c (fun q => q.stopTag st g)
  match endSeg s.cfg.chartLog (s.core c).mmu.segs h.home (0, (len : Int) - 1) w.out with
  | some st => stop st
  | none =>
    match s.pathStep c (6 + w.sh) ea with
    | .wait => s
    | .walk => s.startWalk c (6 + w.sh) ea w.out
    | .at_ p =>
      let n := pathLen h.home w.pos len
      let bs := if w.out then (s.core c).tile.read (h.addr + w.pos) n else []
      let own := if w.out then FabOwner.swapOut c g.task g.id else .swapIn c w.sh
      (s.modCore c (fun q => { q with elm := { q.elm with
        swaps := q.elm.swaps.map (fun x => if x = w then { x with pos := x.pos + n } else x) } })).internAccess own c w.out p n bs

/-- A swap has a request to issue. -/
def State.swapReady (s : State) (c : Nat) (w : Swap) : Bool :=
  w.pos < (s.core c).elm.region w.sh && (if w.out then s.writesOut c < 16 else s.readsOut c < 32) &&
    s.pathStep c (6 + w.sh) (((s.core c).elm.handle w.sh).home + w.pos) ≠ .wait

/-- The next request of a core's image load; a page that its segment or the Chart refuses ends the job with that status. -/
def State.loadGo (s : State) (c : Nat) (fail : State → Job → Nat → State) : State :=
  match (s.core c).str.loads.find? (fun x => x.pos < x.len), s.jobOf c with
  | some x, some j =>
    if j.phase ≠ .loading || 32 ≤ s.readsOut c then s
    else
      match endSeg s.cfg.chartLog (s.core c).mmu.segs x.ea (0, (x.len : Int) - 1) false with
      | some st => fail s j st
      | none =>
        let ea := x.ea + x.pos
        match s.pathStep c 22 ea with
        | .wait => s
        | .walk => s.startWalk c 22 ea false
        | .at_ p =>
          let n := pathLen x.ea x.pos x.len
          (s.modStr c (fun u => { u with
            loads := u.loads.map (fun y => if y = x then { y with pos := y.pos + n } else y) })).internAccess
            (.image j.part j.ring c) c false p n []
  | _, _ => s

/-- STREAM_REQUEST_ISSUE on a running core: one request, among its slots by R288; with none of a slot ready, one of a swap.
(DEDUCED, log 37) -/
def State.strIssue (s : State) (c : Nat) : State :=
  if !(s.core c).live then s
  else
    match s.pickSlot c with
    | some k => (s.modStr c (fun u => { u with ptr := (k + 1) % 6, moved := true })).issueSlot c k
    | none =>
      match (s.core c).elm.swaps.find? (s.swapReady c) with
      | some w => (s.modStr c (fun u => { u with moved := true })).swapGo c w
      | none => s

/-- SWAP_COMPLETE: every request has been issued, every read has returned, every write is accepted or, to a remote window,
acknowledged (R163, R238, R270). -/
def State.swapEnd (s : State) (c h : Nat) : State :=
  match (s.core c).elm.swaps.find? (fun w => w.sh = h) with
  | none => s
  | some w =>
    let g := (s.core c).swapTag w
    if w.pos < (s.core c).elm.region h then s
    else if w.out then
      let own := FabOwner.swapOut c g.task g.id
      if s.fab.accs.any (fun a => a.owner = own && !a.accepted) || s.fab.rem.any (fun a => a.owner = own && !a.done) then s
      else s.onCore c (fun q => q.swapDone h [])
    else if !s.ownerDone (.swapIn c h) then s
    else
      let r := s.ownerTake (.swapIn c h)
      r.2.onCore c (fun q => q.swapDone h r.1)

/-! ## Returns (R269, R294, R296) -/

/-- The writes a request made, accesses `lo` on, join what an invalidation waits for when it was issued before; `all`: the request has
made its last (R319). -/
def State.invNote (s : State) (c k take no lo : Nat) (all : Bool) : State :=
  match s.cht.inv with
  | some v =>
    if v.reqs.contains (c, k, take, no) then
      let new := (s.fab.accs.filter (fun a => lo ≤ a.no)).map FabAcc.no
      s.modCht (fun x => { x with inv := some { v with
        reqs := if all then v.reqs.erase (c, k, take, no) else v.reqs
        acks := v.acks.map (fun a => if a.1.num = c then (a.1, a.2 ++ new) else a) } })
    else s
  | none => s

/-- The data of a request, when it has come, wherever its accesses to the shared store stand; on-chip memory is read now (R271). -/
def State.reqRaw (s : State) (c k : Nat) (r : StrReq) : Option (List Byte) :=
  match r.data, r.src with
  | some d, _ => some d
  | none, some (.tile t a) => some ((s.core t).tile.read a r.len)
  | none, some (.store a) => some (s.store.read a r.len)
  | none, some (.remote _ _ _) =>
    match s.fab.rem.find? (fun x => x.owner = .stream c k r.no) with
    | some x => if x.done then some (slice x.got 0 r.len) else none
    | none => none
  | none, _ =>
    match s.fab.accs.find? (fun x => x.owner = .stream c k r.no) with
    | some x => if x.done then some (slice x.got 0 r.len) else none
    | none => none

/-- The shared-store bank of a place: its slice and unit (Table 14.2). -/
def Place.slice (p : Place) : Option (Nat × Nat) :=
  match p with
  | .store a => some (a / 2 ^ 21, a % 2 ^ 21 / 65536)
  | _ => none

/-- The shared-store banks a request accesses once its data can be had: its source's, and those its elements go to (R389). -/
def State.reqSlices (s : State) (c k : Nat) (r : StrReq) : List (Nat × Nat) :=
  let src := (r.src.bind Place.slice).toList
  match r.kind with
  | .elems e m =>
    let d := (s.slot c k).desc
    if d.dsp ≠ 2 then src
    else (src ++ (List.range m).filterMap (fun j => (s.dstAt c d r.pages (e + j)).bind Place.slice)).eraseDups
  | _ => src

/-- A burst of a sounding holds a shared-store bank (R445). -/
def State.storeTaken (s : State) (b : Nat × Nat) : Bool := s.grid.storeMarch.any (fun m => m.1 = b.1 && m.2.1 = b.2 && m.2.2 < 5)

/-- In this F-cycle a sounding holds the bank, or its slice has granted another source stop than `src` (R395, R445). -/
def State.sliceWaits (s : State) (src : Nat) (b : Nat × Nat) : Bool :=
  s.storeTaken b ||
    match s.grid.sliceWon.getD b.1 none with
    | some x => x ≠ src
    | none => false

/-- The data of a request, when it has come and no slice that it needs is granted to another stop (R271, R395).
(DEDUCED, log 81) -/
def State.reqData (s : State) (c k : Nat) (r : StrReq) : Option (List Byte) :=
  if (s.reqSlices c k r).any (s.sliceWaits c) then none else s.reqRaw c k r

/-- A chunk whose reads are all in: it is authenticated; a failure zeroes what the transfer writes from it, is
recorded, and stops the core (R296). -/
def State.sealCheck (s : State) (c k : Nat) : State :=
  let l := s.slot c k
  let d := l.desc
  match l.sealWork with
  | some w =>
    match w.tag, decide (w.got.length = 64) && w.plain.isNone with
    | some tag, true =>
      let p := s.partOf c
      match (s.lds.keys.getD p []).getD (eaSeg d.src) none with
      | none => s
      | some key =>
        let ct := (List.range 64).flatMap (fun i =>
          match w.got.find? (fun x => x.1 = i * 1024) with
          | some x => x.2
          | none => [])
        let iv := key.salt ++ toBe 8 w.chunk
        let aad := toLe 4 key.keyId.toNat ++ toLe 4 0 ++ toLe 8 w.chunk
        match gcmDec key.key iv aad ct tag with
        | some pt =>
          (s.modStr c (fun u => { u with sealChunk := sat32 u.sealChunk 1 })).modSlot c k
            (fun l => { l with sealWork := some { w with plain := some pt } })
        | none =>
          let mine := (List.range d.total).filter (fun e =>
            eaOff (d.src + offsetOf d.counts d.srcStr e).toNat / 65536 = w.chunk)
          let s := mine.foldl (fun s e => s.writeElems c k [] true e 1 (List.replicate d.es 0#8)) s
          let s := { s with lds := { s.lds with
            sealFailCnt := sat32 s.lds.sealFailCnt 1, sealFailPart := p, sealFailSeg := eaSeg d.src,
            sealFailChunk := w.chunk, event := s.lds.event ||| 0x10#32 } }
          (s.mark 0xA 8 0x10).gmsi.slotStop c k 0x0708
    | _, _ => s
  | none => s

/-- Bytes [a, a + n) at two places of the chip share a byte. -/
def placesMeet (p : Place) (n : Nat) (q : Place) (m : Nat) : Bool :=
  match p, q with
  | .tile c a, .tile t b => c = t && a < b + m && b < a + n
  | .store a, .store b => a < b + m && b < a + n
  | _, _ => false

/-- A request of more than one element whose source bytes meet its own destination bytes (R271).
(DESIGN CHOICE, log 23) -/
def State.selfOverlap (s : State) (c : Nat) (d : Desc) (r : StrReq) (e m : Nat) : Bool :=
  match r.src, r.data with
  | some p, none =>
    1 < m && (List.range m).any (fun j => (s.dstAt c d r.pages (e + j)).any (fun q => placesMeet p r.len q d.es))
  | _, _ => false

/-- Elements whose ranges overlap: the source byte's old or new value is left open (R271), so a free value chooses the
direction the elements are written in, and another for each element whether it was read before the request's writes or
after those already made. (DESIGN CHOICE, log 23) -/
def State.writeOverlap (s : State) (c k : Nat) (r : StrReq) (sealed_ : Bool) (e m : Nat) (data : List Byte) : State :=
  let es := (s.slot c k).desc.es
  let t := s.takeFree
  let js := if freeNat t.1 % 2 = 1 then (List.range m).reverse else List.range m
  js.foldl (fun s j =>
    let f := s.takeFree
    let now := match r.src with
      | some p => f.2.readOn p r.len
      | none => data
    let from_ := if freeNat f.1 % 2 = 1 then now else data
    f.2.writeElems c k r.pages sealed_ (e + j) 1 (slice from_ (j * es) es)) t.2

/-- Pieces of a return that go out while fewer than 16 writes of the core are not accepted (R269), and the bytes they hold. -/
def State.putWhile (s : State) (c : Nat) (g : QTag) (dl : Option Word) (sealed_ : Bool) : List (Place × List Byte) → State × Nat
  | [] => (s, 0)
  | e :: r =>
    if 16 ≤ s.writesOut c then (s, 0)
    else
      let x := State.putWhile (s.putBytes c g dl sealed_ e.1 e.2) c g dl sealed_ r
      (x.1, e.2.length + x.2)

/-- Elements of a request written outside the block, as many as the limit of 16 allows; the rest of the request keeps its data and
is written when the command comes again (R269). -/
def State.writeOutside (s : State) (c k : Nat) (r : StrReq) (sealed_ : Bool) (e m : Nat) (data : List Byte) : State :=
  let l := s.slot c k
  let d := l.desc
  let lo := s.fab.next
  let es := (List.range m).filterMap (fun j => (s.dstAt c d r.pages (e + j)).map (fun p => (p, slice data (j * d.es) d.es)))
  let x := s.putWhile c l.tag d.dl sealed_ (joinPieces es)
  let n := x.2 / d.es
  let rest : StrReq := { r with kind := .elems (e + n) (m - n), src := none, len := (m - n) * d.es,
                                data := some (slice data (n * d.es) ((m - n) * d.es)) }
  (x.1.modSlot c k (fun l => { l with
    reqs := if n < m then l.reqs.map (fun y => if y.no = r.no then rest else y) else l.reqs.filter (fun y => y.no ≠ r.no) })).invNote
    c k l.take r.no lo (decide (m ≤ n))

/-- STREAM_READ_RETURN: request `n` of slot k has its data, which is written to its destination. -/
def State.strReturn (s : State) (c k n : Nat) : State :=
  let l := s.slot c k
  match l.reqs.find? (fun r => r.no = n) with
  | none => s
  | some r =>
    match s.reqData c k r with
    | none => s
    | some data =>
      let lo := s.fab.next
      let sealSrc := l.desc.reads && l.desc.ssp = 3 && (segAt (s.core c).mmu.segs l.desc.src).sealed_
      let gone := fun (s : State) => s.modSlot c k (fun l => { l with reqs := l.reqs.filter (fun x => x.no ≠ n) })
      let s := s.dropAccs (.stream c k n)
      let s := { s with fab := { s.fab with rem := s.fab.rem.filter (fun x => x.owner ≠ FabOwner.stream c k n) } }
      match r.kind with
      | .elems e m =>
        if l.desc.dsp = 3 then s.writeOutside c k r sealSrc e m data
        else
          let s := gone s
          (if s.selfOverlap c l.desc r e m then s.writeOverlap c k r sealSrc e m data
            else s.writeElems c k r.pages sealSrc e m data).invNote c k l.take n lo true
      | .chunk off =>
        ((gone s).modSlot c k (fun l => { l with
          sealWork := l.sealWork.map (fun w => { w with got := w.got ++ [(off, data)] }) })).sealCheck c k
      | .tag =>
        ((gone s).modSlot c k (fun l => { l with
          sealWork := l.sealWork.map (fun w => { w with tag := some data }) })).sealCheck c k

/-- Writes of a command not yet performed at core scope (Table 7.1): to a remote window and not acknowledged, to system or near
memory and not accepted by their stop. -/
def State.writesOpen (s : State) (c : Nat) (g : QTag) : Bool :=
  s.fab.rem.any (fun x => x.owner = .write c g.task g.id && !x.done) ||
    s.fab.accs.any (fun x => x.owner = .write c g.task g.id && !x.accepted)

/-- TRANSFER_FINISHED: everything requested, returned and performed at core scope (R270), or a receive's bytes all
written (R286). -/
def State.transferFinished (s : State) (c k : Nat) : State :=
  let l := s.slot c k
  let d := l.desc
  if !(s.core c).live || l.st ≠ .running || !l.started then s
  else if d.kind = 0 && d.total ≤ l.pos && l.reqs.isEmpty && !s.writesOpen c l.tag then s.finishDesc c k
  else if d.kind = 3 && d.total * d.es ≤ l.rcvd then s.finishDesc c k
  else s

/-! ## Chain packets (R286, R287) -/

/-- The slot whose active receive serves a chain. -/
def State.receiver (s : State) (c ch : Nat) : Option Nat :=
  (List.range 6).find? (fun k =>
    let l := s.slot c k
    l.receiving && l.desc.chain = ch)

/-- CHAIN_FORWARD_PACKET: the next packet of a chain reaches a core. -/
def State.chainArrive (s : State) (c ch : Nat) : State :=
  match s.eject (fun p => match p with
    | .chain _ t x => t = c && x.chain = ch
    | _ => false) with
  | some (.chain _ _ x, s1) =>
    let held := ((s.core c).str.chainIn.map (fun y => y.data.length)).foldl (· + ·) 0
    let fwd := fun (s : State) => match (s.core c).str.chains.getD ch .undef with
      | .succ t => s.send (.chain c t x)
      | _ => s
    match s.receiver c ch with
    | some k => (fwd s1).chainWrite c k x
    | none =>
      if 4096 < held + x.data.length then s
      else (fwd s1).modStr c (fun u => { u with chainIn := u.chainIn ++ [x] })
  | _ => s

end Sys2Proof.Machine
end

