-- ==== Sys2Proof/Machine/MessageUnit.lean ====
section
/-! DEFINITION. Mailboxes and credits, barriers, handle queues, waypoints (sections 7 and 8), over the whole block. -/

namespace Sys2Proof.Machine

def State.modMsg (s : State) (c : Nat) (f : MsgUnit → MsgUnit) : State :=
  s.modCore c (fun q => { q with msg := f q.msg })

/-! ## Credits (R247) -/

/-- Unused credits a sender holds for a destination. -/
def MsgUnit.credit (u : MsgUnit) (d : Nat) : Nat :=
  match u.credits.find? (fun e => e.1 = d) with
  | some e => e.2
  | none => 0

/-- Credits for a destination set; a destination without credits is not listed. -/
def MsgUnit.setCredit (u : MsgUnit) (d n : Nat) : MsgUnit :=
  let r := u.credits.filter (fun e => e.1 ≠ d)
  { u with credits := if n = 0 then r else (d, n) :: r }

/-- mb.send commands to a destination that wait in the queue. -/
def MsgUnit.sendsTo (u : MsgUnit) (d : Nat) : Nat :=
  (u.queue.filter (fun q => match q.2 with
    | .send _ x => x = d
    | _ => false)).length

/-- Unused credits for a destination to which nothing more is queued return to the receiver. -/
def State.returnCredits (s : State) (c d : Nat) : State :=
  let u := (s.core c).msg
  let n := u.credit d
  if n = 0 || u.sendsTo d ≠ 0 || u.sending.any (fun x => x.dst = d) then s
  else (s.modMsg c (fun u => u.setCredit d 0)).send (.creditRet c d n)

/-- A message injected with a credit; the mb.send has finished. -/
def State.injectMessage (s : State) (c d : Nat) (data : List Byte) : State :=
  let s := (s.modMsg c (fun u =>
    { (u.setCredit d (u.credit d - 1)) with sending := none, sendCnt := sat32 u.sendCnt 1 })).send (.message c d data)
  s.returnCredits c d

/-- MB_SEND_TAKE: a destination outside the job stops the core (R246); the payload is read; with a credit the message goes, without one credits are asked for. -/
def State.mbSendTake (s : State) (c : Nat) : State :=
  let q := s.core c
  match q.msg.queue with
  | (g, .send a d) :: rest =>
    if !q.live || q.msg.sending.isSome || q.heldBy g then s
    else if !s.sameJob c d then s.onCore c (fun q => q.stopTag 0x030C g)
    else
      let data := q.tile.read a 64
      let s := s.modMsg c (fun u => { u with queue := rest, sending := some ⟨g, d, data⟩ })
      if 0 < q.msg.credit d then s.injectMessage c d data
      else s.send (.creditReq c d (min 8 (rest.filter (fun x => match x.2 with
        | .send _ y => y = d
        | _ => false) |>.length.succ)))
  | _ => s

/-- The receiver's pool serves listed requests in order. -/
def serveList : Nat → Nat → List (Nat × Nat) → Nat × List (Nat × Nat) × List (Nat × Nat)
  | 0, pool, l => (pool, l, [])
  | _, pool, [] => (pool, [], [])
  | f + 1, pool, (src, n) :: r =>
    if pool = 0 then (0, (src, n) :: r, [])
    else
      let k := min n pool
      let x := serveList f (pool - k) r
      (x.1, x.2.1, (src, k) :: x.2.2)

def State.serveCredits (s : State) (d : Nat) : State :=
  let u := (s.core d).msg
  let x := serveList u.reqList.length u.pool u.reqList
  (s.modMsg d (fun u => { u with pool := x.1, reqList := x.2.1 })).sendAll
    (x.2.2.map (fun e => .creditGrant e.1 d e.2))

/-- CREDIT_REQUEST: a request reaches its receiver. -/
def State.creditRequest (s : State) (src dst : Nat) : State :=
  match s.eject (fun p => match p with
    | .creditReq a b _ => a = src && b = dst
    | _ => false) with
  | some (.creditReq _ _ n, s) =>
    (s.modMsg dst (fun u => { u with reqList := u.reqList ++ [(src, n)] })).serveCredits dst
  | _ => s

/-- CREDIT_GRANT: a grant reaches the sender, whose held mb.send goes. -/
def State.creditGrant (s : State) (src dst : Nat) : State :=
  match s.eject (fun p => match p with
    | .creditGrant a b _ => a = src && b = dst
    | _ => false) with
  | some (.creditGrant _ _ n, s) =>
    let s := s.modMsg src (fun u => u.setCredit dst (u.credit dst + n))
    match (s.core src).msg.sending with
    | some x => if x.dst = dst then s.injectMessage src dst x.data else s.returnCredits src dst
    | none => s.returnCredits src dst
  | _ => s

/-- CREDIT_RETURN: unused credits reach the receiver's pool. -/
def State.creditReturn (s : State) (src dst : Nat) : State :=
  match s.eject (fun p => match p with
    | .creditRet a b _ => a = src && b = dst
    | _ => false) with
  | some (.creditRet _ _ n, s) => (s.modMsg dst (fun u => { u with pool := u.pool + n })).serveCredits dst
  | _ => s

/-- MESSAGE_ARRIVAL: a message occupies an entry (R249), which is progress of its core (R223). -/
def State.messageArrival (s : State) (src dst : Nat) : State :=
  match s.eject (fun p => match p with
    | .message a b _ => a = src && b = dst
    | _ => false) with
  | some (.message _ _ data, s) =>
    (s.modMsg dst (fun u => { u with
      entries := u.entries ++ [⟨u.nextNo, src, data, false⟩], nextNo := u.nextNo + 1 })).modCore dst Core.progress
  | _ => s

/-- MB_RECV_TAKE: the claimed message is copied, its sender written to the register, its entry freed (R251). -/
def State.mbRecvTake (s : State) (c : Nat) : State :=
  let q := s.core c
  match q.msg.queue with
  | (g, .recv a rd e) :: rest =>
    if !q.live || q.msg.sending.isSome then s
    else
      match q.msg.entries.find? (fun x => x.no = e) with
      | none => s
      | some x =>
        let s := s.modMsg c (fun u => { u with
          queue := rest, entries := u.entries.filter (fun y => y.no ≠ e), pool := u.pool + 1,
          recvCnt := sat32 u.recvCnt 1, delivered := true })
        let s := s.onCore c (fun q =>
          if q.protects a 64 then q.stopTag 0x0303 g
          else
            let t : Fin 4 := ⟨g.task % 4, Nat.mod_lt _ (by decide)⟩
            ({ q with tile := q.tile.write a x.data }).modTask t
              (fun k => k.setReg (BitVec.ofNat 5 rd) (BitVec.ofNat 32 x.from_) (q.seq.cyc + 1)) |>.progress)
        s.serveCredits c
  | _ => s

/-! ## Barriers (R254 to R257) -/

/-- BAR_ARRIVE_TAKE. -/
def State.barArriveTake (s : State) (c : Nat) : State :=
  let q := s.core c
  match q.msg.queue with
  | (g, .barArrive b) :: rest =>
    if !q.live || q.msg.sending.isSome || q.heldBy g then s
    else
      match s.jobOf c with
      | none => s
      | some j =>
        if (192 ≤ b && j.multi.isNone) || q.msg.ahead b = 2 then s.onCore c (fun q => q.stopTag 0x030D g)
        else
          let ph := Sparse.get 0#16 q.msg.arr b + 1#16
          (s.modMsg c (fun u => { u with queue := rest, arr := Sparse.set 0#16 u.arr b ph, lastBar := b })).send
            (.barArrive j.part c b ph)
  | _ => s

/-- BARRIER_ARRIVAL: an arrival reaches the barrier unit; the last participant's completes the phase. A chain barrier
completes on this instance only when every instance has (R257). -/
def State.barrierArrival (s : State) (c b : Nat) : State :=
  match s.eject (fun p => match p with
    | .barArrive _ x y _ => x = c && y = b
    | _ => false) with
  | some (.barArrive p _ _ ph, s) =>
    match s.jobOf c with
    | none => s
    | some j =>
      let s := s.modPart p (fun q => { q with bars := q.bars ++ [⟨b, ph, c⟩] })
      let here := fun d => (s.part p).bars.any (fun e => e.bar = b && e.phase = ph && e.core = d)
      if j.coreList.all here then
        let s := s.modPart p (fun q => { q with
          bars := q.bars.filter (fun e => !(e.bar = b && e.phase = ph && j.has e.core)) })
        if b < 192 then s.sendAll (j.coreList.map (fun d => .barDone d b))
        else s.modGrid (fun g => { g with barLocal := g.barLocal ++ [(p, j.ring, b, ph)] })
      else s
  | _ => s

/-- BARRIER_COMPLETION: a completion reaches a participant. -/
def State.barrierDone (s : State) (c b : Nat) : State :=
  match s.eject (fun p => match p with
    | .barDone x y => x = c && y = b
    | _ => false) with
  | some (_, s) => s.modMsg c (fun u => { u with done := Sparse.set 0#16 u.done b (Sparse.get 0#16 u.done b + 1#16) })
  | none => s

/-! ## Handle queues (R277 to R282) -/

def State.modHq (s : State) (p q : Nat) (f : HQueue → HQueue) : State :=
  s.modPart p (fun x => { x with hqs := modAt x.hqs q f })

def State.hq (s : State) (p q : Nat) : HQueue := (s.part p).hqs.getD q HQueue.reset

/-- A handle enters or leaves flight; the longest transit is kept (STR_HQ_INFLIGHT). -/
def State.hqFly (s : State) (p : Nat) : State := s.modPart p (fun x => { x with hqInflight := x.hqInflight + 1 })
def State.hqLand (s : State) (p born : Nat) : State :=
  s.modPart p (fun x => { x with
    hqInflight := x.hqInflight - 1, hqMax := max x.hqMax (min 255 (s.clk.fcyc - born)) })

/-- The oldest listed get is served while the queue holds a handle (R280). -/
def State.hqServe (s : State) (p q : Nat) : State :=
  match (s.hq p q).q, (s.hq p q).gets with
  | h :: hs, (c, t) :: gs =>
    let s := s.modHq p q (fun x => { x with q := hs, gets := gs })
    ((s.modPart p (fun x => { x with hqGet := inc32 x.hqGet 1 })).hqFly p).send (.hqGetRep c t h s.clk.fcyc)
  | _, _ => s

/-- A handle delivered to a queue: appended, then listed gets are served (R279, R280). -/
def State.hqAppend (s : State) (p q : Nat) (h : DWord) : State :=
  ((s.modHq p q (fun x => { x with q := x.q ++ [h] })).modPart p (fun x => { x with hqPut := inc32 x.hqPut 1 })).hqServe
    p q

/-- The queue a put or get packet is for, and its core. -/
def Pkt.hqOp (k : Pkt) : Option (Nat × Nat × Nat) :=
  match k with
  | .hqPut p c _ q _ _ => some (p, q, c)
  | .hqGet p c _ q => some (p, q, c)
  | _ => none

/-- Puts and gets of one queue that the mesh has ejected and the unit has still to perform, each as the cycle of its ejection, its
core and its place in State.mesh. (DEDUCED, log 80) -/
def State.hqOps (s : State) (r : Routers) (p q : Nat) : List (Nat × Nat × Nat) :=
  (List.range s.mesh.length).filterMap (fun k =>
    match (s.mesh[k]?).bind Pkt.hqOp, (r.place k).bind (fun i => r.flights[i]?) with
    | some (p', q', c), some f => if p' = p && q' = q && f.done then some (f.lastMove, c, k) else none
    | _, _ => none)

/-- R281: the queue's next operation is, of those ejected in the earliest F-cycle, the first in logical core order from the pointer on.
The pointer, and what it becomes: after a tie, the winner's number plus 1; 0 once an F-cycle brings no tie. Given the operations
ejected, whether operation k is next, and the new pointer entry. (DEDUCED, log 80) -/
def hqPick (ops : List (Nat × Nat × Nat)) (ptr : Nat × Nat) (k : Nat) : Bool × (Nat × Nat) :=
  let first := ops.foldl (fun m o => min m o.1) ((ops.headD (0, 0, 0)).1)
  let now := ops.filter (fun o => o.1 = first)
  let at_ := if ptr.2 = first + 1 ∨ ptr.2 = first then ptr.1 else 0
  let key := fun (o : Nat × Nat × Nat) => (o.2.1 + 32 - at_ % 32) % 32
  match now.find? (fun o => o.2.2 = k) with
  | none => (false, ptr)
  | some o =>
    (now.all (fun x => key o ≤ key x),
      if 1 < now.length then ((o.2.1 + 1) % 32, first + 1) else if ptr.2 = first + 1 then ptr else (0, 0))

/-- Packet k is the next operation of its handle queue. -/
def State.hqTurn (s : State) (k : Nat) : Bool :=
  match (s.mesh[k]?).bind Pkt.hqOp with
  | some (p, q, _) => (hqPick (s.hqOps (s.noc.deliver k) p q) ((s.part p).hqPtrs.getD q (0, 0)) k).1
  | none => false

/-- A put or get packet ejected at the handle queue unit, in the queue's order (R281). -/
def State.hqEject (s : State) (which : Pkt → Bool) : Option (Pkt × State) :=
  match s.mesh.findIdx? which with
  | none => none
  | some k =>
    if !s.hqTurn k then none
    else
      match (s.mesh[k]?).bind Pkt.hqOp, s.eject which with
      | some (p, q, _), some (x, u) =>
        some (x, u.modPart p (fun r => { r with
          hqPtrs := modAt r.hqPtrs q (fun e => (hqPick (s.hqOps (s.noc.deliver k) p q) e k).2) }))
      | _, _ => none

/-- HQ_PUT_PACKET: appended or refused. -/
def State.hqPutArrive (s : State) (c t : Nat) : State :=
  match s.hqEject (fun p => match p with
    | .hqPut _ x y _ _ _ => x = c && y = t
    | _ => false) with
  | some (.hqPut p _ _ q h born, s) =>
    let s := s.hqLand p born
    if (s.hq p q).q.length < 32 then (s.hqAppend p q h).send (.hqPutRep c t true)
    else (s.modHq p q (fun x => { x with refused := x.refused ++ [(c, t)] })).send (.hqPutRep c t false)
  | _ => s

/-- The task of a refused put of another instance, as the queue unit lists it (R498). -/
def farCore (node core : Nat) : Nat := 256 * (node + 1) + core

/-- A freed entry brings a space notice to the first refused put; over the links it is a cell (R498). -/
def State.hqFreed (s : State) (p q : Nat) : State :=
  match (s.hq p q).refused with
  | (c, t) :: r =>
    let s := s.modHq p q (fun x => { x with refused := r })
    if c < 256 then s.send (.hqSpace c t) else s.sendCell (c / 256 - 1) p (.hqSpace (c % 256) t)
  | [] => s

/-- HQ_GET_REQUEST: answered with the oldest handle, or listed. -/
def State.hqGetArrive (s : State) (c t : Nat) : State :=
  match s.hqEject (fun p => match p with
    | .hqGet _ x y _ => x = c && y = t
    | _ => false) with
  | some (.hqGet p _ _ q, s) =>
    let had := !(s.hq p q).q.isEmpty
    let s := (s.modHq p q (fun x => { x with gets := x.gets ++ [(c, t)] })).hqServe p q
    if had then s.hqFreed p q else s
  | _ => s

/-- A reply ends an hq instruction of a waiting task: it counts as issued and the task becomes ready. -/
def Core.hqEnd (c : Core) (t : Fin 4) (f : Task → Task) : Core :=
  let c := c.modTask t (fun k => (f k).advance)
  (({ c with seq := { c.seq with issueCnt := sat32 c.seq.issueCnt 1 } }).progress).wake [t]

/-- HQ_PUT_REPLY: accepted, the put has taken effect; refused, the task waits for a space notice. -/
def Core.hqPutReply (c : Core) (t : Fin 4) (ok : Bool) : Core :=
  match (c.task t).wait with
  | .hqPut q h false =>
    if !c.live then c
    else if ok then c.hqEnd t id
    else c.modTask t (fun k => { k with wait := .hqPut q h true })
  | _ => c

/-- HQ_GET_REPLY: the handle goes to s[rd] (low) and s[rd + 1]. -/
def Core.hqGetReply (c : Core) (t : Fin 4) (h : DWord) : Core :=
  match (c.task t).wait with
  | .hqGet _ rd =>
    if !c.live then c
    else
      c.hqEnd t (fun k =>
        (k.setReg (BitVec.ofNat 5 rd) (h.setWidth 32) (c.seq.cyc + 1)).setReg (BitVec.ofNat 5 (rd + 1))
          ((h >>> 32).setWidth 32) (c.seq.cyc + 1))
  | _ => c

/-- HQ_SPACE_NOTICE: the refused put is issued again (R217). -/
def Core.hqSpace (c : Core) (t : Fin 4) : Core :=
  match (c.task t).wait with
  | .hqPut _ _ true => if c.live then c.wake [t] else c
  | _ => c

def State.hqPutReply (s : State) (c : Nat) (t : Fin 4) : State :=
  match s.eject (fun p => match p with
    | .hqPutRep x y _ => x = c && y = t.val
    | _ => false) with
  | some (.hqPutRep _ _ ok, s) => s.onCore c (fun q => q.hqPutReply t ok)
  | _ => s

def State.hqGetReply (s : State) (c : Nat) (t : Fin 4) : State :=
  match s.eject (fun p => match p with
    | .hqGetRep x y _ _ => x = c && y = t.val
    | _ => false) with
  | some (.hqGetRep _ _ h born, s) => (s.hqLand (s.partOf c) born).onCore c (fun q => q.hqGetReply t h)
  | _ => s

def State.hqSpaceNotice (s : State) (c : Nat) (t : Fin 4) : State :=
  match s.eject (fun p => match p with
    | .hqSpace x y => x = c && y = t.val
    | _ => false) with
  | some (_, s) => s.onCore c (fun q => q.hqSpace t)
  | none => s

/-- hq.put and hq.get send their packet when they issue: the issuing task has come to wait for the reply. -/
def State.hqIssued (s : State) (c : Nat) (before : Option (Fin 4)) : State :=
  match before with
  | none => s
  | some t =>
    let p := s.partOf c
    match ((s.core c).task t).st, ((s.core c).task t).wait with
    | .waiting, .hqPut q h false => (s.hqFly p).send (.hqPut p c t q h s.clk.fcyc)
    | .waiting, .hqGet q _ => s.send (.hqGet p c t q)
    | _, _ => s

/-- The job's queues. -/
def State.hqAssigned (s : State) (c q : Nat) : Bool :=
  match s.jobOf c with
  | some j => j.hqMask.testBit q
  | none => false

def State.hqHolds (s : State) (c q : Nat) : Bool := !(s.hq (s.partOf c) q).q.isEmpty

/-! ## Waypoints (R238 to R244) -/

/-- A write of a command of task t below the waypoint: of the stream engine, or of a state swap-out of the element unit. -/
def FabOwner.priorWrite (o : FabOwner) (c t : Nat) (w : Wpt) : Bool :=
  match o with
  | .write x y i => w.units.testBit 3 && x = c && y = t && i < w.before
  | .swapOut x y i => w.units.testBit 1 && x = c && y = t && i < w.before
  | _ => false

/-- The writes of task t's commands below the waypoint are performed at its scope (Table 7.1): those to a remote window
acknowledged; those to system and near memory accepted by their stop, at system scope acknowledged. -/
def State.performed (s : State) (c t : Nat) (w : Wpt) : Bool :=
  s.fab.rem.all (fun x => !(x.owner.priorWrite c t w && !x.done)) &&
  s.fab.accs.all (fun x => !x.owner.priorWrite c t w || x.done || (w.scope ≠ 2 && x.accepted))

/-- Task t waits at a waypoint whose condition holds. -/
def State.wptHolds (s : State) (c : Nat) (t : Fin 4) : Bool :=
  match ((s.core c).task t).wait with
  | .wpt w acq => (s.core c).priorDone t w && (acq || s.performed c t w)
  | _ => false

/-- WAYPOINT_SATISFIED: the task becomes ready, and with no task running the others whose waypoint holds too (R219, R221). -/
def State.wptSatisfied (s : State) (c : Nat) (t : Fin 4) : State :=
  let q := s.core c
  if q.live && s.wptHolds c t then
    s.onCore c (fun q => q.wake (if q.seq.running.isNone then (List.finRange 4).filter (s.wptHolds c) else [t]))
  else s

/-- RELEASE_CONDITION_MET: the oldest release whose condition holds leaves the task's list (R242). -/
def State.releaseMet (s : State) (c : Nat) (t : Fin 4) : State :=
  let q := s.core c
  match (q.task t).rels.find? (fun w => q.priorDone t w && s.performed c t w) with
  | some w => if q.live then s.modCore c (fun q => q.modTask t (fun k => { k with rels := k.rels.erase w })) else s
  | none => s

end Sys2Proof.Machine
end

