-- ==== Sys2Proof/Machine/ChartUnit.lean ====
section
/-! DEFINITION. Walks, faults and their records, replays, edits, moves, invalidations (section 9). -/

namespace Sys2Proof.Machine

def State.modStop (s : State) (f : Nat) (g : WalkStop → WalkStop) : State :=
  s.modCht (fun c => { c with stops := modAt c.stops f g })

def State.stop (s : State) (f : Nat) : WalkStop := s.cht.stops.getD f ⟨[], []⟩

/-! ## An engine's walks -/

/-- Segment copies an engine uses for a partition. -/
def State.engSegs (s : State) (e : Engine) (p : Nat) : List Seg :=
  match e with
  | .core c => (s.core c).mmu.segs
  | .intake _ => s.cht.itk.segs.getD p []
  | .link _ => s.cht.lnk.segs.getD p []
  | .walker _ => []

def State.engWalks (s : State) (e : Engine) : List OutWalk :=
  match e with
  | .core c => (s.core c).mmu.walks
  | .intake p => s.cht.itk.walks.filter (fun w => w.part = p)
  | .link p => s.cht.lnk.walks.filter (fun w => w.part = p)
  | .walker _ => []

/-- Every walk of an engine changed; none drops it. -/
def State.mapWalks (s : State) (e : Engine) (f : OutWalk → Option OutWalk) : State :=
  let side := fun (m : SideMmu) (p : Nat) =>
    { m with walks := m.walks.filterMap (fun w => if w.part = p then f w else some w) }
  match e with
  | .core c => s.modCore c (fun q => { q with mmu := { q.mmu with walks := q.mmu.walks.filterMap f } })
  | .intake p => s.modCht (fun c => { c with itk := side c.itk p })
  | .link p => s.modCht (fun c => { c with lnk := side c.lnk p })
  | .walker _ => s

/-- The partition an engine works for. -/
def State.engPart (s : State) (e : Engine) : Nat :=
  match e with
  | .core c => s.partOf c
  | .intake p => p
  | .link p => p
  | .walker _ => 0

/-- A walk request reaches its stop: it joins a walk of the line, queues, or is answered with retry (R310). A walk an
invalidation has marked for the engine is not joined (R319). (DEDUCED, log 69) -/
def State.walkArrive (s : State) (e : Engine) (w : OutWalk) : State :=
  let line := w.index / 16
  let f := line % 2
  let s := s.carry .request (s.enginePos e) (s.cfg.posOf (.fab f)) 8
  let wt : Waiter := ⟨e, w.part, w.addr, w.write, w.tick⟩
  let st := s.stop f
  let joins := fun (k : Walk) => k.line = line && !k.stale.contains e
  let mark := fun (st : WalkState) (s : State) =>
    s.mapWalks e (fun x => some (if x = w then { x with st := st } else x))
  match st.walks.findIdx? joins with
  | some i => mark .sent (s.modStop f (fun q => { q with
      walks := modAt q.walks i (fun k => { k with waiters := k.waiters ++ [wt] }) }))
  | none =>
    if (st.walks.filter (fun k => !k.taken)).length < 32 then
      mark .sent (s.modStop f (fun q => { q with walks := q.walks ++ [⟨line, false, [wt], [], 0⟩] }))
    else mark .sent (s.send (.retry e w.index))

/-- WALK_REQUEST. -/
def State.walkRequest (s : State) (e : Engine) : State :=
  match (s.engWalks e).find? (fun w => w.st = .toSend) with
  | some w => s.walkArrive e w
  | none => s

/-- WALK_RETRY_REPLY: the engine will send again 64 F-cycles on. (DEDUCED, log 69) -/
def State.walkRetry (s : State) (e : Engine) : State :=
  match s.eject (fun p => match p with
    | .retry x _ => x = e
    | _ => false) with
  | some (.retry _ i, s) =>
    s.mapWalks e (fun w => some (if w.index = i then { w with st := .retry s.clk.fcyc } else w))
  | _ => s

/-- WALK_REQUEST_RESEND: it takes its age from its new arrival. -/
def State.walkResend (s : State) (e : Engine) : State :=
  match (s.engWalks e).find? (fun w => match w.st with
    | .retry t => t + 64 ≤ s.clk.fcyc
    | _ => false) with
  | some w =>
    let w' := { w with tick := s.tick, st := .toSend }
    (s.mapWalks e (fun x => some (if x = w then w' else x))).walkArrive e w'
  | none => s

/-! ## Walkers -/

/-- Where a Chart line lies: address and whether it is reached through the near-memory port. -/
def State.chartLine (s : State) (line : Nat) : Nat × Bool :=
  (s.cht.region + 64 * line, s.cht.chartNear && !s.cht.carve && s.cfg.nearPort)

/-- WALKER_TAKE: a free walker takes the oldest queued line and issues its read. -/
def State.walkerTake (s : State) (f : Nat) : State :=
  let st := s.stop f
  if s.cfg.walkers / 2 ≤ (st.walks.filter Walk.taken).length then s
  else
    match st.walks.findIdx? (fun k => !k.taken) with
    | none => s
    | some i =>
      let k := st.walks.getD i ⟨0, false, [], [], 0⟩
      let s := s.modStop f (fun q => { q with walks := modAt q.walks i (fun k => { k with taken := true, acc := s.fab.next }) })
      let s := s.modCht (fun c => { c with walkCnt := sat32 c.walkCnt 1 })
      let a := s.chartLine k.line
      s.access (.walk f k.line) false a.2 false a.1 64 [] (k.waiters.head?.map Waiter.part) none (32 + f)

/-- Waiters in the order of R313. -/
def waiterBefore (a b : Waiter) : Bool := a.tick < b.tick || (a.tick = b.tick && a.eng.num ≤ b.eng.num)

def sortWaiters (l : List Waiter) : List Waiter := sortBy waiterBefore l

def waiterMask (l : List Waiter) : Nat := l.foldl (fun m w => m ||| 2 ^ w.eng.num) 0

/-- The Chart index a waiter asks for. -/
def State.waitIndex (s : State) (w : Waiter) : Nat := chartIndex (segAt (s.engSegs w.eng w.part) w.addr) w.addr

/-- The fate of a waiter given its line's entries. -/
def State.waitFate (s : State) (w : Waiter) (es : List Word) : EntryFate :=
  let g := segAt (s.engSegs w.eng w.part) w.addr
  s.entryFate w.part g (eaOff w.addr / 65536) (es.getD (s.waitIndex w % 16) 0#32)

/-- The partition's fault ring writes records (R315). -/
def Part.fringK (p : Part) : Nat := fld 3 0 p.fringCfg.toNat
def Part.fringOn (p : Part) : Bool := p.fringCfg.getLsbD 5 && 4 ≤ p.fringK && p.fringK ≤ 12

/-- A faulting waiter: with the ring disabled it is refused; it joins a pending fault or creates one, whose record goes
to the ring writer; with the table full it waits in the walk queue (R312, R313, R315). -/
def State.faultOne (s : State) (f : Nat) (line : Nat) (group : List Waiter) (es : List Word) (w : Waiter)
    (kind : Nat) : State :=
  let i := s.waitIndex w
  let e := es.getD (i % 16) 0#32
  if !(s.part w.part).fringOn then s.send (.halt w.eng i 0x0804)
  else
    match (s.stop f).pend.findIdx? (fun p => p.index = i && p.part = w.part) with
    | some n =>
      (s.modStop f (fun q => { q with pend := modAt q.pend n (fun p =>
        { p with waiters := if p.waiters.any (fun x => x.eng = w.eng) then p.waiters else p.waiters ++ [w],
                 rd := p.rd || !w.write, wr := p.wr || w.write }) })).send (.halt w.eng i 0)
    | none =>
      if 32 ≤ (s.stop f).pend.length then
        s.modStop f (fun q => { q with walks := q.walks ++ [⟨line, false, [w], [], 0⟩] })
      else
        let all := group.filter (fun x => s.waitIndex x = i && x.part = w.part)
        let rd := all.any (fun x => !x.write)
        let wr := all.any Waiter.write
        let r : FaultRec := ⟨w.part, kind, rd, wr, waiterMask all, w, i, e, s.tick⟩
        ((s.modStop f (fun q => { q with pend := q.pend ++ [⟨i, w.part, [w], !w.write, w.write, none, none⟩] })).send
          (.faultRec f r)).send (.halt w.eng i 0)

/-- One waiter of a returned line. -/
def State.answerWaiter (s : State) (f line : Nat) (group : List Waiter) (stale : List Engine) (es : List Word)
    (w : Waiter) : State :=
  if stale.contains w.eng then s.send (.fill w.eng line es false none)
  else
    match s.waitFate w es with
    | .usable _ => s.send (.fill w.eng line es true none)
    | .bad => s.send (.halt w.eng (s.waitIndex w) 0x0803)
    | .fault k => s.faultOne f line group es w k

/-- A pending fault whose replay has re-read the line (R316): an entry that still faults keeps its waiters; else each waiter is
answered by what its own segment says. An engine an invalidation has reached since does not use it (R319); a fault with the ring
disabled meanwhile is refused (R315). -/
def State.answerReplay (s : State) (f line : Nat) (stale : List Engine) (es : List Word) (p : Pending) : State :=
  match p.waiters with
  | [] => s.modStop f (fun q => { q with pend := q.pend.erase p })
  | w :: _ =>
    let answer := fun (x : Waiter) => match s.waitFate x es with
      | .usable _ => Pkt.fill x.eng line es (!stale.contains x.eng) (some p.index)
      | _ => Pkt.halt x.eng p.index 0x0803
    match s.waitFate w es with
    | .usable _ => (s.modStop f (fun q => { q with pend := q.pend.erase p })).sendAll ((sortWaiters p.waiters).map answer)
    | .bad => (s.modStop f (fun q => { q with pend := q.pend.erase p })).sendAll ((sortWaiters p.waiters).map answer)
    | .fault k =>
      if !(s.part p.part).fringOn then
        (s.modStop f (fun q => { q with pend := q.pend.erase p })).sendAll
          ((sortWaiters p.waiters).map (fun x => .halt x.eng p.index 0x0804))
      else
      let r : FaultRec := ⟨p.part, k, p.rd, p.wr, waiterMask p.waiters, w, p.index, es.getD (p.index % 16) 0#32, s.tick⟩
      (s.modStop f (fun q => { q with pend := q.pend.map (fun x => if x = p then { x with replay := none } else x) })).send
        (.faultRec f r)

/-- A returned line is a faulting walk (CHT_WALK_FAULT_CNT, Table 9.7) when a waiter or a replay finds its entry
absent or migrating. One walk counts once, however many requests joined it (DEDUCED from R313's "a later walk, or a
joined request"; log 46). -/
def State.walkFaults (s : State) (ws : List Waiter) (stale : List Engine) (rs : List Pending) (es : List Word) : Bool :=
  let hit := fun (w : Waiter) => match s.waitFate w es with
    | .fault _ => true
    | _ => false
  ws.any (fun w => !stale.contains w.eng && hit w) || rs.any (fun p => (p.waiters.head?.map hit).getD false)

/-- CHART_LINE_RETURN: the line of a taken walk is back. (DEDUCED, log 46) -/
def State.lineReturn (s : State) (f line : Nat) : State :=
  let back := fun (k : Walk) => s.fab.accs.find? (fun a => a.no = k.acc && a.owner = .walk f line && a.done)
  match (s.stop f).walks.find? (fun k => k.taken && k.line = line && (back k).isSome) with
  | some k =>
    let es := (chunks 4 16 (((back k).map FabAcc.got).getD [])).map (fun b => BitVec.ofNat 32 (ofLe b))
    let s := { s with fab := { s.fab with accs := s.fab.accs.eraseP (fun a => a.no = k.acc) } }
    let s := s.modStop f (fun q => { q with walks := q.walks.erase k })
    let ws := sortWaiters k.waiters
    let s := if s.walkFaults ws k.stale ((s.stop f).pend.filter (fun p => p.replay = some k.acc)) es then
        s.modCht (fun c => { c with faultCnt := sat32 c.faultCnt 1 })
      else s
    let s := ws.foldl (fun s w => s.answerWaiter f line (ws.filter (fun w => !k.stale.contains w.eng)) k.stale es w) s
    let rs := (s.stop f).pend.filter (fun p => p.replay = some k.acc)
    rs.foldl (fun s p => s.answerReplay f line k.stale es p) s
  | none => s

/-! ## Replies -/

/-- Slots of a core changed. -/
def State.mapSlots (s : State) (c : Nat) (f : StrSlot → StrSlot) : State :=
  s.modStr c (fun u => { u with slots := u.slots.map f })

/-- WALK_FILL_REPLY: the line fills the cache and waiting requests go on (R311); what has halted on a fault resumes when the reply answers
the replay of its index (R293, R316); a line an invalidation has marked is not used, and a new walk begins (R319). -/
def State.walkFill (s : State) (e : Engine) : State :=
  match s.eject (fun p => match p with
    | .fill x _ _ _ _ => x = e
    | _ => false) with
  | some (.fill _ line es use rep, s) =>
    if !use then
      s.mapWalks e (fun w => some (if w.index / 16 = line then { w with st := .toSend } else w))
    else
      let l : CacheLine := ⟨line, es⟩
      let s := s.mapWalks e (fun w =>
        if w.index / 16 = line ∧ (w.st ≠ .halted ∨ rep = some w.index) then none else some w)
      match e with
      | .core c =>
        (s.modCore c (fun q => { q with mmu := { q.mmu with cache := cacheFill q.mmu.cache 32 l } })).mapSlots c
          (fun t => match t.walking with
            | some i =>
              if i / 16 = line then
                if t.st = .halted then (if rep = some i then { t with st := .running, walking := none } else t)
                else { t with walking := none }
              else t
            | none => t)
      | .intake _ => s.modCht (fun c => { c with itk := { c.itk with cache := cacheFill c.itk.cache 8 l } })
      | .link _ => s.modCht (fun c => { c with lnk := { c.lnk with cache := cacheFill c.lnk.cache 8 l } })
      | .walker _ => s
  | _ => s

/-- A core's walk of an index has been refused: the core stops by the command of the slot or swap that waits for it; of an image load,
the job ends. -/
def State.walkRefused (s : State) (c i st : Nat) (endJob : State → Job → Nat → State) : State :=
  let q := s.core c
  let by_ := ((q.mmu.walks.filter (fun w => w.index = i)).map OutWalk.by_)
  let slot := (q.str.slots.find? (fun t => t.walking = some i)).map StrSlot.tag
  let swap := (q.elm.swaps.find? (fun w => by_.contains (6 + w.sh))).map q.swapTag
  let s := s.mapWalks (if h : c < 32 then .core ⟨c, h⟩ else .core 0) (fun w => if w.index = i then none else some w)
  match slot.or swap with
  | some g => s.onCore c (fun q => if q.seq.stop.isSome then q else q.stopTag st g)
  | none =>
    match by_.contains 22, s.jobOf c with
    | true, some j => endJob s j st
    | _, _ => s

/-- WALK_HALT_REPLY: the engine stalls on the fault (R292), or is refused: a core stops, the Intake and the inbound
link path note the refusal for their own rules. -/
def State.walkHalt (s : State) (e : Engine) (endJob : State → Job → Nat → State) : State :=
  match s.eject (fun p => match p with
    | .halt x _ _ => x = e
    | _ => false) with
  | some (.halt _ i st, s) =>
    match e with
    | .core c =>
      if st ≠ 0 then s.walkRefused c i st endJob
      else
        let n := ((s.core c).str.slots.filter (fun t => t.walking = some i && t.st = .running)).length
        let s := s.mapWalks e (fun w => some (if w.index = i then { w with st := .halted } else w))
        let s := s.modStr c (fun u => { u with fault := sat32 u.fault n })
        s.mapSlots c (fun t =>
          match t.walking with
          | some j =>
            if j = i then
              (if t.st = .running then
                { t with st := .halted, pos5 := indices t.pos t.desc.counts, posIdx := t.idx, faulted := true }
              else t)
            else if j / 16 = i / 16 ∧ t.st = .running then { t with walking := none }
            else t
          | none => t)
    | _ =>
      s.mapWalks e (fun w => some (if w.index = i then { w with st := if st = 0 then .halted else .refused st } else w))
  | _ => s

/-! ## The fault ring (R314, R315) -/

/-- FAULT_RECORD_PACKET: a record reaches the ring writer; none waits while the ring is disabled (R315). -/
def State.faultPacket (s : State) (f : Nat) : State :=
  match s.eject (fun p => match p with
    | .faultRec x _ => x = f
    | _ => false) with
  | some (.faultRec _ r, s) =>
    if (s.part r.part).fringOn then s.modPart r.part (fun p => { p with fringWait := p.fringWait ++ [r] }) else s
  | _ => s

/-- Ring counters with phase: full when they differ by 2^k (R315, R350). -/
def ringFull (k head tail : Nat) : Bool := (tail + 2 ^ (k + 1) - head % 2 ^ (k + 1)) % 2 ^ (k + 1) = 2 ^ k

/-- The record's bytes (Table 9.5). -/
def FaultRec.bytes (r : FaultRec) (seq : Word) (phase : Bool) : List Byte :=
  toLe 4 (r.kind + 4 * b2n r.rd + 8 * b2n r.wr + 16 * r.part + 128 * b2n phase) ++ toLe 4 seq.toNat ++
    toLe 8 r.first.addr ++ toLe 8 r.mask ++ toLe 4 r.index ++ toLe 4 r.entry.toNat ++ toLe 8 r.tick ++
    toLe 1 (eaSeg r.first.addr) ++ toLe 1 r.first.eng.num ++ List.replicate 22 0#8

/-- FAULT_RECORD_WRITE: the oldest waiting record goes to the ring when it has room. -/
def State.faultWrite (s : State) (p : Nat) : State :=
  let q := s.part p
  match q.fringWait with
  | [] => s
  | r :: rest =>
    if !q.fringOn || ringFull q.fringK q.fringHead q.fringTail || s.inScrub p then s
    else
      let k := q.fringK
      let base := fld 31 6 q.fringLo.toNat * 64 + fld 15 0 q.fringHi.toNat * 2 ^ 32
      let bs := r.bytes q.fringSeq (!q.fringTail.testBit k)
      let s := s.modPart p (fun q => { q with
        fringWait := rest, fringTail := (q.fringTail + 1) % 2 ^ (k + 1), fringSeq := q.fringSeq + 1#32,
        faultCnt := sat32 q.faultCnt 1 })
      let set := fun (st : WalkStop) => { st with pend := st.pend.map (fun x =>
        if x.index = r.index ∧ x.part = p then { x with seq := some q.fringSeq } else x) }
      let s := s.modCht (fun c => { c with stops := c.stops.map set })
      s.access (.faultRecord p) true false false (base + 64 * (q.fringTail % 2 ^ k)) 64 bs (some p) none 40

/-- The fabric has acknowledged a fault record: the interrupt, when enabled (R315). -/
def State.faultAcked (s : State) (p : Nat) : State :=
  if (s.part p).fringCfg.getLsbD 4 then s.msi p 1 else s

/-- A partition with a running or parked job. -/
def State.hasJob (s : State) (p : Nat) : Bool := s.grid.jobs.any (fun j => j.part = p)

/-- Pending faults of a partition that a predicate admits are refused: their waiters hear 0x0804 (R315, R316). -/
def State.abortPending (s : State) (p : Nat) (which : Pending → Bool) : State :=
  let hit := s.cht.stops.flatMap (fun st => st.pend.filter (fun x => x.part = p && which x))
  let s := s.modCht (fun c => { c with stops := c.stops.map (fun st =>
    { st with pend := st.pend.filter (fun x => !(x.part = p && which x)) }) })
  s.sendAll (hit.flatMap (fun x => (sortWaiters x.waiters).map (fun w => .halt w.eng x.index 0x0804)))

/-- CHT_FRING_CFG (R315): enabling clears the counters; disabling is ignored while a job runs or is parked, and
otherwise aborts what has no record yet. -/
def State.fringCfg (s : State) (p v : Nat) : State :=
  let on := (s.part p).fringCfg.getLsbD 5
  let w := BitVec.ofNat 32 (v % 64)
  if !v.testBit 5 && on then
    if s.hasJob p then s
    else
      let waits := fun (x : Pending) =>
        (s.part p).fringWait.any (fun r => r.index = x.index) ||
          s.mesh.any (fun k => match k with
            | .faultRec _ r => r.part = p && r.index = x.index
            | _ => false)
      ((s.modPart p (fun q => { q with fringCfg := w, fringWait := [] })).abortPending p (fun x => x.seq.isNone || waits x))
  else if v.testBit 5 && !on then
    s.modPart p (fun q => { q with fringCfg := w, fringTail := 0, fringHead := 0, fringSeq := 0 })
  else s.modPart p (fun q => { q with fringCfg := w })

/-- CHT_FRING_HEAD. -/
def State.fringHead (s : State) (p v : Nat) : State := s.modPart p (fun q => { q with fringHead := v % 2 ^ 13 })

/-! ## Replay (R316) -/

/-- CHT_REPLAY: a 64-bit write. -/
def State.replayWrite (s : State) (p : Nat) (d : DWord) : State :=
  let seq : Word := d.setWidth 32
  match (List.range 2).find? (fun f => (s.stop f).pend.any (fun x => x.part = p && x.seq = some seq)) with
  | some f => s.send (.release f p seq (d.getLsbD 32))
  | none => s.modPart p (fun q => { q with staleCnt := sat32 q.staleCnt 1 })

/-- REPLAY_RELEASE: the walker refuses the waiters, or re-reads the line. -/
def State.replayRelease (s : State) (f : Nat) : State :=
  match s.eject (fun p => match p with
    | .release x _ _ _ => x = f
    | _ => false) with
  | some (.release _ p seq abort, s) =>
    match (s.stop f).pend.find? (fun x => x.part = p && x.seq = some seq) with
    | none => s
    | some x =>
      if abort then s.abortPending p (fun y => y = x)
      else
        let line := x.index / 16
        let s := s.modStop f (fun q => { q with
          pend := q.pend.map (fun y => if y = x then { y with replay := some s.fab.next } else y)
          walks := q.walks ++ [⟨line, true, [], [], s.fab.next⟩] })
        let s := s.modCht (fun c => { c with walkCnt := sat32 c.walkCnt 1 })
        let a := s.chartLine line
        s.access (.walk f line) false a.2 false a.1 64 [] (some p) none (32 + f)
  | _ => s

/-! ## Edits and reads (R318) -/

/-- CHT_EDIT_CTRL with go. -/
def State.editGo (s : State) (v : Nat) : State :=
  if !v.testBit 31 then s
  else if s.cht.edit.isSome then s.modCht (fun c => { c with editOver := true })
  else
    let read := v.testBit 17
    let n := if read then 1 else fld 15 0 v + 1
    let i := s.cht.editIndex
    let past := 2 ^ s.cfg.chartLog < i + n
    let lines := (List.range ((i + n - 1) / 16 + 1 - i / 16)).map (fun k => i / 16 + k)
    let e : Edit := ⟨i, s.cht.editValue, n, v.testBit 16, read, [], if past then 0 else lines.length, past, past⟩
    let s := s.modCht (fun c => { c with edit := some e })
    if past then s
    else lines.foldl (fun s l =>
      let a := s.chartLine l
      s.access (.edit l) false a.2 false a.1 64 [] none none (32 + l % 2)) s

/-- Entry i as the lines read hold it. -/
def Edit.entry (e : Edit) (i : Nat) : Nat :=
  match e.got.find? (fun x => x.1 = i / 16) with
  | some x => leAt x.2 (4 * (i % 16)) 4
  | none => 0

/-- The new value of the k-th entry: the frame field steps with nf_step. -/
def Edit.value' (e : Edit) (k : Nat) : Nat :=
  let v := e.value.toNat
  if e.step then v - fld 27 8 v * 256 + (fld 27 8 v + k) % 2 ^ 20 * 256 else v

/-- The edit would take a pinned-host entry to migrating or near. -/
def Edit.bad (e : Edit) : Bool :=
  !e.read && (List.range e.count).any (fun k =>
    fld 2 0 (e.entry (e.index + k)) = 4 && (fld 2 0 (e.value' k) = 2 || fld 2 0 (e.value' k) = 3))

/-- A line an edit reads has come; with the last one the edit is refused, or its writes are issued. -/
def State.editLine (s : State) (line : Nat) (data : List Byte) : State :=
  match s.cht.edit with
  | none => s
  | some e0 =>
    if e0.wrote then s
    else
    let e := { e0 with got := e0.got ++ [(line, data)], left := e0.left - 1 }
    if 0 < e.left then s.modCht (fun c => { c with edit := some e })
    else if e.read then
      s.modCht (fun c => { c with
        edit := some { e with wrote := true }, editValue := BitVec.ofNat 32 (e.entry e.index) })
    else if e.bad then s.modCht (fun c => { c with edit := some { e with wrote := true, refused := true } })
    else
      let s := s.modCht (fun c => { c with edit := some { e with wrote := true } })
      e.got.foldl (fun s x =>
        let lo := max e.index (16 * x.1)
        let hi := min (e.index + e.count) (16 * x.1 + 16)
        let bs := (List.range (hi - lo)).flatMap (fun k => toLe 4 (e.value' (lo + k - e.index)))
        let a := s.chartLine x.1
        s.access (.edit x.1) true a.2 false (a.1 + 4 * (lo % 16)) bs.length bs none none (32 + x.1 % 2)) s

def FabOwner.isEdit : FabOwner → Bool
  | .edit _ => true
  | _ => false

/-- CHART_EDIT_DONE. -/
def State.editDone (s : State) : State :=
  match s.cht.edit with
  | some e =>
    if e.wrote && s.fab.accs.all (fun a => !(a.owner.isEdit && !a.done)) then
      let s := { s with fab := { s.fab with accs := s.fab.accs.filter (fun a => !a.owner.isEdit) } }
      (s.modCht (fun c => { c with edit := none, editDone := true, editRefused := c.editRefused || e.refused })).mark 4 0x2C
        (if e.refused then 6 else 2)
    else s
  | none => s

/-! ## Page moves (R318) -/

/-- Address of piece k of the page at each end, and whether it lies behind the near-memory port. -/
def State.moveAddr (s : State) (m : Move) (k : Nat) (home : Bool) : Nat × Bool :=
  if home then (m.home + 1024 * k, false)
  else if s.cht.carve then (s.cht.nearBase + m.frame * 65536 + 1024 * k, false)
  else (m.frame * 65536 + 1024 * k, s.cfg.nearPort)

/-- The next read of a move, at most 32 requests being outstanding. -/
def State.moveRead (s : State) : State :=
  match s.cht.move with
  | some m =>
    if m.issued < 64 && m.issued < m.acked + 32 then
      let a := s.moveAddr m m.issued (!m.toHome)
      (s.modCht (fun c => { c with move := some { m with issued := m.issued + 1 } })).access (.moveRead m.issued) false a.2
        false a.1 1024 [] none none 40
    else s
  | none => s

/-- CHT_MOVE_CTRL with go. -/
def State.moveGo (s : State) (v : Nat) : State :=
  if !v.testBit 31 then s
  else if s.cht.move.isSome then s.modCht (fun c => { c with moveOver := true })
  else
    let s := s.modCht (fun c => { c with move := some ⟨c.moveHome, fld 19 0 v, v.testBit 20, 0, 0⟩ })
    (List.range 32).foldl (fun s _ => s.moveRead) s

/-- A piece read is written to the other end. -/
def State.moveGot (s : State) (k : Nat) (data : List Byte) : State :=
  match s.cht.move with
  | some m =>
    let a := s.moveAddr m k m.toHome
    (s.dropAccs (.moveRead k)).access (.moveWrite k) true a.2 false a.1 1024 data none none 40
  | none => s

/-- A piece written has been acknowledged. -/
def State.moveAcked (s : State) (k : Nat) : State :=
  match s.cht.move with
  | some m => ((s.dropAccs (.moveWrite k)).modCht (fun c => { c with move := some { m with acked := m.acked + 1 } })).moveRead
  | none => s

/-- PAGE_MOVE_DONE. -/
def State.moveDone (s : State) : State :=
  match s.cht.move with
  | some m => if 64 ≤ m.acked then (s.modCht (fun c => { c with move := none, moveDone := true })).mark 4 0x54 2 else s
  | none => s

/-! ## Invalidation (R319) -/

/-- The engines an invalidation visits: the cores, the walker stops, the Intake, the inbound link path. -/
def State.engines (s : State) : List Engine :=
  (List.finRange 32).filter (fun c => c.val < s.cfg.cores) |>.map Engine.core |>
    (· ++ [.walker 0, .walker 1, .intake 0, .link 0])

def State.startInv (s : State) (i n segs p : Nat) : State :=
  s.modCht (fun c => { c with inv := some ⟨i, n, segs, p, s.engines, [], []⟩ })

/-- CHT_INV_CTRL with go: up to 4 wait behind the one in progress. -/
def State.invGo (s : State) (v : Nat) : State :=
  let c := s.cht
  let x := (c.invFirst, c.invCount + 1, c.invSegs % 65536, fld 18 16 c.invSegs)
  if !v.testBit 0 then s
  else if c.inv.isNone then s.startInv x.1 x.2.1 x.2.2.1 x.2.2.2
  else if 4 ≤ c.invQueue.length then s.modCht (fun c => { c with invOver := true })
  else s.modCht (fun c => { c with invQueue := c.invQueue ++ [x] })

/-- The Intake and the link path are one engine each. -/
def Engine.unit : Engine → Engine
  | .core c => .core c
  | .intake _ => .intake 0
  | .link _ => .link 0
  | .walker f => .walker f

/-- The engines that are one unit: the Intake's sessions, the link path's partitions. -/
def Engine.all (e : Engine) : List Engine :=
  match e with
  | .core c => [.core c]
  | .intake _ => (List.finRange 8).map .intake
  | .link _ => (List.finRange 8).map .link
  | .walker _ => []

/-- A Chart line holds an entry of a range. -/
def lineHit (first count line : Nat) : Bool := first < 16 * line + 16 && 16 * line < first + count

/-- Segment copies reloaded from the partition's registers under a mask. -/
def reloadSegs (mask : Nat) (regs copies : List Seg) : List Seg :=
  (List.range 16).map (fun i => if mask.testBit i then regs.getD i Seg.zero else copies.getD i Seg.zero)

/-- A read has returned, or a write has been accepted by its stop. -/
def FabAcc.past (a : FabAcc) : Bool := if a.write then a.accepted else a.done

/-- Serial numbers of an engine's reads that have not returned and of its writes that no stop has accepted. -/
def State.engAccs (s : State) (e : Engine) : List Nat :=
  (s.fab.accs.filter (fun a => !a.past && (match e, a.owner with
    | .core c, .stream x _ _ => x = c.val
    | .core c, .write x _ _ => x = c.val
    | .core c, .swapOut x _ _ => x = c.val
    | .core c, .swapIn x _ => x = c.val
    | .core c, .image _ _ x => x = c.val
    | .intake _, .sampleRecord _ => true
    | .intake _, .sampleData _ _ => true
    | .intake _, .intakeWrite _ _ => true
    | .intake _, .frameWrite _ _ => true
    | .link _, .inbound _ _ => true
    | _, _ => false))).map FabAcc.no

/-- Stream requests of an engine that are outstanding. -/
def State.engReqs (s : State) (e : Engine) : List (Nat × Nat × Nat × Nat) :=
  match e with
  | .core c => (List.range 6).flatMap (fun k => (s.slot c k).reqs.map (fun r => (c.val, k, (s.slot c k).take, r.no)))
  | _ => []

/-- INVALIDATION_REACH_ENGINE: the engine drops lines, reloads segment copies, and walks in flight on such lines, which it may not
join any more, and lines already on their way to it, will not be used. At a walker stop the walks in flight there are marked for
every engine. -/
def State.invReach (s : State) (e : Engine) : State :=
  let e := e.unit
  match s.cht.inv with
  | none => s
  | some v =>
    if !v.reach.contains e then s
    else
      let keep := fun (l : CacheLine) => !lineHit v.first v.count l.line
      let regs := (s.part v.part).segs
      let s := match e with
        | .core c =>
          let mine := s.partOf c = v.part
          s.modCore c (fun q => { q with mmu := { q.mmu with
            cache := q.mmu.cache.filter keep
            segs := if mine then reloadSegs v.segs regs q.mmu.segs else q.mmu.segs } })
        | .intake _ => s.modCht (fun c => { c with itk := { c.itk with
            cache := c.itk.cache.filter keep, segs := modAt c.itk.segs v.part (reloadSegs v.segs regs) } })
        | .link _ => s.modCht (fun c => { c with lnk := { c.lnk with
            cache := c.lnk.cache.filter keep, segs := modAt c.lnk.segs v.part (reloadSegs v.segs regs) } })
        | .walker _ => s
      let every := (s.engines.flatMap Engine.all)
      let mark := fun (f : Nat) (k : Walk) =>
        if lineHit v.first v.count k.line then
          { k with stale := ((match e with
            | .walker g => if g.val = f && k.taken then every else []
            | _ => e.all).filter (fun x => !k.stale.contains x)) ++ k.stale }
        else k
      let unuse := fun (p : Pkt) => match p with
        | .fill x line es use rep => Pkt.fill x line es (use && !(x.unit = e && lineHit v.first v.count line)) rep
        | p => p
      let s := { s with mesh := s.mesh.map unuse }
      let v' := { v with
        reach := v.reach.erase e, acks := v.acks ++ [(e, s.engAccs e)], reqs := v.reqs ++ s.engReqs e }
      s.modCht (fun c => { c with
        inv := some v'
        stops := ((List.range c.stops.length).zip c.stops).map (fun x => { x.2 with walks := x.2.walks.map (mark x.1) }) })

/-- INVALIDATION_ACK: the engine's earlier requests have all returned; the last acknowledgement completes the
invalidation and the next one starts. -/
def State.invAck (s : State) (e : Engine) : State :=
  let e := e.unit
  match s.cht.inv with
  | none => s
  | some v =>
    match v.acks.find? (fun a => a.1 = e) with
    | none => s
    | some a =>
      let live := s.engReqs e
      if s.fab.accs.any (fun x => a.2.contains x.no && !x.past) || v.reqs.any (fun r => live.contains r) then s
      else
        let v' := { v with acks := v.acks.erase a }
        if !v'.reach.isEmpty || !v'.acks.isEmpty then s.modCht (fun c => { c with inv := some v' })
        else
          let s := (s.modCht (fun c => { c with inv := none, invDone := true })).mark 4 0x40 16
          match s.cht.invQueue with
          | [] => s
          | x :: r => (s.modCht (fun c => { c with invQueue := r })).startInv x.1 x.2.1 x.2.2.1 x.2.2.2

end Sys2Proof.Machine
end

