-- ==== Sys2Proof/Machine/Jobs.lean ====
section
/-! DEFINITION. The path of a job: doorbells, dispatch, descriptor checks, admission, image checks and loads, starts,
completion, pinned jobs (sections 1, 6, 10 and 12). -/

namespace Sys2Proof.Machine

/-! ## Rings -/

def Ring.k (r : Ring) : Nat := fld 3 0 r.cfg.toNat
def Ring.on (r : Ring) : Bool := r.cfg.getLsbD 4 && 2 ≤ r.k && r.k ≤ 12
def Ring.base (r : Ring) : Nat := fld 31 7 r.baseLo.toNat * 128 + fld 15 0 r.baseHi.toNat * 2 ^ 32

def Part.cringK (p : Part) : Nat := fld 3 0 p.cringCfg.toNat
def Part.cringOn (p : Part) : Bool := p.cringCfg.getLsbD 4 && 4 ≤ p.cringK && p.cringK ≤ 12

/-- The pinned job of a ring. -/
def State.ringJob (s : State) (p r : Nat) : Option Job :=
  s.grid.jobs.find? (fun j => j.part = p && j.ring = r && j.pin)

/-- A run of a hot ring is in progress: its job is not parked. -/
def State.runBusy (s : State) (p r : Nat) : Bool :=
  match s.ringJob p r with
  | some j => j.phase ≠ .parked
  | none => true

/-- The ring's pinned job has stopped: its pin is ending (R349). -/
def State.runStopped (s : State) (p r : Nat) : Bool :=
  match s.ringJob p r with
  | some j => j.status ≠ 0
  | none => false

/-- Pending runs as HST_RINGn_STATUS counts them: without the one that only waits for window writes (R48). -/
def State.pendingCount (s : State) (p r : Nat) : Nat :=
  (s.ring p r).pendingRuns.length - (if s.runBusy p r then 0 else 1)

/-- The arrival order's next place. -/
def State.stamp (s : State) : Nat × State := (s.grid.seq, s.modGrid (fun g => { g with seq := g.seq + 1 }))

/-- Window writes to the partition that arrived before a place in the order have retired (R47, R345). -/
def State.winsRetired (s : State) (p seq : Nat) : Bool :=
  s.grid.wins.all (fun w => !(w.part = some p && w.seq < seq))

/-! ## Doorbells (R341, R342, R35, R45, R48) -/

/-- A hot doorbell: a pending run, or an overflow. -/
def State.hotBell (s : State) (p r : Nat) (tail : Word) (seq : Nat) : State :=
  let cap := if s.runBusy p r then 15 else 16
  if (s.ring p r).pendingRuns.length < cap then
    s.modRing p r (fun q => { q with pendingRuns := q.pendingRuns ++ [(tail, s.tick, seq)] })
  else s.modRing p r (fun q => { q with overflows := min 255 (q.overflows + 1) })

/-- The doorbell that published a position: the first whose tail lies beyond it (R34, R336); `d` where none is kept.
(DEDUCED, log 75) -/
def Ring.bellOf (q : Ring) (pos : Word) (d : Nat × Nat) : Nat × Nat :=
  match q.bells.find? (fun b => 0 < (b.1 - pos).toInt) with
  | some b => b.2
  | none => d

/-- An ordinary doorbell that is not dropped: it restarts the ring's re-reads (R344), and updates its ring's queue entry or
appends one; one that repeats the last tail updates only the generation. -/
def State.queueBell (s : State) (p r : Nat) (gen : Half) (tail : Word) (seq : Nat) : State :=
  let same := tail = (s.ring p r).tail
  let s := s.modGrid (fun g => { g with fetches := g.fetches.map (fun f =>
    if f.part = p ∧ f.ring = r ∧ f.retrying then { f with tries := 0, nextTry := s.tick } else f) })
  if same then s.modRing p r (fun q => { q with gen := gen })
  else
    let s := s.modRing p r (fun q => { q with gen := gen, tail := tail, bells := q.bells ++ [(tail, s.tick, seq)] })
    if s.grid.disp.any (fun e => e.part = p && e.ring = r) then s
    else s.modGrid (fun g => { g with disp := g.disp ++ [⟨p, r, s.tick, seq, false⟩] })

/-- A doorbell value presented to a partition, by the host or by a wake rule: R45 and R46 come first. In watch mode one for another partition
starts a wake (R409). -/
def State.presentBell (s : State) (p : Nat) (d : DWord) : State :=
  let x := d.toNat
  let r := fld 2 0 x
  let gen : Half := BitVec.ofNat 16 (fld 31 16 x)
  let tail : Word := BitVec.ofNat 32 (fld 63 32 x)
  let q := s.ring p r
  let st := s.stamp
  let seq := st.1
  let s := st.2
  let hot := q.hot && !q.unpin && q.pinnedGen = gen && !s.runStopped p r
  if s.inScrub p || (!hot && fld 15 3 x ≠ 0) then s.dropBell p
  else
    let s := if s.grid.watch = .watch ∧ s.grid.watchPart ≠ p then s.modGrid (fun g => { g with watch := .waking }) else s
    if hot then s.hotBell p r tail seq
    else if !q.on || 2 ^ q.k < (tail - q.head).toNat || !(s.part p).cringOn then s.dropBell p
    else s.queueBell p r gen tail seq

/-! ## Dispatch (R36, R37) -/

/-- Control core 0 may take work of an enabled partition: a disabled one holds no cores (R33, R388). No activation is under way (R516), and
in watch mode only the watch partition's jobs start. (DEDUCED, log 75) -/
def State.mayDispatch (s : State) (p : Nat) : Bool :=
  s.alm.st ≠ .activating && (s.part p).enable &&
  match s.grid.watch with
  | .normal => true
  | .watch => p = s.grid.watchPart
  | _ => false

/-- Fetches of a ring in progress. -/
def State.ringFetches (s : State) (p r : Nat) : List Fetch :=
  s.grid.fetches.filter (fun f => f.part = p && f.ring = r)

/-- Descriptor fetches outstanding: their data has not returned (R37). -/
def State.fetchesOut (s : State) : Nat :=
  (s.fab.accs.filter (fun a => !a.done && (match a.owner with
    | .desc _ _ _ => true
    | _ => false))).length

/-- A job whose images control core 0 is reading: it works on one descriptor at a time (R37). -/
def State.openJob (s : State) : Option Job := s.grid.jobs.find? (fun j => j.phase = .table || j.phase = .headers)

/-- Control core 0 is dispatching a job: from the fetch of its descriptor to its start packets, the load of its images among it. A ring
that only waits for a re-read is not (R37, R344). (DEDUCED, log 75) -/
def State.dispatching (s : State) : Bool :=
  s.fetchesOut ≠ 0 || s.grid.fetches.any (fun f => !(s.ring f.part f.ring).retrying) ||
    s.grid.jobs.any (fun j => j.phase = .table || j.phase = .headers || j.phase = .loading)

def State.issueFetch (s : State) (p r : Nat) (pos : Word) : State :=
  let q := s.ring p r
  s.access (.desc p r pos) false false true (q.base + 128 * (pos.toNat % 2 ^ q.k)) 128 [] (some p) none 40

/-- DISPATCH_TAKE: the first queue entry that can be served; up to 4 fetches are outstanding (R37). An entry whose ring holds
more goes to the back. A partition in reset or in scrub keeps its entries (R452, R482). -/
def State.dispatchTake (s : State) : State :=
  if 4 ≤ s.fetchesOut then s
  else
    match s.grid.disp.find? (fun e => !e.held && s.mayDispatch e.part && !s.barred e.part &&
        (s.ringFetches e.part e.ring).all (fun f => !f.retrying)) with
    | none => s
    | some e =>
      let q := s.ring e.part e.ring
      let pos := q.head + BitVec.ofNat 32 (s.ringFetches e.part e.ring).length
      let rest := s.grid.disp.erase e
      if pos = q.tail || !q.on then s.modGrid (fun g => { g with disp := rest })
      else
        let more := pos + 1#32 ≠ q.tail
        let bell := q.bellOf pos (e.tick, e.seq)
        let s := s.modGrid (fun g => { g with
          disp := if more then rest ++ [e] else rest,
          fetches := g.fetches ++ [⟨e.part, e.ring, pos, bell.1, bell.2, 0, false, 0⟩] })
        s.issueFetch e.part e.ring pos

/-! ## Records (R42, R350 to R353) -/

/-- Issue the partition's waiting records while its ring has room. -/
def State.pumpRecords (s : State) (p : Nat) : Nat → State
  | 0 => s
  | n + 1 =>
    let q := s.part p
    match s.grid.records.find? (fun r => r.part = p && r.issued.isNone) with
    | none => s
    | some r =>
      if !q.cringOn || s.inScrub p || ringFull q.cringK q.cringHead q.cringTail then s
      else
        let k := q.cringK
        let base := fld 31 6 q.cringLo.toNat * 64 + fld 15 0 q.cringHi.toNat * 2 ^ 32
        let b0 := BitVec.ofNat 8 (leAt r.bytes 0 1 + b2n (!q.cringTail.testBit k))
        let no := s.fab.next
        let s := s.modGrid (fun g => { g with records := g.records.map (fun x =>
          if x = r then { x with issued := some no } else x) })
        let s := s.modPart p (fun q => { q with cringTail := (q.cringTail + 1) % 2 ^ (k + 1) })
        let s := s.access (.record p) true false false (base + 64 * (q.cringTail % 2 ^ k)) 64 (b0 :: r.bytes.drop 1)
          (some p) none 40
        State.pumpRecords s p n

def State.post (s : State) (r : Record) : State :=
  (s.modGrid (fun g => { g with records := g.records ++ [r] })).pumpRecords r.part (s.grid.records.length + 1)

/-- The record of a job or hot run (Table 10.6), phase bit clear. (DEDUCED, log 63) -/
def State.jobRecord (s : State) (j : Job) : Record :=
  let t0 := j.tStart.getD s.tick
  let tf := max t0 j.tFinal
  let pinned := j.kind = 1 || (j.pin && j.status = 0 && j.kind = 0)
  let head := 2 * j.kind + 8 * j.ring + 64 * b2n j.measured + 128 * b2n pinned + 256 * min 255 j.replays +
    2 ^ 16 * j.status
  let stamp := j.stamp.toNat + 2 ^ 16 * (j.stopCore.getD 0) + 2 ^ 21 * b2n j.stopCore.isSome
  ⟨j.part, j.ring, j.kind,
    toLe 4 head ++ toLe 4 stamp ++ toLe 4 j.pos.toNat ++ toLe 4 j.numflags ++ slice j.desc 0x18 8 ++ toLe 8 j.bell ++
      toLe 8 t0 ++ toLe 8 tf ++ toLe 8 s.tick ++ toLe 4 (microJ j.energy) ++ toLe 4 (min (2 ^ 32 - 1) (tf - t0)),
    j.flags.testBit 0, true, j.energy, none, none⟩

/-- The record of a refused or abandoned descriptor (R353). -/
def State.refusalRecord (s : State) (p r : Nat) (desc : List Byte) (stamp : Half) (pos : Word) (bell status : Nat) :
    Record :=
  ⟨p, r, 0,
    toLe 4 (8 * r + 2 ^ 16 * status) ++ toLe 4 stamp.toNat ++ toLe 4 pos.toNat ++ toLe 4 0 ++ slice desc 0x18 8 ++
      toLe 8 bell ++ toLe 8 s.tick ++ toLe 8 s.tick ++ toLe 8 s.tick ++ toLe 4 0 ++ toLe 4 0,
    (leAt desc 2 2).testBit 0, false, 0, none, none⟩

/-- The record of an unpin (R348, R349). -/
def State.unpinRecord (s : State) (j : Job) (status : Nat) : Record :=
  ⟨j.part, j.ring, 2,
    toLe 4 (2 * 2 + 8 * j.ring + 2 ^ 16 * status) ++ toLe 4 j.stamp.toNat ++ toLe 4 j.dpos.toNat ++ toLe 4 0 ++
      slice j.desc 0x18 8 ++ toLe 8 j.bell ++ toLe 8 s.tick ++ toLe 8 s.tick ++ toLe 8 s.tick ++ toLe 4 (microJ j.energy) ++
      toLe 4 0,
    true, false, j.energy, none, none⟩

/-! ## Descriptor checks (R338, R339, Table 10.4) -/

/-- The descriptor at the ring's head is done with: the head moves on and its stamp is the last one taken. -/
def State.headOn (s : State) (p r : Nat) (stamp : Half) : State :=
  let s := s.modRing p r (fun q => { q with
    head := q.head + 1#32, stamp := stamp, retrying := false
    bells := q.bells.filter (fun b => 0 < (b.1 - (q.head + 1#32)).toInt) })
  let f := (s.ringFetches p r).head?
  s.modGrid (fun g => { g with
    fetches := match f with
      | some f => g.fetches.erase f
      | none => g.fetches })

def State.refuse (s : State) (p r : Nat) (desc : List Byte) (bell status : Nat) : State :=
  let stamp : Half := BitVec.ofNat 16 (leAt desc 0 2)
  let pos := (s.ring p r).head
  (s.headOn p r stamp).post (s.refusalRecord p r desc stamp pos bell status)

/-- A ring is hot, or its pinned job is in the run after which it will be: it counts among the 2 of R44. (DEDUCED, log 75) -/
def State.ringHot (s : State) (p r : Nat) : Bool :=
  (s.ring p r).hot || s.grid.jobs.any (fun j => j.part = p && j.ring = r && j.pin)

/-- Checks 1 to 5 of Table 10.4. -/
def State.descStatus (s : State) (p r : Nat) (d : List Byte) : Option Nat :=
  let flags := leAt d 2 2
  let mask := leAt d 4 4
  let hq := leAt d 0x10 8
  let pinned := s.grid.jobs.filter (fun j => j.part = p && (s.ring p j.ring).hot && j.pin)
  if 16 ≤ flags ∨ !((slice d 0x2A 86).all (· = 0#8)) ∨ (flags.testBit 2 ∧ leAt d 0x24 4 = 0) ∨ leAt d 0xE 2 ≠ 0 then
    some 0x0901
  else if mask = 0 ∨ mask &&& (s.part p).cores.toNat ≠ mask then some 0x0902
  else if (List.range 32).any (fun c => mask.testBit c && (s.grid.remap.getD c ⟨0, 0, 0⟩).state = 2) then some 0x0201
  else if pinned.any (fun j => leAt j.desc 4 4 &&& mask ≠ 0 || j.hqMask &&& hq ≠ 0) then some 0x0903
  else if flags.testBit 1 ∧ (s.ringHot p r ∨ 2 ≤ ((List.range 8).filter (s.ringHot p)).length) then some 0x0904
  else none

/-- A running job of the partition holds one of the cores or queues (R339). -/
def State.coresHeld (s : State) (p : Nat) (d : List Byte) : Bool :=
  s.grid.jobs.any (fun j => j.part = p && j.phase ≠ .table && j.phase ≠ .headers &&
    (leAt j.desc 4 4 &&& leAt d 4 4 ≠ 0 || j.hqMask &&& leAt d 0x10 8 ≠ 0))

/-- Is a fetched descriptor current (R343)? -/
def descCurrent (s' gen last : Half) (p t : Word) : Bool :=
  if p = t - 1#32 then s' = gen
  else (t - p).toInt > 1 && 0 ≤ (s' - last).toInt && 0 ≤ (gen - s').toInt

/-- The chain job entry of a job (R499): first node and member count. -/
def State.chainEntry (s : State) (p cj : Nat) : Option (Nat × Nat) :=
  if cj = 0 then none
  else
    match s.lnk.cjob.find? (fun e => e.2.getLsbD 0 && fld 3 1 e.2.toNat = p && fld 15 0 e.1.toNat = cj) with
    | some e => some (fld 23 16 e.1.toNat, fld 31 24 e.1.toNat + 1)
    | none => none

/-! ## The Binnacle's reads (R225, R334, R337, R397) -/

/-- A read of the Binnacle for a partition: a descriptor, an image table, an image's head, or the Chart lines of their pages. -/
def FabOwner.ofBinnacle (o : FabOwner) (p : Nat) : Bool :=
  match o with
  | .desc x _ _ => x = p
  | .table x _ => x = p
  | .header x _ _ => x = p
  | .entries x _ => x = p
  | _ => false

/-- A read for the job of one ring. -/
def FabOwner.ofHead (o : FabOwner) (p r : Nat) : Bool :=
  match o with
  | .table x y => x = p && y = r
  | .header x y _ => x = p && y = r
  | .entries x y => x = p && y = r
  | _ => false

/-- A job in admission is refused; its reads are over. -/
def State.refuseJob (s : State) (j : Job) (status : Nat) : State :=
  ((s.voidReads (fun o => o.ofHead j.part j.ring)).modGrid (fun g => { g with jobs := g.jobs.erase j })).refuse
    j.part j.ring j.desc j.bell status

/-- The next part of an image's head after the bytes read so far, as offset and length: the header, the section table, and the
certificate of an image that has one. -/
def headNext (got : List Byte) : Option (Nat × Nat) :=
  let t := 16 * min 16 (leAt got 0xC 2)
  if got.length < 128 then some (0, 128)
  else if got.length < 128 + t then some (128, t)
  else if leAt got 0x34 4 = 64 ∧ got.length < 192 + t then some (leAt got 0x30 4, 64)
  else none

/-- What the Binnacle reads now for a job: an engine address, the offset from it and the length. -/
def Job.binRead (j : Job) : Option (Nat × Nat × Nat) :=
  if j.phase = .table then some (leAt j.desc 8 6, 0, 8 * j.coreList.length)
  else (headNext j.got).map (fun e => (j.addrs.getD j.images.length 0, e.1, e.2))

def Job.binOwner (j : Job) : FabOwner :=
  if j.phase = .table then .table j.part j.ring
  else .header j.part j.ring (j.coreList.getD j.images.length 0)

/-- The read that a job needs goes out through the entries of its pages: an entry that fails R308, or a page that is absent or
migrating, refuses the job (R337). The reads of a segment's pages are coherent as R305 says (R334).
(DESIGN CHOICE, log 64) -/
def State.binData (s : State) (j : Job) (lines : List CacheLine) : State :=
  match j.binRead with
  | none => s
  | some (a, o, n) =>
    let p := j.part
    let segs := (s.part p).segs
    let g := segAt segs a
    let lo := (eaOff a + o) / 65536
    let fates := (List.range ((eaOff a + o + n - 1) / 65536 + 1 - lo)).map (fun i =>
      s.entryFate p g (lo + i) ((cacheLook lines (g.chartBase + lo + i)).getD 0#32))
    if !g.remote && fates.any (fun f => f = .bad) then s.refuseJob j 0x0803
    else if !g.remote && fates.any (fun f => match f with
      | .fault _ => true
      | _ => false) then s.refuseJob j 0x0905
    else
      (kibPieces 4 (a + o) n).foldl (fun s e => match s.lookPage p segs lines e.1 with
        | some pl => s.placeAccess j.binOwner p 40 false (pl.plus (e.1 % 65536)) e.2 []
        | none => s) s

/-- The Binnacle starts the read that a job needs: its segment is checked, and the Chart lines of its pages are read; a remote segment
has none (R321, R337). (DESIGN CHOICE, log 64) -/
def State.binStart (s : State) (j : Job) : State :=
  match j.binRead with
  | none => s
  | some (a, o, n) =>
    let g := segAt (s.part j.part).segs a
    match segStatus s.cfg.chartLog g (eaOff a + o : Nat) ((eaOff a + o + n : Nat) - 1) with
    | some st => s.refuseJob j st
    | none =>
      if g.remote then s.binData j []
      else
        let i := g.chartBase + (eaOff a + o) / 65536
        let k := g.chartBase + (eaOff a + o + n - 1) / 65536
        (List.range (k / 16 + 1 - i / 16)).foldl (fun s d =>
          let l := s.chartLine (i / 16 + d)
          s.access (.entries j.part j.ring) false l.2 false l.1 64 [] (some j.part) none 40) s

/-- A read of the Binnacle for a job will never come: the job is refused. -/
def State.readRefused (s : State) (p r status : Nat) : State :=
  match s.grid.jobs.find? (fun j => j.part = p && j.ring = r && (j.phase = .table || j.phase = .headers)) with
  | some j => s.refuseJob j status
  | none => s

/-- DESCRIPTOR_FETCH_RETURN: the ring's oldest fetch has its data; it is refused by checks 1 to 5, kept for
re-reading when it is not current, or its images are read once no other job's are. -/
def State.fetchReturn (s : State) (p r : Nat) : State :=
  match (s.ringFetches p r).head? with
  | none => s
  | some f =>
    let own := FabOwner.desc p r f.pos
    if !s.accsDone own || s.barred p || !(s.part p).enable || s.openJob.isSome then s
    else
      let d := s.accsData own
      let s := s.dropAccs own
      let q := s.ring p r
      let stamp : Half := BitVec.ofNat 16 (leAt d 0 2)
      if !descCurrent stamp q.gen q.stamp q.head q.tail then
        if 64 ≤ f.tries then
          let s := s.modGrid (fun g => { g with
            fetches := g.fetches.filter (fun x => !(x.part = p && x.ring = r)),
            disp := g.disp.filter (fun x => !(x.part = p && x.ring = r)) })
          ((s.modRing p r (fun q => { q with ahead := true, retrying := false })).mark (0x20 + p) (0x48 + 16 * r) 0x20).msi p 2
        else
          let f' := { f with retrying := true, nextTry := if f.retrying then f.nextTry + 100 else s.tick + 100 }
          (s.modGrid (fun g => { g with fetches := g.fetches.map (fun x => if x = f then f' else x) })).modRing p r
            (fun q => { q with retrying := true })
      else
        match s.descStatus p r d with
        | some st => s.refuse p r d f.tick st
        | none =>
          let one := (leAt d 2 2).testBit 3
          let a := leAt d 8 6
          let j : Job :=
            { part := p, ring := r, kind := 0, desc := d, stamp := stamp, pos := f.pos, dpos := f.pos,
              phase := if one then .headers else .table, bell := f.tick, bellSeq := f.seq,
              multi := s.chainEntry p (leAt d 0x28 2), tStart := none, tFinal := 0, status := 0, stopCore := none,
              replays := 0, addrs := [], got := [], images := [], loads := [], ran := [], notices := [], numflags := 0, energy := 0,
              measured := false, silent := false, lost := false, opened := 0,
              resume := none, certTicks := 0 }
          let j := if one then { j with addrs := j.coreList.map (fun _ => a) } else j
          ((s.modRing p r (fun q => { q with retrying := false })).modGrid (fun g => { g with jobs := g.jobs ++ [j] })).binStart j

/-- DESCRIPTOR_REREAD: a non-current descriptor's re-read is due (R344). -/
def State.reread (s : State) (p r : Nat) : State :=
  match (s.ringFetches p r).head? with
  | none => s
  | some f =>
    if !f.retrying || s.tick < f.nextTry || 4 ≤ s.fetchesOut || !(s.accsOf (.desc p r f.pos)).isEmpty then s
    else
      let f' := { f with tries := f.tries + 1 }
      (s.modGrid (fun g => { g with fetches := g.fetches.map (fun x => if x = f then f' else x) })).issueFetch p r f.pos

/-! ## Images (R225, R226, R337, R397) -/

def ImageInfo.sects (i : ImageInfo) : List Section_ :=
  (chunks 16 (i.table.length / 16) i.table).map (fun b =>
    ⟨leAt b 4 4, leAt b 8 4, leAt b 0xC 1, leAt b 0xD 1 = 1, leAt b 0 4⟩)

/-- File contents follow the section table without a gap, and end at cert_offset; with the certificate they are the
whole image. -/
def contentsOk : Nat → List Section_ → Option Nat
  | off, [] => some off
  | off, x :: xs =>
    if x.zero then (if x.fileOff = 0 then contentsOk off xs else none)
    else if x.fileOff = off then contentsOk (off + x.size) xs
    else none

def overlapFree : List Section_ → Bool
  | [] => true
  | x :: xs => xs.all (fun y => x.addr + x.size ≤ y.addr || y.addr + y.size ≤ x.addr || x.size = 0 || y.size = 0) &&
      overlapFree xs

/-- An image header and section table break R226 (0x030A). (DESIGN CHOICE, log 64) -/
def ImageInfo.bad (i : ImageInfo) (pin : Bool) : Bool :=
  let h := i.header
  let ss := i.sects
  let code := ss.filter (fun x => x.kind = 0)
  leAt h 0 4 ≠ 0x334E4841 || leAt h 5 1 ≠ 1 || leAt h 6 2 ≠ 128 || leAt h 0xC 2 = 0 || 16 < leAt h 0xC 2 ||
  fld 15 1 (leAt h 0xE 2) ≠ 0 || leAt h 0x2E 2 ≠ 0 || leAt h 0x38 8 ≠ 0 || leAt h 0x70 8 ≠ 0 || leAt h 0x78 8 ≠ 0 ||
  (chunks 16 ss.length i.table).any (fun b => 3 < leAt b 0xC 1 || 1 < leAt b 0xD 1 || leAt b 0xE 2 ≠ 0) ||
  0x0302 < leAt h 0x2C 2 ||
  (match code with
   | [c] => c.addr ≠ leAt h 0x20 4 || c.size ≠ leAt h 0x24 4 || c.addr % 64 ≠ 0
   | _ => true) ||
  ss.any (fun x => x.addr % 16 ≠ 0 || x.size % 16 ≠ 0 || tileBytes < x.addr + x.size) || !overlapFree ss ||
  contentsOk (128 + 16 * ss.length) ss ≠ some (leAt h 0x30 4) || leAt h 0x30 4 + leAt h 0x34 4 ≠ leAt h 8 4 ||
  leAt h 0x28 4 < (ss.map Section_.size).foldl (· + ·) 0 ||
  leAt h 0x24 4 / 8 ≤ leAt h 0x18 4 || ((leAt h 0xE 2).testBit 0 && leAt h 0x24 4 / 8 ≤ leAt h 0x1C 4) ||
  (pin && !(leAt h 0xE 2).testBit 0)

/-- The certificate of an image, when it carries one (R397): cycles, reads, writes, shared store, links, cores. -/
def ImageInfo.certOk (i : ImageInfo) : Bool :=
  leAt i.header 0x34 4 = 64 && leAt i.cert 0 4 = 0x54524543 && leAt i.cert 4 2 = 0x0100

def Job.certified (j : Job) : Bool :=
  j.images.all (fun i => i.certOk && leAt i.cert 6 2 = j.coreList.length)

/-- C and the demands of R398. -/
def Job.cycles (j : Job) : Nat := (j.images.map (fun i => leAt i.cert 8 8)).foldl max 0
def Job.demand (j : Job) (off : Nat) : Nat := (j.images.map (fun i => leAt i.cert off 8)).foldl (· + ·) 0

/-- The issue floor (Table 12.7). -/
def Part.lf (p : Part) : Nat := max 1 (min 64 p.floor)

/-- C_t of R400, in ticks: an A-cycle is 1/11 tick at ÷8, 4/11 tick for the watch partition in watch mode.
(DEDUCED, log 62) -/
def State.certTime (s : State) (p c : Nat) : Nat :=
  let num := if s.grid.watch = .watch ∧ p = s.grid.watchPart then 4 else 1
  cdiv (c * num * 64) (11 * (s.part p).lf)

/-- I_r of R401; none refuses the job. Rates are given as (grants per tick in total, per unit) over 100,000. -/
def interference (b share gTot gUnit : Nat) : Option Nat :=
  if b = 0 then some 0
  else if share = 0 then none
  else some (cdiv (b * (1024 - share) * 100000) (share * gTot) + cdiv (32 * 1024 * 100000) (share * gUnit))

/-- The admission test of R400: its sum, none when a share of 0 refuses the job. -/
def State.admitSum (s : State) (j : Job) : Option Nat :=
  let p := s.part j.part
  let sh := fun i => p.share.getD i 0
  let m1 := 100000
  let f := (j.images.map (fun i => leAt i.header 8 4)).foldl (· + ·) 0
  if sh 0 = 0 then none
  else
    let m := cdiv (cdiv f 64 * 1024) (sh 0 * (11 * s.cfg.rdCh))
    let m0 := if j.images.any (fun i => !i.resident) then m else 0
    match interference (j.demand 0x10) (sh 0) (11 * s.cfg.rdCh * m1) (11 * m1),
          interference (j.demand 0x18) (sh 0) (11 * s.cfg.wrCh * m1) (11 * m1),
          interference (j.demand 0x20) (sh 3) (11 * s.cfg.slices * m1) (11 * m1),
          interference (j.demand 0x28) (sh 2) (21875 * s.cfg.links) 21875 with
    | some a, some b, some c, some d =>
      some ((s.tick - j.bell) + m0 + 2 * s.certTime j.part j.cycles + 3000 + m + (a + b + c + d) + s.grid.slack.toNat)
    | _, _, _, _ => none

/-- Check 7. (DEDUCED, log 62) -/
def State.admission (s : State) (j : Job) : Option Nat :=
  if !j.critical then none
  else if !j.certified then some 0x0C02
  else
    match s.admitSum j with
    | none => some 0x0C01
    | some x => if x < j.deadline then none else some 0x0C01

/-- Check 8 (R473). -/
def State.keysMissing (s : State) (p : Nat) : Bool :=
  (List.range 16).any (fun i =>
    let g := (s.part p).segs.getD i Seg.zero
    g.valid && g.sealed_ && ((s.lds.keys.getD p []).getD i none).isNone)

/-- The image matches the core's residency record (R228). -/
def State.resident (s : State) (c : Nat) (header : List Byte) : Bool :=
  (s.core c).img.valid && (s.core c).img.tag.toNat = leAt header 0x10 8

/-! ## Starting cores (R37, R196, R304, R73, R87) -/

/-- Per-run state of a core cleared (R87, R107, R131, R156, R167, R175, R192, R224, R232, R298, R324). -/
def Core.clearRun (c : Core) : Core :=
  { c with
    fl := .none
    arr := c.arr.clearRun
    elm := c.elm.clearRun
    cnv := c.cnv.clearRun
    str := { c.str with rdKib := 0, wrKib := 0, rdRem := 0, wrRem := 0, late := 0, fault := 0, sealChunk := 0 }
    mmu := { c.mmu with missCnt := 0 }
    seq := { c.seq with issueCnt := 0, stallCnt := 0, switchCnt := 0, wptWait := 0, errPc := 0, stop := none, final := false,
                        halted := false, parked := false, idle := 0, lead := 0, cyc := 0, phase := 0, nextId := 0 } }

/-- State kept across hot runs cleared at an ordinary start (R98, R111, R156, R272, R284, R304, R309). -/
def Core.clearJob (c : Core) (segs : List Seg) : Core :=
  { c with
    arr := c.arr.abandon.clearValid
    elm := c.elm.abandon.clearJob
    cnv := c.cnv.abandon
    str := { StreamUnit.reset with queue := [] }
    mmu := { c.mmu with segs := segs, cache := [], walks := [] }
    park := none }

/-- Every stochastic generator loaded from a seed (R73). -/
def Core.seedAll (c : Core) (core : Nat) (seed : Word) : Core :=
  { c with
    colGens := (List.range 128).map (fun i => genSeed seed (columnId core i))
    laneGens := (List.range 128).map (fun i => genSeed seed (laneId core i)) }

/-- Task 0 running with the values of Table 6.1; the other tasks idle. -/
def Core.startTask (c : Core) (core : Nat) (pc : Nat) (s1 : Word) (n rank : Nat) : Core :=
  let w := BitVec.ofNat 32
  let regs := ((Task.idle0.s.set 0 (w core)).set 1 s1).set 2 (w n) |>.set 3 (w rank)
  { c with
    tasks := (Vector.replicate 4 Task.idle0).set 0 { Task.idle0 with pc := pc, s := regs, st := .running }
    seq := { c.seq with started := true, running := some 0, last := 0, rank := rank, ncores := n } }

/-- The 8 words from hot_entry, and whether the first unit command among them has a parameter block, whose copy is that of
tile memory as it is now (R230). (DEDUCED, log 74) -/
def Core.parkBuf (c : Core) : ParkBuf :=
  let ws := (List.range 8).map (fun i => BitVec.ofNat 64 (ofLe (c.tile.read (c.img.codeAddr + 8 * (c.img.hotEntry + i)) 8)))
  let unit := ws.find? (fun (w : DWord) => opToUnit (fld 63 60 w.toNat) (fld 59 54 w.toNat))
  let blk := match unit with
    | none => none
    | some w =>
      let cl := fld 63 60 w.toNat
      let op := fld 59 54 w.toNat
      if cl = 3 ∨ cl = 5 ∨ (cl = 4 ∧ (op = 0 ∨ op = 3)) then some c.tile else none
  ⟨ws, blk⟩

/-- START_PACKET: the core starts its run, window writes that arrived before the doorbell having retired (R345). A phase instance that
a stop of the last run left open is over (R425). -/
def State.startPacket (s : State) (c : Nat) : State :=
  match s.jobOf c with
  | none => s
  | some j =>
    let slow := j.critical && (s.pwr.economy || s.pwr.change = .toEconomy || s.pwr.change = .toNominal)
    if !s.winsRetired j.part j.bellSeq || j.phase ≠ .running || slow then s
    else
      match s.eject (fun p => match p with
        | .start x _ => x = c
        | _ => false) with
      | some (.start _ hot, s) =>
        let rank := (j.coreList.filter (· < c)).length
        let n := j.coreList.length
        let seed := BitVec.ofNat 32 j.seed + (if hot then j.pos else 0#32)
        let segs := (s.part j.part).segs
        let s := s.modCore c (fun q =>
          let blk := if hot then q.park.bind ParkBuf.block else none
          let q := if hot then q.clearRun else (q.clearJob segs).clearRun
          let q := q.seedAll c seed
          let q := q.startTask c (if hot then q.img.hotEntry else q.img.entry) (if hot then j.pos else j.dpos) n rank
          { q with
            seq := { q.seq with invocation := if hot then j.pos else j.dpos, seed := seed, block := blk }
            arr := if hot then q.arr else { q.arr with stkeep := (s.part j.part).stkeep.toNat } })
        let s := { s with pwr := { s.pwr with cores := modAt s.pwr.cores c (fun k => { k with marker := 0, granted := false }) } }
        s.modJobOf c (fun j => { j with ran := c :: j.ran, tStart := some (j.tStart.getD s.tick) })
      | _ => s

/-- A packet of the runs of these cores: a start, a notice, or one that only their programs send. (DEDUCED, log 76) -/
def Pkt.ofRun (cs : List Nat) (k : Pkt) : Bool :=
  match k with
  | .start c _ => cs.contains c
  | .notice c => cs.contains c
  | .creditReq a _ _ => cs.contains a
  | .creditGrant a _ _ => cs.contains a
  | .creditRet a _ _ => cs.contains a
  | .message a _ _ => cs.contains a
  | .barArrive _ c _ _ => cs.contains c
  | .barDone c _ => cs.contains c
  | .hqPut _ c _ _ _ _ => cs.contains c
  | .hqPutRep c _ _ => cs.contains c
  | .hqGet _ c _ _ => cs.contains c
  | .hqGetRep c _ _ _ => cs.contains c
  | .hqSpace c _ => cs.contains c
  | .chain _ c _ => cs.contains c
  | _ => false

/-- A handle is in flight in the packet. -/
def Pkt.carriesHandle (k : Pkt) : Bool :=
  match k with
  | .hqPut _ _ _ _ _ _ => true
  | .hqGetRep _ _ _ _ => true
  | _ => false

/-- A core's image or state region has reads that nobody takes any more. -/
def FabOwner.ofLoad (o : FabOwner) (p r : Nat) : Bool :=
  match o with
  | .image x y _ => x = p && y = r
  | _ => false

/-- A run of a job begins: every mailbox of its cores is emptied with all its credits in the pool, and the barrier counts are 0 (R247,
R255, R259); nothing of an earlier run of its cores is left in the mesh or at the barrier unit. (DEDUCED, log 76) -/
def State.freshRun (s : State) (j : Job) : State :=
  let old := s.mesh.filter (Pkt.ofRun j.coreList)
  let s := s.dropPkts (Pkt.ofRun j.coreList)
  let s := j.coreList.foldl (fun s c => s.modCore c (fun q => { q with msg := MsgUnit.reset })) s
  let s := s.voidReads (fun o => match o with
    | .stream c _ _ => j.has c
    | .swapIn c _ => j.has c
    | _ => false)
  let s := s.modPart j.part (fun p => { p with
    bars := p.bars.filter (fun b => !j.has b.core), hqInflight := p.hqInflight - (old.filter Pkt.carriesHandle).length })
  s.modGrid (fun g => { g with barLocal := g.barLocal.filter (fun e => !(e.1 = j.part && e.2.1 = j.ring && j.multi.isSome)) })

/-- The job's start packets are injected in logical core order, each to the stop of the physical core that its remap entry names
(State.corePos; R37 steps 5 and 6). The Intake's and the link path's segment copies of the
partition are loaded at an ordinary start (R304). -/
def State.inject (s : State) (j : Job) (hot : Bool) : State :=
  let s := s.modGrid (fun g => { g with jobs := g.jobs.map (fun k =>
    if k = j then
      { k with phase := .running, loads := [], ran := [], notices := [],
               measured := if hot || k.replays ≠ 0 || k.silent then k.measured else s.pwr.measuredNow }
    else k) })
  let s := if hot then s
    else
      let segs := (s.part j.part).segs
      s.modCht (fun c => { c with
        itk := { c.itk with segs := setAt c.itk.segs j.part segs, cache := [] }
        lnk := { c.lnk with segs := setAt c.lnk.segs j.part segs, cache := [] } })
  (s.freshRun j).sendAll (j.coreList.map (fun c => .start c hot))

/-- Sections to load on a core: all of them, or of a resident image the job data. -/
def ImageInfo.toLoad (i : ImageInfo) : List Section_ :=
  if i.resident then i.sects.filter (fun x => x.kind = 3) else i.sects

/-- The file contents that a core's engine loads, in table order (R227). -/
def ImageInfo.parts (i : ImageInfo) : List LoadPart :=
  (i.toLoad.filter (fun x => !x.zero && x.size ≠ 0)).map (fun x => ⟨i.addr + x.fileOff, x.size, 0⟩)

/-- The job's images are loaded where needed by the cores' stream engines, through the segment copies of an ordinary start, or its
cores start (R37 steps 4 to 6, R40, R263, R278, R304). -/
def State.beginLoads (s : State) (j : Job) : State :=
  let need := (j.images.filter (fun i => !i.toLoad.isEmpty)).map ImageInfo.core
  let s := s.modPart j.part (fun p => { p with
    hqs := (List.range 64).map (fun q => if j.hqMask.testBit q then HQueue.reset else p.hqs.getD q HQueue.reset)
    hqPut := 0, hqGet := 0 })
  let j' := { j with phase := .loading, loads := need }
  let s := s.modGrid (fun g => { g with jobs := g.jobs.map (fun k => if k = j then j' else k) })
  let s := (j.images.filter (fun i => !i.resident)).foldl (fun s i =>
    s.modCore i.core (fun q => { q with img := { q.img with valid := false } })) s
  let segs := (s.part j.part).segs
  let s := (j.images.filter (fun i => !i.toLoad.isEmpty)).foldl (fun s i =>
    s.modCore i.core (fun q => { q with
      str := { q.str with loads := i.parts }, mmu := { q.mmu with segs := segs, cache := [], walks := [] } })) s
  if need.isEmpty then s.inject j' false else s

/-- Checks 7 to 9 once every image header is read; a job whose cores or queues a running job holds waits (R339). -/
def State.letIn (s : State) (j : Job) : State :=
  if s.coresHeld j.part j.desc then
    let fs := s.ringFetches j.part j.ring
    let s := s.voidReads (fun o => fs.any (fun f => o = .desc f.part f.ring f.pos))
    s.modGrid (fun g => { g with
      jobs := g.jobs.erase j, fetches := g.fetches.filter (fun f => !fs.contains f),
      disp := g.disp.filter (fun e => !(e.part = j.part && e.ring = j.ring)) ++
        [⟨j.part, j.ring, j.bell, j.bellSeq, true⟩] })
  else
    match s.admission j with
    | some st => s.refuseJob j st
    | none =>
      if s.keysMissing j.part then s.refuseJob j 0x0F01
      else if j.images.any (fun i => i.bad j.pin) then s.refuseJob j 0x030A
      else
        let j' := { j with certTicks := s.certTime j.part j.cycles }
        let s := s.modGrid (fun g => { g with jobs := g.jobs.map (fun k => if k = j then j' else k) })
        (s.headOn j.part j.ring j.stamp).beginLoads j'

/-- What a job's read brought: the images' addresses, or the next part of an image's head; with the last head in, checks 7 to 9. With
one_image one head is every core's. -/
def State.binTake (s : State) (j : Job) (data : List Byte) : State :=
  let set := fun (j' : Job) => s.modGrid (fun g => { g with jobs := g.jobs.map (fun k => if k = j then j' else k) })
  let n := j.coreList.length
  if j.phase = .table then
    let j' := { j with phase := .headers, addrs := (List.range n).map (fun i => leAt data (8 * i) 6) }
    (set j').binStart j'
  else
    let got := j.got ++ data
    if (headNext got).isSome then
      let j' := { j with got := got }
      (set j').binStart j'
    else
      let i := j.images.length
      let c := j.coreList.getD i 0
      let h := slice got 0 128
      let t := 16 * min 16 (leAt h 0xC 2)
      let info : ImageInfo := ⟨c, j.addrs.getD i 0, h, slice got 128 t, slice got (128 + t) 64, s.resident c h⟩
      let infos := if (leAt j.desc 2 2).testBit 3 then j.coreList.map (fun d => { info with core := d }) else j.images ++ [info]
      let infos := infos.map (fun (i : ImageInfo) => { i with resident := s.resident i.core i.header })
      let j' := { j with images := infos, got := [] }
      if infos.length = n then (set j').letIn j' else (set j').binStart j'

/-- What the reads for a ring's job have brought: words of Chart lines, and bytes. -/
def State.binBrought (s : State) (p r : Nat) : List Word × List Byte :=
  let es := s.accsData (.entries p r)
  let job := s.grid.jobs.find? (fun j => j.part = p && j.ring = r && (j.phase = .table || j.phase = .headers))
  ((chunks 4 (es.length / 4) es).map (fun e => BitVec.ofNat 32 (ofLe e)), job.elim [] (fun j => (s.ownerTake j.binOwner).1))

/-- IMAGE_HEADER_RETURN: the Binnacle's read for the job of a ring has returned: the Chart lines of its pages, which let the read
itself go out, or its bytes. It waits for a reset of the partition (R452). (DESIGN CHOICE, log 64) -/
def State.headerReturn (s : State) (p r : Nat) : State :=
  match s.grid.jobs.find? (fun j => j.part = p && j.ring = r && (j.phase = .table || j.phase = .headers)) with
  | none => s
  | some j =>
    let en := FabOwner.entries p r
    if s.barred p || !(s.part p).enable then s
    else if s.accsDone en then
      let bs := s.ownerTake en
      let lines := match j.binRead with
        | none => []
        | some (a, o, _) =>
          let i := ((segAt (s.part p).segs a).chartBase + (eaOff a + o) / 65536) / 16
          (chunks 64 (bs.1.length / 64) bs.1).mapIdx (fun k b =>
            (⟨i + k, (chunks 4 16 b).map (fun e => BitVec.ofNat 32 (ofLe e))⟩ : CacheLine))
      bs.2.binData j lines
    else if s.ownerIdle j.binOwner || !s.ownerDone j.binOwner || !s.ownerIdle en then s
    else
      let bs := s.ownerTake j.binOwner
      bs.2.binTake j bs.1

/-- A run that stopped leaves no chain-barrier arrival behind at the root (R257). -/
def State.chainEnd (s : State) (j : Job) : State :=
  if j.multi.isSome && j.status ≠ 0 then
    { s with lnk := { s.lnk with arrivals := s.lnk.arrivals.filter (fun a => a.1 ≠ j.chainJob) } }
  else s

/-- A job's run is over: its share of the open power interval, which the model does not count, is a free value (R434). -/
def State.closeRun (s : State) (j : Job) (f : Job → Job) : Job × State :=
  let n := s.takeFree
  let j' := f { j with phase := .record, tStart := some (j.tStart.getD s.tick), opened := freeNat n.1,
                       energy := j.energy + freeNat n.1, measured := j.measured && s.pwr.measuredNow }
  let s := { n.2 with pwr := { n.2.pwr with openShare := n.2.pwr.openShare + j'.opened } }
  (j', (s.chainEnd j').modGrid (fun g => { g with jobs := g.jobs.map (fun k => if k = j then j' else k) }))

/-- A job ends without starting its cores, or for another reason before its cores' notices: its record is composed. -/
def State.endJob (s : State) (j : Job) (status : Nat) : State :=
  let s := j.loads.foldl (fun s c => s.modCore c (fun q => { q with
    str := { q.str with loads := [] }, mmu := { q.mmu with walks := [] } })) (s.voidReads (fun o => o.ofLoad j.part j.ring))
  let r := s.closeRun j (fun j => { j with status := status, tFinal := s.tick })
  r.2.post (r.2.jobRecord r.1)

/-- Sections written into tile memory, file bytes in table order. -/
def loadSections : Mem → List Section_ → List Byte → Mem
  | m, [], _ => m
  | m, x :: xs, bs =>
    if x.zero then loadSections (m.write x.addr (List.replicate x.size 0#8)) xs bs
    else loadSections (m.write x.addr (slice bs 0 x.size)) xs (bs.drop x.size)

/-- STREAM_REQUEST_ISSUE: a request of a running core's engine, or of its image load before the job's start (R263, R269). -/
def State.strRequest (s : State) (c : Nat) : State :=
  if (s.core c).live then s.strIssue c else s.loadGo c State.endJob

/-- What the reads of a core's image load have brought. -/
def State.loadBrought (s : State) (c : Nat) : List Byte :=
  (s.jobOf c).elim [] (fun j => (s.ownerTake (.image j.part j.ring c)).1)

/-- IMAGE_LOAD_DONE: a core's reads have all returned and its sections are in; the load of an image empties the instruction buffer
(R204), its digest is checked and recorded with the residency record for attestation (R227, R466). -/
def State.loadDone (s : State) (c : Nat) : State :=
  match s.jobOf c with
  | none => s
  | some j =>
    let own := FabOwner.image j.part j.ring c
    if j.phase ≠ .loading || !j.loads.contains c || (s.core c).str.loads.any (fun x => x.pos < x.len) || !s.ownerDone own then s
    else
      let taken := s.ownerTake own
      let data := taken.1
      let s := taken.2
      match j.images.find? (fun i => i.core = c) with
      | none => s
      | some i =>
        let ss := i.toLoad
        let h := i.header
        let dig := sha384 (slice h 0 64 ++ i.table ++ data)
        let img : Residency_ :=
          ⟨BitVec.ofNat 64 (leAt h 0x10 8), true, i.sects, leAt h 0x20 4, leAt h 0x24 4, leAt h 0x18 4, leAt h 0x1C 4,
            slice h 0x40 48⟩
        let s := s.modCore c (fun q => { q with
          tile := loadSections q.tile ss data, img := if i.resident then q.img else img
          ib := if i.resident then q.ib else [], str := { q.str with loads := [] } })
        if !i.resident && dig ≠ slice h 0x40 48 then
          (s.modCore c (fun q => { q with img := { q.img with valid := false } })).endJob j 0x030B
        else
          let j' := { j with loads := j.loads.erase c }
          let s := s.modGrid (fun g => { g with jobs := g.jobs.map (fun k => if k = j then j' else k) })
          if j'.loads.isEmpty then s.inject j' false else s

/-! ## Completion (R41 to R43, R347 to R352) -/

/-- Every write a core's commands made to memory outside it has been acknowledged, state swap-outs among them. -/
def State.writesDone (s : State) (c : Nat) : Bool :=
  let mine := fun (o : FabOwner) => match o with
    | .write x _ _ => x = c
    | .swapOut x _ _ => x = c
    | _ => false
  s.fab.accs.all (fun a => !(mine a.owner && !a.done)) && s.fab.rem.all (fun a => !(mine a.owner && !a.done))

/-- Every unit of the core has finished every command. -/
def Core.quiet (c : Core) : Bool := (List.range 5).all (fun u => (c.unfinished u).isEmpty)

/-- FINAL_WAYPOINT_RETIRE: once tasks 1 to 3 are idle, unmatched bindings stop the core (R179); with every command
finished and every write acknowledged, wpt.final takes effect, the core sends its notice, and parks for a pinned job (R217, R222, R230, R244). Its
numeric flags are taken for the record at this point (R87). (DEDUCED, log 63) -/
def State.finalRetire (s : State) (c : Nat) : State :=
  let q := s.core c
  match s.jobOf c with
  | none => s
  | some j =>
    if !q.live || (q.task 0).wait ≠ .final || q.seq.final ||
        [1, 2, 3].any (fun (t : Fin 4) => (q.task t).st ≠ .idle) then s
    else if q.bindLeft then s.onCore c (fun q => q.stopWith 0x0605 (q.task 0).pc 0)
    else if !q.quiet || !s.writesDone c || q.seq.cyc < (q.task 0).memDone then s
    else
      let park := j.pin
      let s := s.modCore c (fun q0 =>
        let q := q0.done 0
        { q with
        seq := { q.seq with final := true, running := none, parked := park, started := !park && q.seq.started }
        tasks := q.tasks.map (fun k => { k with st := .idle, wait := .none })
        park := if park then some q.parkBuf else none })
      (s.modJobOf c (fun j => { j with tFinal := s.tick, numflags := j.numflags ||| q.fl.toWord.toNat })).send (.notice c)

/-- The cores of a job are released. -/
def State.release (s : State) (j : Job) : State :=
  let s := j.coreList.foldl (fun s c => s.modCore c (fun q => { q with
    seq := { q.seq with started := false, running := none, parked := false }, park := none })) s
  s.modGrid (fun g => { g with
    jobs := g.jobs.filter (fun k => !(k.part = j.part && k.ring = j.ring && k.stamp = j.stamp && k.pos = j.pos && k.kind = j.kind)),
    disp := g.disp.map (fun e => if e.part = j.part then { e with held := false } else e) })

/-- A pinned job ends: its cores are released, its ring is no longer hot, an unpin record is posted (R348, R349). -/
def State.unpinNow (s : State) (j : Job) (status : Nat) : State :=
  let n := (s.ring j.part j.ring).pendingRuns.length
  let s := s.modRing j.part j.ring (fun q => { q with
    hot := false, unpin := false, pendingRuns := [],
    overflows := if status = 0 then q.overflows else min 255 (q.overflows + n) })
  (s.release j).post (s.unpinRecord j status)

/-- The last notice is in: the record is composed. A run that restores a pinned job posts none: its interrupted hot run
follows, or the job parks again, or an unpin that came meanwhile ends it (R348); one that stopped ends the pin (R455, R349).
(DEDUCED, log 63) -/
def State.compose (s : State) (j : Job) : State :=
  if j.silent then
    let set := fun (s : State) (j' : Job) => s.modGrid (fun g => { g with jobs := g.jobs.map (fun k => if k = j then j' else k) })
    if j.status ≠ 0 then (s.chainEnd j).unpinNow j j.status
    else
      let back := { j with silent := false, lost := false, phase := .parked, resume := none }
      match j.resume with
      | none =>
        if (s.ring j.part j.ring).unpin && (s.ring j.part j.ring).pendingRuns.isEmpty then s.unpinNow back 0 else set s back
      | some (inv, bell, seq, n) =>
        let j' := { back with kind := 1, pos := inv, bell := bell, bellSeq := seq, tStart := none, tFinal := 0, status := 0,
                              stopCore := none, replays := n, numflags := 0, opened := 0 }
        (set s j').inject j' true
  else
    let r := s.closeRun j (fun j => { j with tFinal := if j.status = 0 then j.tFinal else s.tick })
    r.2.post (r.2.jobRecord r.1)

/-- COMPLETION_NOTICE: a core's notice arrives, or a stopped or halted core's writes have all been acknowledged; the
numeric flags of such a core are those it holds then (R87). (DEDUCED, log 63) -/
def State.notice (s : State) (c : Nat) : State :=
  match s.jobOf c with
  | none => s
  | some j =>
    let q := s.core c
    let add := fun (s : State) (flags : Nat) =>
      let j' := { j with notices := c :: j.notices, numflags := j.numflags ||| flags }
      let s := s.modGrid (fun g => { g with jobs := g.jobs.map (fun k => if k = j then j' else k) })
      if j.coreList.all (fun d => j'.notices.contains d) then s.compose j' else s
    if j.phase ≠ .running || j.notices.contains c then s
    else
      match s.eject (fun p => match p with
        | .notice x => x = c
        | _ => false) with
      | some (_, s) => add s 0
      | none => if (q.seq.stop.isSome || q.seq.halted) && s.writesDone c then add s q.fl.toWord.toNat else s

/-- HST_UNPIN (R348). -/
def State.unpin (s : State) (p r : Nat) : State :=
  match s.ringJob p r with
  | some j =>
    if !(s.ring p r).hot then s.dropBell p
    else if j.phase = .parked && (s.ring p r).pendingRuns.isEmpty then s.unpinNow j 0
    else s.modRing p r (fun q => { q with unpin := true })
  | none => s.dropBell p

/-- HOT_RUN_START: the next pending run of a parked job, once earlier window writes have retired (R45, R47, R48). -/
def State.hotStart (s : State) (p r : Nat) : State :=
  match s.ringJob p r, (s.ring p r).pendingRuns with
  | some j, (inv, bell, seq) :: rest =>
    if j.phase ≠ .parked || j.lost || !(s.ring p r).hot || !s.winsRetired p seq || s.barred p then s
    else
      let s := s.modRing p r (fun q => { q with pendingRuns := rest })
      let j' := { j with kind := 1, pos := inv, bell := bell, bellSeq := seq, tStart := none, tFinal := 0, status := 0,
                         stopCore := none, replays := 0, numflags := 0, opened := 0 }
      let s := s.modGrid (fun g => { g with jobs := g.jobs.map (fun k => if k = j then j' else k) })
      s.inject j' true
  | _, _ => s

/-! ## Record acknowledgement -/

/-- A frame-critical job's slow-down enters its partition's window (R405). -/
def State.noteSlow (s : State) (j : Job) : State :=
  let s := s.reportTurn
  if !j.critical then s
  else
    let t := j.tFinal - j.tStart.getD j.tFinal
    let ratio := if j.certTicks = 0 then 0xFFFF else min 0xFFFF (t * 1024 / j.certTicks)
    s.modPart j.part (fun p => { p with slowNow := (max p.slowNow.1 ratio, p.slowNow.2 + 1) })

/-- A deadline missed (R402, R403). -/
def State.noteMiss (s : State) (j : Job) : State :=
  if j.deadline ≠ 0 ∧ j.bell + j.deadline ≤ s.tick then
    s.modPart j.part (fun p => { p with missCnt := sat32 p.missCnt 1 })
  else s

/-- The words as binary32: a NaN, and less than. -/
def isNaN32 (x : Word) : Bool := (f32Val x.toNat).isNan
def lt32 (x y : Word) : Bool := (f32Val x.toNat).lt (f32Val y.toNat)

/-- The relation of a wake rule (R408). -/
def WakeRule.holds (w : WakeRule) (x : Word) : Bool :=
  let c := w.ctrl.toNat
  let rel := fld 4 2 c
  if c.testBit 1 then
    let nan := isNaN32 x || isNaN32 w.thresh
    let lt := lt32 x w.thresh
    let gt := lt32 w.thresh x
    match rel with
    | 0 => !nan && gt
    | 1 => !nan && !lt
    | 2 => !nan && lt
    | 3 => !nan && !gt
    | 4 => !nan && !lt && !gt
    | 5 => nan || lt || gt
    | _ => false
  else
    match rel with
    | 0 => x.toInt > w.thresh.toInt
    | 1 => x.toInt ≥ w.thresh.toInt
    | 2 => x.toInt < w.thresh.toInt
    | 3 => x.toInt ≤ w.thresh.toInt
    | 4 => x = w.thresh
    | 5 => x ≠ w.thresh
    | _ => false

/-- Armed wake rules that name the ring of the watch partition, in increasing number (R408, R409). -/
def State.wakeRules (s : State) (p r : Nat) : State :=
  if p ≠ s.grid.watchPart then s
  else
    (List.range 8).foldl (fun s n =>
      let w := s.grid.wakes.getD n ⟨0, 0, 0, 0, 0⟩
      let low := ((List.range 32).find? (fun c => (s.part p).cores.getLsbD c)).getD 0
      let x := BitVec.ofNat 32 (ofLe ((s.core low).tile.read (fld 20 2 w.addr.toNat * 4) 4))
      if w.ctrl.getLsbD 0 && fld 7 5 w.ctrl.toNat = r && w.holds x then
        let w' := { w with ctrl := (w.ctrl &&& ~~~1#32) ||| 0x800#32 }
        let s := (s.modGrid (fun g => { g with wakes := setAt g.wakes n w' })).mark 3 (0x40 + 32 * n) 0x800
        s.presentBell (fld 10 8 w.ctrl.toNat) (w.bellHi ++ w.bellLo)
      else s) s

/-- A pinned job whose cores a reset has cleared runs its descriptor again, every image loaded (R453, R455).
(DEDUCED, log 60) -/
def State.restore (s : State) (j : Job) : State :=
  let j' := { j with silent := true, lost := false, tStart := none, tFinal := 0, status := 0, stopCore := none, numflags := 0,
                     images := j.images.map (fun i => { i with resident := false }) }
  (s.modGrid (fun g => { g with jobs := g.jobs.map (fun k => if k = j then j' else k) })).beginLoads j'

/-- What follows a job's acknowledged record: release, parking, the next pending run, the end of a pin.
(DEDUCED, log 75) -/
def State.afterRecord (s : State) (j : Job) : State :=
  let q := s.ring j.part j.ring
  let park := fun (s : State) =>
    let j' := { j with phase := .parked, energy := 0, opened := 0, measured := s.pwr.measuredNow, replays := 0 }
    let s := s.modGrid (fun g => { g with
      jobs := g.jobs.map (fun k => if k = j then j' else k)
      disp := g.disp.map (fun e => if e.part = j.part then { e with held := false } else e) })
    if j.lost && !s.inReset j.part then s.restore j' else s
  if !j.pin then s.release j
  else if j.kind = 0 then
    if j.status ≠ 0 then s.release j
    else
      park (s.modRing j.part j.ring (fun r =>
        { r with hot := true, pinnedGen := j.stamp, unpin := false, pendingRuns := [] }))
  else if j.status ≠ 0 then s.unpinNow j j.status
  else if q.unpin && q.pendingRuns.isEmpty then s.unpinNow j 0
  else park s

/-- A job's own record, among those of its ring. -/
def Record.ends (r : Record) (j : Job) : Bool := r.kind = j.kind && leAt r.bytes 8 4 = j.pos.toNat

/-- The fabric acknowledges a record's write: this tick is the job's completion tick, against which its deadline is judged (R43). -/
def State.recordWritten (s : State) (no : Nat) : State :=
  match s.grid.records.find? (fun r => r.issued = some no && r.acked.isNone) with
  | none => s
  | some r =>
    let s := s.modGrid (fun g => { g with records := g.records.map (fun x => if x = r then { x with acked := some s.tick } else x) })
    if !r.job then s
    else
      match s.grid.jobs.find? (fun j => j.part = r.part && j.ring = r.ring && j.phase = .record && r.ends j) with
      | none => s
      | some j => (s.noteMiss j).noteSlow j

/-- COMPLETION_RECORD_ACK: what follows the acknowledgement of the partition's oldest acknowledged record. The Logbook record is
written by `log` (R435). -/
def State.recordAck (s : State) (p : Nat) (log : State → Record → State) : State :=
  match s.grid.records.find? (fun r => r.part = p && r.acked.isSome) with
  | none => s
  | some r =>
    let s := { s with fab := { s.fab with accs := s.fab.accs.filter (fun a => some a.no ≠ r.issued) } }
    let s := s.modGrid (fun g => { g with records := g.records.erase r })
    let s := s.pumpRecords p (s.grid.records.length + 1)
    let s := log (if r.irq then s.msi p 0 else s) r
    if !r.job then s
    else
      match s.grid.jobs.find? (fun j => j.part = p && j.ring = r.ring && j.phase = .record && r.ends j) with
      | none => s
      | some j => (s.afterRecord j).wakeRules p r.ring

/-! ## Ring configuration (R335, R350) -/

/-- A ring is disabled: no descriptor of it is taken any more, those being fetched or checked among them (R335). -/
def State.ringOff (s : State) (p r : Nat) : State :=
  let fs := s.ringFetches p r
  let s := s.voidReads (fun o => o.ofHead p r || fs.any (fun f => o = .desc f.part f.ring f.pos))
  let s := s.modGrid (fun g => { g with
    fetches := g.fetches.filter (fun f => !fs.contains f)
    disp := g.disp.filter (fun e => !(e.part = p && e.ring = r))
    jobs := g.jobs.filter (fun j => !(j.part = p && j.ring = r && (j.phase = .table || j.phase = .headers))) })
  s.modRing p r (fun q => { q with cfg := q.cfg &&& ~~~0x10#32, retrying := false, bells := [] })

/-- HST_RINGn_CFG: setting enable resets the ring's positions; writes to an enabled ring are ignored but for clearing
enable. -/
def State.ringCfg (s : State) (p r v : Nat) : State :=
  let q := s.ring p r
  let w := BitVec.ofNat 32 (v - v % 65536 + v % 32)
  if q.cfg.getLsbD 4 then
    if v.testBit 4 then s else s.ringOff p r
  else if v.testBit 4 then
    s.modRing p r (fun q => { q with cfg := w, head := 0, tail := 0, bells := [], stamp := BitVec.ofNat 16 (v / 65536) })
  else s.modRing p r (fun q => { q with cfg := w })

/-- The partition has a running or parked job, a pending hot run, a queue entry or a waiting record (R350). -/
def State.partBusy (s : State) (p : Nat) : Bool :=
  s.hasJob p || (s.part p).rings.any (fun r => !r.pendingRuns.isEmpty) || s.grid.disp.any (fun e => e.part = p) ||
    s.grid.records.any (fun r => r.part = p)

/-- HST_CRING_CFG. -/
def State.cringCfg (s : State) (p v : Nat) : State :=
  let on := (s.part p).cringCfg.getLsbD 4
  let w := BitVec.ofNat 32 (v % 32)
  if on && !v.testBit 4 && s.partBusy p then s
  else if !on && v.testBit 4 then
    (s.modPart p (fun q => { q with cringCfg := w, cringTail := 0, cringHead := 0 })).pumpRecords p s.grid.records.length
  else s.modPart p (fun q => { q with cringCfg := w })

/-- HST_CRING_HEAD: ignored unless it lies between the head and the tail. -/
def State.cringHead (s : State) (p v : Nat) : State :=
  let q := s.part p
  let m := 2 ^ (q.cringK + 1)
  let h := v % 2 ^ 13
  if h < m ∧ (h + m - q.cringHead % m) % m ≤ (q.cringTail + m - q.cringHead % m) % m then
    (s.modPart p (fun q => { q with cringHead := h })).pumpRecords p s.grid.records.length
  else s

end Sys2Proof.Machine
end

