-- ==== Sys2Proof/Machine/Faults.lean ====
section
/-! DEFINITION. Errors, soundings, retirement, partition reset and replay, the error log (section 14). -/

namespace Sys2Proof.Machine

/-! ## The error log (R458, R459) -/

def FaultUnit.logK (f : FaultUnit) : Nat := fld 3 0 f.logCfg.toNat
def FaultUnit.logOn (f : FaultUnit) : Bool := f.logCfg.getLsbD 4 && 4 ≤ f.logK && f.logK ≤ 12

/-- A record of the error log (Table 14.5): written when the ring is enabled and has room, dropped and counted when it is
full. With log_msg set each record sends a message. -/
def State.errRecord (s : State) (kind : Nat) (part : Option Nat) (code : Nat) (u : UnitId) (result replays : Nat)
    (detail : Nat) : State :=
  let f := s.flt
  if !f.logOn then s
  else if ringFull f.logK f.logHead f.logTail then { s with flt := { f with logDrop := sat32 f.logDrop 1 } }
  else
    let k := f.logK
    let base := fld 31 5 f.logLo.toNat * 32 + fld 15 0 f.logHi.toNat * 2 ^ 32
    let head := b2n (!f.logTail.testBit k) + 2 * kind + 16 * (part.getD 0 % 8) + 128 * b2n part.isNone + 2 ^ 16 * code
    let unit := u.kind + 2 ^ 8 * (u.idx % 256) + 2 ^ 16 * (u.sub % 256) + 2 ^ 24 * result
    let bs := toLe 4 head ++ toLe 4 unit ++ toLe 4 f.logSeq.toNat ++ toLe 4 replays ++ toLe 8 s.tick ++ toLe 8 detail
    let at_ := base + 32 * (f.logTail % 2 ^ k)
    let s := { s with flt := { f with logTail := (f.logTail + 1) % 2 ^ (k + 1), logSeq := f.logSeq + 1#32 } }
    let s := s.postWrite .errlog at_ bs none
    if f.logCfg.getLsbD 5 then s.gmsi else s

/-- An event of R459: its bit of FLT_EVENT and a message. -/
def State.fltEvent (s : State) (bit : Nat) : State :=
  (({ s with flt := { s.flt with event := s.flt.event ||| BitVec.ofNat 32 (2 ^ bit) } } : State).mark 9 8 (2 ^ bit)).gmsi

/-! ## Where a unit is -/

/-- The logical core a physical core serves. -/
def State.logical (s : State) (phys : Nat) : Option Nat :=
  (List.range 32).find? (fun c => let r := s.grid.remap.getD c ⟨0, 0, 0⟩; r.state = 1 && r.phys = phys)

/-- The enabled partition that holds a logical core. -/
def State.holder (s : State) (c : Nat) : Option Nat :=
  (List.range 8).find? (fun p => (s.part p).enable && (s.part p).cores.getLsbD c)

/-- The enabled partition that holds a unit of the shared store. -/
def State.storeHolder (s : State) (u : Nat) : Option Nat :=
  (List.range 8).find? (fun p =>
    let q := s.part p
    q.enable && q.ssBase ≤ u && u < q.ssBase + q.ssUnits)

/-- The partition that holds a unit: cores and store units have one. -/
def State.unitPart (s : State) (u : UnitId) : Option Nat :=
  if u.kind = 0 ∨ u.kind = 2 ∨ u.kind = 3 ∨ u.kind = 4 then (s.logical u.idx).bind s.holder
  else if u.kind = 1 then s.storeHolder u.sub
  else none

/-- A partition's logical cores. -/
def Part.coreList (p : Part) : List Nat := (List.range 32).filter p.cores.getLsbD

/-! ## Starting a reset (R450, R451 step 1) -/

/-- A core stops issuing; its units and slots are abandoned. -/
def Core.resetStop (c : Core) : Core :=
  let k := c.stopWith 0 0 0
  { k with seq := { k.seq with stop := c.seq.stop, errPc := c.seq.errPc, halted := true, running := none } }

/-- A parity mismatch in a core's queue entries, block copies or instruction buffer stops it, with the pc and task it was at (R210,
R232). (DEDUCED, log 59) -/
def Core.parityStop (c : Core) : Core :=
  if c.live then c.stopWith 0x0308 (c.task c.seq.last).pc c.seq.last else c

/-- An owner works for a core of a list. -/
def FabOwner.ofCores (o : FabOwner) (cs : List Nat) : Bool :=
  match o with
  | .stream c _ _ => cs.contains c
  | .write c _ _ => cs.contains c
  | .swapOut c _ _ => cs.contains c
  | .swapIn c _ => cs.contains c
  | .image _ _ c => cs.contains c
  | _ => false

/-- A unit's sounding starts, or joins the one in progress. (DEDUCED, log 59) -/
def State.sound (s : State) (u : UnitId) (part : Option Nat) : State :=
  if s.flt.sounding.any (fun x => x.unit = u) then
    { s with flt := { s.flt with sounding := s.flt.sounding.map (fun x =>
      if x.unit = u then { x with part := x.part <|> part } else x) } }
  else { s with flt := { s.flt with
    soundCnt := sat32 s.flt.soundCnt 1, sounding := s.flt.sounding ++ [⟨u, part⟩] } }

/-- A partition reset starts, or what caused it joins the one in progress (R452). A reset of host software's abandons the
running jobs; the members of a multi-instance job are told of any other (`tell`, R501). (DEDUCED, log 59) -/
def State.resetStart (s : State) (p : Nat) (host : Bool) (units : List UnitId) (lasting : List UnitId) (tell : Bool) :
    State :=
  if s.inReset p then
    let late := s.flt.resets.any (fun r => r.part = p && r.drained)
    let s := { s with flt := { s.flt with resets := s.flt.resets.map (fun r =>
      if r.part = p then { r with host := r.host || host, units := r.units ++ units, lasting := r.lasting ++ lasting }
      else r) } }
    if late then units.foldl (fun s u => s.sound u (some p)) s else s
  else
    let cs := (s.part p).coreList
    let s := { s with flt := { s.flt with
      resetCnt := sat32 s.flt.resetCnt 1, resets := s.flt.resets ++ [(⟨p, host, false, units, lasting⟩ : Reset_)] } }
    let s := cs.foldl (fun s c => s.modCore c Core.resetStop) s
    let s := s.voidReads (fun o => o.ofCores cs)
    let hit := fun (j : Job) => j.part = p && (j.phase = .loading || j.phase = .running)
    let told := s.grid.jobs.filter (fun j => tell && !host && hit j)
    let s := told.foldl (fun s j =>
      match j.multi with
      | some m => (s.otherNodes m).foldl (fun s n => s.sendCell n p (.restart (leAt j.desc 0x28 2) (j.replays + 1))) s
      | none => s) s
    s.modGrid (fun g => { g with jobs := g.jobs.map (fun j =>
      if hit j then { j with phase := .restart }
      else if j.part = p && j.pin && (j.phase = .parked || j.phase = .record) then { j with lost := true }
      else j) })

/-- PRT_CTRL.reset written (R450). -/
def State.resetRequest (s : State) (p : Nat) : State := s.resetStart p true [] [] false

/-! ## Soundings (R444 to R448) -/

/-- The repair area takes a new set, unless the read port cannot be written (R507, R536). -/
def State.keepRepair (s : State) (f : Repair → Repair) : State :=
  if s.alm.nvMode && s.alm.agreed.getD 5 0 = 0x100 then s
  else
    let r := f s.alm.repair
    { s with alm := { s.alm with repair := { r with dirty := true, seq := r.seq + 1 } } }

/-- A logical core's physical core is retired: the lowest free spare takes its place, or the logical core fails (R29, R30,
R447). (DEDUCED, log 58) -/
def State.retireCore (s : State) (phys : Nat) : State :=
  let bad := phys :: s.grid.bad
  let s := s.modGrid (fun g => { g with bad := bad })
  let s := s.keepRepair (fun r => { r with retired := phys :: r.retired })
  match s.logical phys with
  | none => s
  | some c =>
    let used := ((List.range 32).filter (fun d => (s.grid.remap.getD d ⟨0, 0, 0⟩).state = 1)).map
      (fun d => (s.grid.remap.getD d ⟨0, 0, 0⟩).phys)
    match (List.range s.cfg.phys).find? (fun x => !bad.contains x && !used.contains x) with
    | some x =>
      let n := min 255 ((s.grid.remap.getD c ⟨0, 0, 0⟩).count + 1)
      let s := s.modGrid (fun g => { g with remap := setAt g.remap c ⟨x, 1, n⟩ })
      let s := s.keepRepair (fun r => { r with counts := setAt r.counts c n })
      s.modCore c (fun q => { q with tile := [], tileSeal := [], img := .none })
    | none =>
      (s.modGrid (fun g => { g with remap := modAt g.remap c (fun r => { r with state := 2 }) })).fltEvent 1

/-- A lasting fault retires its unit (Table 14.3): a retirement record, FLT_EVENT and a message. (DEDUCED, log 58) -/
def State.retire (s : State) (p : Option Nat) (u : UnitId) : State :=
  let code := if u.kind = 0 then 0x1203 else if u.kind = 1 then 0x1205 else 0
  let keep := fun (s : State) =>
    s.keepRepair (fun r => { r with spareBank := s.flt.spareBank, ssSpare := s.flt.ssSpare, ssFailing := s.flt.ssFailing })
  let core := fun (s : State) =>
    let spare := match s.logical u.idx with
      | some _ => (List.range s.cfg.phys).any (fun x => x ≠ u.idx && !s.grid.bad.contains x && (s.logical x).isNone)
      | none => true
    (((s.retireCore u.idx).errRecord 2 p code u (if spare then 4 else 5) 0 0).fltEvent 0)
  if u.kind = 0 then
    match s.flt.spareBank.getD u.idx none with
    | none =>
      let s := keep { s with flt := { s.flt with spareBank := setAt s.flt.spareBank u.idx (some u.sub) } }
      let s := match s.logical u.idx with
        | some c => s.modCore c (fun q => { q with tile := Sparse.keep q.tile (fun a => a / 16 % 64 ≠ u.sub) })
        | none => s
      (s.errRecord 2 p code u 3 0 0).fltEvent 0
    | some _ => core s
  else if u.kind = 1 then
    match s.flt.ssSpare.getD u.idx none with
    | none =>
      let s := keep { s with
        flt := { s.flt with ssSpare := setAt s.flt.ssSpare u.idx (some u.sub) }
        store := Sparse.clear s.store (u.idx * 2 ^ 21 + u.sub * 65536) 65536 }
      (s.errRecord 2 p code u 3 0 0).fltEvent 0
    | some _ =>
      let s := keep { s with flt := { s.flt with
        ssFailing := modAt s.flt.ssFailing u.idx (fun w => w ||| BitVec.ofNat 32 (2 ^ u.sub)) } }
      ((s.errRecord 2 p code u 6 0 0).fltEvent 0).fltEvent 2
  else if u.kind = 2 ∨ u.kind = 3 ∨ u.kind = 4 then core s
  else s

/-- A lasting fault outside a reset (R448): the partition that holds the unit is reset, a unit of none retires at once. -/
def State.lastingFault (s : State) (u : UnitId) : State :=
  if 5 ≤ u.kind then s
  else
    match s.unitPart u with
    | some p => s.resetStart p false [] [u] true
    | none => s.retire none u

/-- SOUNDING_COMPLETE: the sounding's result classifies the fault (R446). -/
def State.soundingComplete (s : State) (u : UnitId) (mismatch : Bool) : State :=
  match s.flt.sounding.find? (fun x => x.unit = u) with
  | none => s
  | some x =>
    let n := (s.flt.trans.find? (fun e => e.1 = u)).elim 0 Prod.snd + 1
    let lasting := mismatch || s.flt.transLimit ≤ n
    let f := s.flt
    let f := { f with
      sounding := f.sounding.filter (fun y => y.unit ≠ u)
      trans := if mismatch then f.trans else (u, n) :: f.trans.filter (fun e => e.1 ≠ u) }
    let s := { s with flt := f }
    let p := s.unitPart u
    let s := s.errRecord 1 p 0 u (if lasting then 2 else 1) 0 0
    if !lasting then s
    else
      match x.part with
      | some r => { s with flt := { s.flt with resets := s.flt.resets.map (fun y =>
          if y.part = r then { y with lasting := y.lasting ++ [u] } else y) } }
      | none => s.lastingFault u

/-- TRANSIENT_COUNT_HALVE: once for each multiple of 2^32 that the tick has reached (R446). -/
def State.halveTransients (s : State) : State :=
  if s.tick < 2 ^ 32 * (s.flt.halved + 1) then s
  else { s with flt := { s.flt with halved := s.flt.halved + 1, trans := (s.flt.trans.map (fun e => (e.1, e.2 / 2))).filter (fun e => e.2 ≠ 0) } }

/-! ## Errors (Table 14.1) -/

/-- Where an error is detected. `cacheLine` names a core's line, `sideLine` one of the Intake's or the inbound link path's (named by engine
number), `walks` a stop's walk queue and `pending` one of its
pending-fault entries by Chart index; `ue` an uncorrectable error. -/
def ErrSite.unit : ErrSite → UnitId
  | .tile ph b _ => ⟨0, ph, b⟩
  | .store sl u _ => ⟨1, sl, u⟩
  | .parity ph => ⟨4, ph, 0⟩
  | .array ph a => ⟨2, ph, a⟩
  | .element ph l => ⟨3, ph, l⟩
  | .lineBuffer ph => ⟨4, ph, 0⟩
  | .slotState ph => ⟨4, ph, 0⟩
  | .cacheLine ph _ => ⟨5, ph, 0⟩
  | .sideLine l _ => ⟨5, if l then 33 else 32, 0⟩
  | .walks f _ => ⟨5, f, 0⟩
  | .pending f _ => ⟨5, f, 1⟩
  | .intake l => ⟨6, 0, l⟩
  | .binnacle c _ => ⟨8, c, 0⟩

/-- The error's code. -/
def ErrSite.code : ErrSite → Nat
  | .tile _ _ ue => if ue then 0x1203 else 0x1202
  | .store _ _ ue => if ue then 0x1205 else 0x1204
  | .parity _ => 0x0308
  | .array _ _ => 0x0408
  | .element _ _ => 0x050A
  | .lineBuffer _ => 0x0606
  | .slotState _ => 0x0709
  | .cacheLine _ _ => 0x0807
  | .sideLine _ _ => 0x0807
  | .walks _ _ => 0x0807
  | .pending _ _ => 0x0807
  | .intake _ => 0x1206
  | .binnacle _ _ => 0x1208

def ErrSite.corrected : ErrSite → Bool
  | .tile _ _ ue => !ue
  | .store _ _ ue => !ue
  | .binnacle _ ue => !ue
  | _ => false

/-- Partitions of the waiters of a walk queue's line or of a pending-fault entry. -/
def State.sitePartitions (s : State) : ErrSite → List Nat
  | .walks f line => (((s.stop f).walks.filter (fun w => w.line = line)).flatMap Walk.waiters).map Waiter.part
  | .pending f i =>
    ((s.stop f).pend.filter (fun p => p.index = i)).flatMap (fun p => p.part :: p.waiters.map Waiter.part)
  | _ => []

/-- A control core restarts (R443): an interrupted dispatch of control core 0 starts again from its queue entry. -/
def State.ctlRestart (s : State) (c : Nat) : State :=
  let s := { s with flt := { s.flt with restarting := setAt s.flt.restarting c true } }
  if c ≠ 0 then s
  else
    let open_ := s.grid.jobs.filter (fun j => j.phase = .table || j.phase = .headers)
    let back := (s.grid.fetches.filter (fun f => !s.grid.disp.any (fun e => e.part = f.part && e.ring = f.ring))).map
      (fun f => (⟨f.part, f.ring, f.tick, f.seq, false⟩ : DispEntry))
    let s := s.voidReads (fun o => (List.range 8).any o.ofBinnacle)
    s.modGrid (fun g => { g with
      fetches := [], disp := back.eraseDups ++ g.disp, jobs := g.jobs.filter (fun j => !open_.contains j) })

/-- A control core's duty goes on only outside its restart. -/
def State.dutyOk (s : State) (c : Nat) : Bool := !s.flt.restarting.getD c false

/-- ERROR_DETECTED: the error is counted, logged, sounded, and may reset partitions. -/
def State.errorDetected (s : State) (e : ErrSite) (detail : Nat) : State :=
  let u := e.unit
  let p := s.unitPart u
  let s := { s with flt := if e.corrected then { s.flt with ce := sat32 s.flt.ce 1 }
                           else { s.flt with ue := sat32 s.flt.ue 1 } }
  let s := s.errRecord 0 p e.code u 0 0 detail
  match e with
  | .tile _ _ ue | .store _ _ ue =>
    let s := if ue then { s with flt := { s.flt with ueNow := u :: s.flt.ueNow } } else s
    match ue, p with
    | true, some p => s.resetStart p false [u] [] true
    | _, _ => s.sound u (if (p.elim false s.inReset) then p else none)
  | .parity _ | .array _ _ | .element _ _ | .lineBuffer _ | .slotState _ =>
    let s := match e with
      | .parity ph => ((s.logical ph).map (fun c => s.modCore c Core.parityStop)).getD s
      | _ => s
    match p with
    | some p => s.resetStart p false [u] [] true
    | none => s.sound u none
  | .cacheLine ph line =>
    let s := match s.logical ph with
      | some c => s.modCore c (fun q => { q with mmu := { q.mmu with
          cache := q.mmu.cache.filter (fun l => l.line ≠ line) } })
      | none => s
    s.sound u none
  | .sideLine l line =>
    let drop := fun (m : SideMmu) => { m with cache := m.cache.filter (fun k => k.line ≠ line) }
    (s.modCht (fun c => if l then { c with lnk := drop c.lnk } else { c with itk := drop c.itk })).sound u none
  | .walks _ _ | .pending _ _ =>
    (((s.sitePartitions e).eraseDups).foldl (fun s p => s.resetStart p false [] [] true) s).sound u none
  | .intake l =>
    let s := { s with itk := { s.itk with lanes := modAt s.itk.lanes l (fun o => o.map (fun (x : ItkLane) =>
      if x.resolved then x else { x with rdDone := 0, bytes := [] })) } }
    (s.voidReads (fun o => match o with
      | .sampleData _ k => k = l
      | _ => false)).sound u none
  | .binnacle c ue => if ue then ((s.ctlRestart c).errRecord 5 none e.code u 0 0 0).fltEvent 3 else s

/-- WATCHDOG_EXPIRY. -/
def State.watchdog (s : State) (c : Nat) : State :=
  let u : UnitId := ⟨8, c, 0⟩
  let s := { s with flt := { s.flt with ue := sat32 s.flt.ue 1 } }
  (((s.errRecord 0 none 0x1209 u 0 0 0).ctlRestart c).errRecord 5 none 0x1209 u 0 0 0).fltEvent 3

/-- CONTROL_CORE_RESTART_DONE. -/
def State.ctlRestarted (s : State) (c : Nat) : State :=
  { s with flt := { s.flt with restarting := setAt s.flt.restarting c false } }

/-! ## Drain, clear, complete (R451 steps 2 to 5) -/

/-- A packet of the mesh that belongs to one of these cores or to the partition. -/
def Pkt.belongs (k : Pkt) (p : Nat) (cs : List Nat) : Bool :=
  let eng := fun (e : Engine) => match e with
    | .core c => cs.contains c.val
    | _ => false
  match k with
  | .start c _ => cs.contains c
  | .notice c => cs.contains c
  | .creditReq a _ _ => cs.contains a
  | .creditGrant a _ _ => cs.contains a
  | .creditRet a _ _ => cs.contains a
  | .message a _ _ => cs.contains a
  | .barArrive q _ _ _ => q = p
  | .barDone c _ => cs.contains c
  | .hqPut q _ _ _ _ _ => q = p
  | .hqPutRep c _ _ => cs.contains c
  | .hqGet q _ _ _ => q = p
  | .hqGetRep c _ _ _ => cs.contains c
  | .hqSpace c _ => cs.contains c
  | .chain _ c _ => cs.contains c
  | .walk _ _ w => eng w.eng
  | .fill e _ _ _ _ => eng e
  | .halt e _ _ => eng e
  | .retry e _ => eng e
  | .faultRec _ r => r.part = p
  | .release _ q _ _ => q = p

/-- Every write of the partition has been acknowledged, and the acknowledgement of a record taken; one that a scrub keeps
from being issued does not count. -/
def State.partWritesDone (s : State) (p : Nat) : Bool :=
  s.fab.accs.all (fun a => !(a.write && a.part = some p && !a.done && !(s.inScrub p && a.tag.isNone))) &&
    s.fab.rem.all (fun a => !(a.write && a.part = p && !a.done && !(s.inScrub p && s.unsentAcc p a))) &&
    s.grid.records.all (fun r => !(r.part = p && s.fab.accs.any (fun a => some a.no = r.issued && a.done)))

/-- What step 4 clears of a core: tile memory, residency, mailbox and barrier counts, the wait slot, handle bindings,
buffer and chain definitions, line tags, Chart cache and segment copies, and everything in progress. Seal bits are kept
(R295), and so are registers that the rules clear at the start of a job only (R131, R167, R192, R259, R298). -/
def Core.clearReset (c : Core) : Core :=
  { c with
    tile := []
    img := .none
    park := none
    tasks := Vector.replicate 4 Task.idle0
    arr := c.arr.abandon
    elm := { c.elm.abandon with handles := List.replicate 16 Handle.unbound, fileValid := false, file := [] }
    cnv := { c.cnv.abandon with slots := c.cnv.slots.map (fun s => { s with tag := none }) }
    str := { c.str with
      queue := [], slots := StreamUnit.reset.slots, bufs := StreamUnit.reset.bufs, chains := StreamUnit.reset.chains
      chainIn := [], loads := [] }
    msg := { MsgUnit.reset with sendCnt := c.msg.sendCnt, recvCnt := c.msg.recvCnt }
    mmu := { c.mmu with segs := List.replicate 16 Seg.zero, cache := [], walks := [] }
    seq := { c.seq with started := false, running := none, final := false, halted := false, parked := false } }

/-- The shared-store bytes of a partition cleared. -/
def State.clearStore (s : State) (p : Nat) : State :=
  let q := s.part p
  (List.range s.cfg.slices).foldl (fun s i =>
    { s with store := Sparse.clear s.store (i * 2 ^ 21 + q.ssBase * 65536) (q.ssUnits * 65536) }) s

/-- The pending faults, records not yet written and waiters of a partition's cores are discarded (R317). -/
def State.dropFaults (s : State) (p : Nat) (cs : List Nat) : State :=
  let mine := fun (w : Waiter) => match w.eng with
    | .core c => cs.contains c.val
    | _ => false
  let s := s.modCht (fun c => { c with stops := c.stops.map (fun t =>
    { walks := t.walks.map (fun w => { w with waiters := w.waiters.filter (fun x => !mine x) })
      pend := t.pend.filter (fun x => x.part ≠ p) }) })
  s.modPart p (fun q => { q with fringWait := [] })

/-- PARTITION_RESET_DRAINED: with every write acknowledged and the packets gone, soundings start and memory is cleared.
The Intake and the inbound link path walk again for what waited on a discarded fault (DEDUCED, log 59).
This is control core 1's duty. -/
def State.resetDrained (s : State) (p : Nat) : State :=
  match s.flt.resets.find? (fun r => r.part = p) with
  | none => s
  | some r =>
    if r.drained || !s.partWritesDone p || !s.dutyOk 1 then s
    else
      let cs := (s.part p).coreList
      let s := s.dropPkts (fun k => k.belongs p cs)
      let again := fun (m : SideMmu) => { m with walks := m.walks.map (fun w => match w.st with
        | .refused _ => w
        | _ => if w.part = p then { w with st := .toSend } else w) }
      let s := s.modCht (fun c => { c with itk := again c.itk, lnk := again c.lnk })
      let queues := (s.grid.jobs.filter (fun j => j.part = p)).foldl (fun m j => m ||| j.hqMask) 0
      let s := cs.foldl (fun s c => s.modCore c Core.clearReset) s
      let s := (s.clearStore p).dropFaults p cs
      let s := s.modPart p (fun q => { q with
        hqs := (List.range 64).map (fun i => if queues.testBit i then HQueue.reset else q.hqs.getD i HQueue.reset)
        hqInflight := 0
        bars := [] })
      let s := s.modGrid (fun g => { g with barLocal := g.barLocal.filter (fun b => b.1 ≠ p) })
      let chain := (s.grid.jobs.filter (fun j => j.part = p)).map Job.chainJob
      let s := { s with lnk := { s.lnk with arrivals := s.lnk.arrivals.filter (fun a => !chain.contains a.1) } }
      let s := { s with flt := { s.flt with resets := s.flt.resets.map (fun x =>
        if x.part = p then { x with drained := true } else x) } }
      r.units.foldl (fun s u => s.sound u (some p)) s

/-- A job that a reset interrupted is replayed or ends (R453 to R455). -/
def State.replay (s : State) (j : Job) : State :=
  let set := fun (s : State) (j' : Job) => s.modGrid (fun g => { g with jobs := g.jobs.map (fun k => if k = j then j' else k) })
  let fin := fun (s : State) (st : Nat) =>
    if j.silent then
      match j.resume with
      | some (inv, bell, seq, n) =>
        let j' := { j with silent := false, resume := none, kind := 1, pos := inv, bell := bell, bellSeq := seq, replays := n }
        (set s j').endJob j' st
      | none => s.unpinNow j st
    else s.endJob j st
  if j.coreList.any (fun c => (s.grid.remap.getD c ⟨0, 0, 0⟩).state = 2) then fin s 0x0201
  else if s.flt.replayMax ≤ j.replays then
    ((fin s 0x1201).errRecord 4 (some j.part) 0x1201 ⟨0, 0, 0⟩ 0 j.replays (leAt j.desc 0x18 8)).fltEvent 4
  else
    let fresh := { j with
      replays := j.replays + 1, tStart := none, tFinal := 0, status := 0, stopCore := none, numflags := 0,
      images := j.images.map (fun i => { i with resident := false }) }
    if j.kind = 1 ∧ !j.silent then
      let j' := { fresh with silent := true, lost := false, resume := some (j.pos, j.bell, j.bellSeq, j.replays + 1) }
      (set s j').beginLoads j'
    else if j.silent then
      let j' := { fresh with resume := j.resume.map (fun r => (r.1, r.2.1, r.2.2.1, r.2.2.2 + 1)) }
      (set s j').beginLoads j'
    else (set s fresh).beginLoads fresh

/-- A job abandoned by a reset of host software's (R353); a pin ends with the same status. -/
def State.abandon (s : State) (j : Job) : State :=
  if j.phase = .parked then s.unpinNow j 0x0906
  else if j.silent then
    match j.resume with
    | some (inv, bell, seq, n) =>
      let j' := { j with silent := false, resume := none, kind := 1, pos := inv, bell := bell, bellSeq := seq, replays := n }
      (s.modGrid (fun g => { g with jobs := g.jobs.map (fun k => if k = j then j' else k) })).endJob j' 0x0906
    | none => s.unpinNow j 0x0906
  else s.endJob j 0x0906

/-- PARTITION_RESET_COMPLETE: the soundings of the reset are over; lasting faults retire their units, jobs are replayed or
abandoned. (DEDUCED, log 60) -/
def State.resetComplete (s : State) (p : Nat) : State :=
  match s.flt.resets.find? (fun r => r.part = p) with
  | none => s
  | some r =>
    if !r.drained || !s.dutyOk 1 || s.flt.sounding.any (fun x => x.part = some p) then s
    else
      let s := r.lasting.eraseDups.foldl (fun s u => s.retire (some p) u) s
      let s := { s with flt := { s.flt with resets := s.flt.resets.filter (fun x => x.part ≠ p) } }
      let hit := s.grid.jobs.filter (fun j => j.part = p && j.phase = .restart)
      let most := (hit.map Job.replays).foldl max 0
      let s := s.errRecord 3 (some p) 0 ⟨0, 0, 0⟩ 0 most 0
      let lost := s.grid.jobs.filter (fun j => j.part = p && j.phase = .parked && j.lost)
      if r.host then (hit ++ lost).foldl State.abandon s
      else lost.foldl State.restore (hit.foldl State.replay s)

end Sys2Proof.Machine
end

