-- ==== Sys2Proof/Machine/Partitions.lean ====
section
/-! DEFINITION. Partitions, shares, reports and watch mode (section 12). -/

namespace Sys2Proof.Machine

/-! ## Make-up and enable (R387, R388, R449) -/

/-- Two unit ranges share a unit. -/
def unitsMeet (a n b m : Nat) : Bool := 0 < n && 0 < m && a < b + m && b < a + n

/-- The conditions of R388 and R449. -/
def State.makeUpOk (s : State) (p : Nat) : Bool :=
  let q := s.part p
  let others := ((List.range 8).filter (fun r => r ≠ p && (s.part r).enable)).map s.part
  q.cores ≠ 0 && q.cores.toNat < 2 ^ s.cfg.cores && others.all (fun r => r.cores &&& q.cores = 0) &&
    q.ssBase + q.ssUnits ≤ 32 && q.ssUnits ≤ 16 &&
    others.all (fun r => !unitsMeet q.ssBase q.ssUnits r.ssBase r.ssUnits) &&
    s.flt.ssFailing.all (fun w => (List.range q.ssUnits).all (fun i => !w.getLsbD (q.ssBase + i)))

/-- Setting enable. -/
def State.partEnable (s : State) (p : Nat) : State :=
  if (s.part p).enable then s
  else if s.makeUpOk p then s.modPart p (fun q => { q with enable := true })
  else s.modPart p (fun q => { q with cfgErr := true })

/-- Clearing enable: ignored, setting cfg_err, while a job of the partition runs or is parked. -/
def State.partDisable (s : State) (p : Nat) : State :=
  if !(s.part p).enable then s
  else if s.hasJob p then s.modPart p (fun q => { q with cfgErr := true })
  else s.modPart p (fun q => { q with enable := false })

/-- A write to PRT_CTRL: the issue floor, enable, a reset request. -/
def State.prtCtrl (s : State) (p v : Nat) : State :=
  let s := s.modPart p (fun q => { q with floor := fld 14 8 v })
  let s := if v.testBit 0 then s.partEnable p else s.partDisable p
  if v.testBit 1 then s.resetRequest p else s

/-- Writes to PRT_CORES and PRT_SS: ignored while enabled. -/
def State.prtCores (s : State) (p v : Nat) : State :=
  s.modPart p (fun q => if q.enable then q else { q with cores := BitVec.ofNat 32 v })
def State.prtSs (s : State) (p v : Nat) : State :=
  s.modPart p (fun q => if q.enable then q else { q with ssBase := fld 4 0 v, ssUnits := fld 12 8 v })

/-! ## Shares (R391) -/

/-- Every resource's staged shares sum to 1,024. -/
def State.sharesSum (s : State) : Bool :=
  (List.range 4).all (fun r => (s.parts.toList.map (fun p => p.stage.getD r 0)).foldl (· + ·) 0 = 1024)

/-- PRT_SHARE_COMMIT. -/
def State.shareCommit (s : State) : State :=
  if s.sharesSum then { s with parts := s.parts.map (fun (p : Part) => { p with share := p.stage }) }
  else s.modGrid (fun g => { g with shareErr := true })

/-! ## Reports (R405) -/

/-- REPORT_WINDOW_CLOSE: with the tick that closes a window, each partition's figures are latched, and the message is sent. (DESIGN CHOICE,
log 77) -/
def State.reportClose (s : State) : State :=
  let s := s.reportTurn
  if s.grid.reportDue then (s.modGrid (fun g => { g with reportDue := false })).gmsi else s

/-! ## Watch mode (R406 to R409) -/

/-- The conditions of R406 on the partition and on the others. -/
def State.watchOk (s : State) (w : Nat) : Bool :=
  s.grid.watch = .normal && (s.part w).enable && ((List.range 32).filter (fun c => (s.part w).cores.getLsbD c)).length = 1 &&
    (List.range 8).all (fun p => p = w || (!s.hasJob p && s.grid.disp.all (fun e => e.part ≠ p) && s.grid.fetches.all (fun f => f.part ≠ p)))

/-- A write to PRT_WATCH_CTRL: the watch partition; enter, refused unless the conditions hold; exit, which starts a wake. -/
def State.watchCtrl (s : State) (v : Nat) : State :=
  let w := fld 2 0 v
  let s := s.modGrid (fun g => { g with watchSel := w })
  let s :=
    if v.testBit 8 then
      if s.watchOk w then s.modGrid (fun g => { g with watch := .entering, watchIn := w })
      else s.modGrid (fun g => { g with watchRefused := true })
    else s
  if v.testBit 9 ∧ s.grid.watch = .watch then s.modGrid (fun g => { g with watch := .waking }) else s

/-- The links go down with the link stop's power (R532). -/
def Links.allDown (l : Links) : Links :=
  let ports := (List.range 2).map (fun p =>
    let q := l.ports.getD p .reset
    let up := (l.subs.getD (2 * p) .reset).st ≠ .down || (l.subs.getD (2 * p + 1) .reset).st ≠ .down
    if up then { q with event := q.event ||| 1#32 } else q)
  { l with ports := ports, subs := l.subs.map (fun x => { SubLink.reset with epoch := x.epoch }) }

/-- WATCH_ENTRY_COMPLETE: the other cores have lost their records and memory, their seal bits kept (R295), the links are down, the PLL runs at 2.2 GHz
(R407): what has passed of the tick is the same time in cycles of the new rate (R8). (DEDUCED, log 66) (DESIGN CHOICE, log 77) -/
def State.watchEntered (s : State) : State :=
  if s.grid.watch ≠ .entering then s
  else
    let keep := (s.part s.grid.watchIn).cores
    let up := s.lnk.subs.any (fun x => x.st ≠ .down)
    let s := (List.range 32).foldl (fun s c =>
      if keep.getLsbD c then s else s.modCore c (fun q => { q with tile := [], img := .none })) s
    let s := (List.range 2).foldl (fun (s : State) p =>
      if (s.lnk.subs.getD (2 * p) .reset).st ≠ .down ∨ (s.lnk.subs.getD (2 * p + 1) .reset).st ≠ .down then s.mark 0xB (0x10C + 0x40 * p) 1
      else s) s
    let s := { s with lnk := s.lnk.allDown }
    let s := { s.modGrid (fun g => { g with watch := .watch }) with clk := { s.clk with sub := s.clk.sub / 4 } }
    if up then s.gmsi else s

/-- WAKE_COMPLETE: the PLL is back at 8.8 GHz and waiting doorbells are taken (R409). (DEDUCED, log 66) (DESIGN CHOICE, log 77) -/
def State.wakeDone (s : State) : State :=
  if s.grid.watch = .waking then
    { s.modGrid (fun g => { g with watch := .normal }) with clk := { s.clk with sub := s.clk.sub * 4 } }
  else s

end Sys2Proof.Machine
end

