-- ==== Sys2Proof/Machine/Window.lean ====
section
/-! DEFINITION. The host slave port's address space, and accesses to on-chip memory through it (R326 to R332, R452, R474,
R482, R505, R525). -/

namespace Sys2Proof.Machine

/-- Where a host address leads (Tables 10.1 and 10.2): nowhere, on-chip memory with the partition that holds it, or a
register page and offset; pages are numbered by full-aperture address from 0x600_0000 in 4 KiB. -/
inductive Target where
  | none
  | mem (part : Option Nat) (place : Place)
  | page (page off : Nat)
  | ctl (part off : Nat)
deriving DecidableEq, Repr

/-- The place of byte o of a partition's memory space (R329). -/
def State.partSpace (s : State) (p o : Nat) : Option Place :=
  let cs := (s.part p).coreList
  let n := cs.length * 2 ^ 21
  if o < n then some (.tile (cs.getD (o / 2 ^ 21) 0) (o % 2 ^ 21))
  else if o - n < s.ssCapacity p then some (.store (s.ssPlace p (o - n)))
  else none

/-- Decode a full-aperture address; a failed logical core has no physical core to reach (R30, R327). -/
def State.fullTarget (s : State) (a : Nat) : Target :=
  if a < 0x4000000 then
    let c := a / 2 ^ 21
    if c < s.cfg.cores ∧ (s.grid.remap.getD c ⟨0, 0, 0⟩).state ≠ 2 then .mem (s.holder c) (.tile c (a % 2 ^ 21)) else .none
  else if a < 0x6000000 then
    let i := (a - 0x4000000) / 2 ^ 21
    if i < s.cfg.slices then .mem (s.storeHolder (a % 2 ^ 21 / 65536)) (.store (a - 0x4000000)) else .none
  else
    let pg := (a - 0x6000000) / 4096
    let off := a % 4096
    if 0x20 ≤ pg ∧ pg < 0x28 then .ctl (pg - 0x20) off else .page pg off

/-- Decode a host address; none of its bytes counted. -/
def State.target (s : State) (a : Nat) : Target :=
  if a < 0x8000000 then s.fullTarget a
  else
    let p := (a - 0x8000000) / 0x200000
    let o := (a - 0x8000000) % 0x200000
    if s.cfg.parts ≤ p then .none
    else if o < 0x100000 then
      match s.partSpace p ((s.part p).winStep * 65536 + o) with
      | some pl => .mem (some p) pl
      | none => .none
    else if o < 0x101000 then .ctl p (o - 0x100000)
    else .none

/-- The master is admitted to the address (R476). -/
def State.admits (s : State) (mid : BitVec 8) (a : Nat) : Bool :=
  if a < 0x8000000 then s.admitsFull mid else s.admitsPart mid ((a - 0x8000000) / 0x200000)

/-- The partition whose HST_DROP_CNT counts a write refused at an address (R331). (DEDUCED, log 21) -/
def State.dropPart (s : State) (a : Nat) : Option Nat :=
  if 0x8000000 ≤ a then
    let p := (a - 0x8000000) / 0x200000
    if p < s.cfg.parts ∧ (a - 0x8000000) % 0x200000 < 0x101000 then some p else none
  else
    match s.target a with
    | .mem p _ => p
    | .page pg _ => if 0x10 ≤ pg ∧ pg < 0x10 + s.cfg.parts then some (pg - 0x10) else none
    | .ctl p _ => if p < s.cfg.parts then some p else none
    | .none => none

def State.dropAddr (s : State) (a : Nat) : State :=
  match s.dropPart a with
  | some p => s.dropWin p
  | none => s

/-- Before the block is ready only the ALM page and the store slices answer (R505). (DESIGN CHOICE, log 19) -/
def State.portServes (s : State) (a : Nat) : Bool :=
  s.ready || (0x4000000 ≤ a && a < 0x6000000) || (0x600C000 ≤ a && a < 0x600D000)

/-- A place's 4 KiB unit has its seal bit set. -/
def State.sealedAt (s : State) (pl : Place) : Bool :=
  match pl with
  | .tile c a => (s.core c).tileSeal.contains (a / 4096)
  | .store a => s.storeSeal.contains (a / 4096)
  | _ => false

/-- The memory unit of a place (R444): a tile-memory bank of 32 KiB, a shared-store bank of 64 KiB. -/
def State.placeUnit (s : State) (pl : Place) : Option UnitId :=
  match pl with
  | .tile c a => some ⟨0, (s.grid.remap.getD c ⟨0, 0, 0⟩).phys, a / 16 % 64⟩
  | .store a => some ⟨1, a / 2 ^ 21, a % 2 ^ 21 / 65536⟩
  | _ => none

/-- What a host read of on-chip memory returns: 0 where it meets an uncorrectable error (R442). (DEDUCED, log 59) -/
def State.readPlace (s : State) (pl : Place) (n : Nat) : Nat :=
  if (s.placeUnit pl).any s.flt.ueNow.contains then 0
  else match pl with
  | .tile c a => ofLe ((s.core c).tile.read a n)
  | .store a => ofLe (s.store.read a n)
  | _ => 0

def State.writePlace (s : State) (pl : Place) (bs : List Byte) : State :=
  match pl with
  | .tile c a => s.modCore c (fun q => { q with tile := q.tile.write a bs })
  | .store a => { s with store := s.store.write a bs }
  | _ => s

/-- Memory of a partition in reset or in scrub reads 0 and drops writes (R452, R482). -/
def State.shut (s : State) (p : Option Nat) : Bool := p.elim false (fun p => s.inReset p || s.inScrub p)

/-- A window write into an image's code or read-only sections clears its residency record (R228). -/
def Core.unprotect (q : Core) (a n : Nat) : Core :=
  if q.protects a n then { q with img := { q.img with valid := false } } else q

def State.winPerform (s : State) (pl : Place) (bs : List Byte) : State :=
  match pl with
  | .tile c a => (s.modCore c (fun q => q.unprotect a bs.length)).writePlace pl bs
  | _ => s.writePlace pl bs

/-- A write of on-chip memory arrives: checked and sent to its bank, in arrival order; during a reset or scrub of its partition it is
dropped and counted (R331, R452, R482). -/
def State.memWrite (s : State) (mid : BitVec 8) (a size : Nat) (data : Nat) : State :=
  let n := 2 ^ size
  if !s.portOpen || a % n ≠ 0 then s
  else if !s.portServes a then s
  else if !s.admits mid a then s.dropAddr a
  else
    match s.target a with
    | .mem p pl =>
      if s.shut p then s.dropAddr a
      else
      let st := s.stamp
      st.2.modGrid (fun g => { g with wins := g.wins ++ [⟨st.1, p, pl, toLe n data⟩] })
    | .none => if 0x8000000 ≤ a then s.dropAddr a else s
    | _ => s

/-- WINDOW_WRITE_RETIRE: write number n, the oldest of its partition, reaches its bank; it is dropped and counted while
the partition is shut or the unit is sealed. (DEDUCED, log 22) -/
def State.winRetire (s : State) (n : Nat) : State :=
  match s.grid.wins[n]? with
  | none => s
  | some w =>
    if (s.grid.wins.take n).any (fun x => x.part = w.part) then s
    else
      let s := s.modGrid (fun g => { g with wins := dropAt g.wins n })
      if s.shut w.part || s.sealedAt w.place then
        match w.part with
        | some p => s.dropWin p
        | none => s
      else s.winPerform w.place w.data

/-- A write to one of the 8 B words of an access has not retired (R525). -/
def State.wordBusy (s : State) (pl : Place) : Bool :=
  s.grid.wins.any (fun w => match w.place, pl with
    | .tile c a, .tile d b => c = d && a / 8 = b / 8
    | .store a, .store b => a / 8 = b / 8
    | _, _ => false)

/-- Writes retire, oldest first, until none of the word of an access is left (R525). (DEDUCED, log 22) -/
def State.retireTo (s : State) (pl : Place) : Nat → State
  | 0 => s
  | n + 1 => if s.wordBusy pl then State.retireTo (s.winRetire 0) pl n else s

/-- The value a read of on-chip memory returns, after the earlier writes to its word; a sealed unit reads 0 and counts
(R474). -/
def State.memRead (s : State) (p : Option Nat) (pl : Place) (n : Nat) : State :=
  let s := s.retireTo pl s.grid.wins.length
  if s.shut p then { s with reads := s.reads ++ [0] }
  else if s.sealedAt pl then
    let s := { s with reads := s.reads ++ [0] }
    match p with
    | some p => s.dropWin p
    | none => s
  else { s with reads := s.reads ++ [BitVec.ofNat 64 (s.readPlace pl n)] }

/-! ## Doorbells at the port (R341, R342, R357) -/

/-- A write to HST_DOORBELL that the port has accepted: dropped when it is no single 8 B write, before the block is ready, or
refused. -/
def State.doorbell (s : State) (p : Nat) (size : Nat) (d : DWord) : State :=
  if size ≠ 3 || !s.ready then s.dropBell p else s.presentBell p d

end Sys2Proof.Machine
end

