-- ==== Sys2Proof/Machine/Banks.lean ====
section
/-! DEFINITION. The 64 tile-memory banks of a core and the slices of the shared store: who asks for which, and whom each grants (R392,
R394, R395, Tables 12.1 and 12.2). -/

namespace Sys2Proof.Machine

/-! ## The arbiter -/

/-- Table 12.2. -/
def Requester.rank : Requester → Nat
  | .feeder => 1
  | .pipe => 2
  | .writer => 2
  | .lines => 3
  | .fetch => 4
  | .streamRead => 5
  | .streamWrite => 6
  | .window => 7
  | .sounding => 0

def Requester.all : List Requester := [.feeder, .pipe, .writer, .lines, .fetch, .streamRead, .streamWrite, .window]

/-- The place of a request that has waited `n` A-cycles: a host access that has waited 56 goes ahead of every other. -/
def Requester.place (r : Requester) (n : Nat) : Nat := if r = .window ∧ 56 ≤ n then 0 else r.rank

/-- The requester a bank grants among those that ask, each with the A-cycles it has waited: the best class, in it the earliest request,
on equal age the first from the bank's pointer. The flag says that the pointer decided. (DEDUCED, log 78) -/
def bankGrant (ptr : Nat) (reqs : List (Requester × Nat)) : Option (Requester × Bool) :=
  let best := reqs.foldl (fun m e => min m (e.1.place e.2)) 8
  let same := reqs.filter (fun e => e.1.place e.2 = best)
  let age := same.foldl (fun m e => max m e.2) 0
  let old := (same.filter (fun e => e.2 = age)).map Prod.fst
  let turn := Requester.all.drop (ptr % 8) ++ Requester.all.take (ptr % 8)
  (turn.find? old.contains).map (fun r => (r, decide (1 < old.length)))

def BankUnit.wait (b : BankUnit) (r : Requester) : Nat := ((b.waits.find? (fun e => e.1 = r)).map Prod.snd).getD 0
def BankUnit.ptr (b : BankUnit) (n : Nat) : Nat := ((b.ptrs.find? (fun e => e.1 = n)).map Prod.snd).getD 0

/-- Bursts of the soundings of a core's banks go on or begin: one takes its bank for 5 A-cycles, the next begins `period` A-cycles after
it, but not while a host access has waited 51 (R445, Table 14.2). -/
def BankUnit.bursts (b : BankUnit) (sounded : List Nat) (period : Nat) : List (Nat × Nat) :=
  sounded.map (fun n =>
    match b.march.find? (fun e => e.1 = n) with
    | some e => if e.2 + 1 < period ∨ 51 ≤ b.wait .window then (n, e.2 + 1) else (n, 0)
    | none => if 51 ≤ b.wait .window then (n, period) else (n, 0))

/-- An A-cycle of the banks: each that no burst holds grants one of those that ask for it; the pointer moves past the winner of a tie; a
request not granted all its banks has waited one A-cycle more. -/
def BankUnit.arbitrate (b : BankUnit) (wants : List (Requester × List Nat)) (march : List (Nat × Nat)) : BankUnit :=
  let held := (march.filter (fun e => e.2 < 5)).map Prod.fst
  let banks := ((wants.flatMap Prod.snd).eraseDups).filter (fun n => !held.contains n)
  let got := banks.filterMap (fun n =>
    (bankGrant (b.ptr n) ((wants.filter (fun w => w.2.contains n)).map (fun w => (w.1, b.wait w.1)))).map (fun g => (n, g)))
  let won := got.map (fun e => (e.1, e.2.1))
  let tied := (got.filter (fun e => e.2.2)).map (fun e => (e.1, (Requester.all.findIdx (fun r => r = e.2.1) + 1) % 8))
  { won := held.map (fun n => (n, .sounding)) ++ won
    march := march
    waits := wants.map (fun w => (w.1, if w.2.all (fun n => won.contains (n, w.1)) then 0 else b.wait w.1 + 1))
    ptrs := tied ++ b.ptrs.filter (fun e => tied.all (fun x => x.1 ≠ e.1)) }

/-- One of these banks is granted to another requester in this A-cycle. -/
def BankUnit.denies (b : BankUnit) (r : Requester) (banks : List Nat) : Bool :=
  b.won.any (fun e => banks.contains e.1 && e.2 ≠ r)

/-! ## What is asked for -/

/-- Banks of a byte range of tile memory: 16 B a bank, 64 banks in turn (R103). (DEDUCED, log 78) -/
def banksOf (a n : Nat) : List Nat :=
  if n = 0 then [] else (List.range (min 64 ((a + n - 1) / 16 + 1 - a / 16))).map (fun i => (a / 16 + i) % 64)

/-- Tile bytes of streamed vector or step i (R99). -/
def ArrOp.vecRanges (o : ArrOp) (i : Nat) : List (Nat × Nat) :=
  (((o.srcV : Int) + i * o.vstride).toNat, o.vecBytes) ::
    (if !o.fv.isMx then []
     else if o.gimbal then [(o.sclV + 8 * (i / 32), 8)]
     else if o.isO then [(o.sclV + 32 * (i / 32), 32)]
     else [(o.sclV + i, 1)])

/-- Tile bytes that the element pipe's next vector reads (R134). -/
def Core.pipeRanges (c : Core) : List (Nat × Nat) :=
  match c.elm.acts.find? (fun a => !a.allIn) with
  | none => []
  | some a =>
    let e := a.cmd
    let in0 := if e.src0 = 2 then [(((e.addr0 : Int) + a.entered * e.stride0).toNat, e.fmt0.bytes e.lanes)] else []
    let in1 := match e.src1 with
      | 1 => [(((e.addr1 : Int) + a.entered * e.stride1).toNat, e.fmt1.bytes e.lanes)]
      | 2 => if a.bcast.isNone then [(e.addr1, e.fmt1.bytes e.lanes)] else []
      | _ => []
    in0 ++ in1

/-- Tile bytes of the next line-buffer or global-average read (R174, R190). -/
def Core.lineRanges (c : Core) : List (Nat × Nat) :=
  match c.cnv.settle.acts.find? ConvAct.reading with
  | none => []
  | some a =>
    match a.cmd, a.toLoad with
    | .gavg g, _ => (g.reads[a.reads]?).toList
    | .win w, y :: _ => (((w.lineReads y)[a.reads]?).map (fun r => r.2)).toList
    | .win _, [] => []

/-- Tile bytes that a core's units ask for in its own banks. -/
def Core.ranges (c : Core) (r : Requester) : List (Nat × Nat) :=
  match r with
  | .feeder =>
    (match c.arr.readIdx.bind (fun k => c.arr.ops[k]?) with
     | some x => if x.mayRead then (List.range x.together).flatMap (fun i => x.op.vecRanges (x.read + i)) else []
     | none => [])
  | .pipe => c.pipeRanges
  | .writer => (c.elm.outQ.head?.map (fun o => (o.cmd.outAddr o.idx, o.cmd.fmtO.bytes o.cmd.lanes))).toList
  | .lines => c.lineRanges
  | .fetch =>
    (match c.seq.running with
     | some t =>
       let pc := (c.task t).pc
       if c.live && pc < c.img.codeSize / 8 && !c.ibHit pc then [(64 * c.ibLine pc, 64)] else []
     | none => [])
  | _ => []

/-- The request of a core's stream engine whose data has come, the first of its slots. -/
def State.nextReturn (s : State) (c : Nat) : Option (Nat × StrReq) :=
  (List.range 6).findSome? (fun k => ((s.slot c k).reqs.find? (fun r => (s.reqData c k r).isSome)).map (fun r => (k, r)))

/-- Tile bytes asked for in a core's banks; of the stream engines, those of its own; of host writes, the oldest (R47). (DEDUCED,
log 78) -/
def State.bankRanges (s : State) (c : Nat) (r : Requester) : List (Nat × Nat) :=
  match r with
  | .streamRead =>
    (match (s.nextReturn c).bind (fun e => e.2.src.map (fun p => (p, e.2.len))) with
     | some (.tile t a, n) => if t = c then [(a, n)] else []
     | _ => [])
  | .streamWrite =>
    (match s.nextReturn c with
     | some (k, q) =>
       (match q.kind with
        | .elems e m =>
          let d := (s.slot c k).desc
          (List.range m).filterMap (fun j => match s.dstAt c d q.pages (e + j) with
            | some (.tile t a) => if t = c then some (a, d.es) else none
            | _ => none)
        | _ => [])
     | none => [])
  | .window =>
    (s.grid.wins.findSome? (fun w => match w.place with
      | .tile t a => if t = c then some (a, w.data.length) else none
      | _ => none)).toList
  | _ => (s.core c).ranges r

def State.bankWants (s : State) (c : Nat) : List (Requester × List Nat) :=
  Requester.all.filterMap (fun r =>
    let bs := ((s.bankRanges c r).flatMap (fun e => banksOf e.1 e.2)).eraseDups
    if bs.isEmpty then none else some (r, bs))

/-- Banks of a core under sounding while its partition runs (R445). -/
def State.soundedBanks (s : State) (c : Nat) : List Nat :=
  (s.flt.sounding.filter (fun x => x.unit.kind = 0 && x.part.isNone && s.logical x.unit.idx = some c)).map (fun x => x.unit.sub)

/-- The banks' A-cycle of a core. -/
def State.bankCycle (s : State) (c : Nat) : State :=
  let w := s.bankWants c
  let b := (s.core c).bank
  let m := b.bursts (s.soundedBanks c) (160 / max 8 (s.pwr.cores.getD c PwrCore.reset).div)
  if w.isEmpty && b.won.isEmpty && b.waits.isEmpty && b.march.isEmpty && m.isEmpty then s
  else s.modCore c (fun q => { q with bank := q.bank.arbitrate w m })

/-- A requester's access waits: a bank it needs is granted to another in this A-cycle. -/
def State.bankWaits (s : State) (c : Nat) (r : Requester) : Bool :=
  !(s.core c).bank.won.isEmpty && (s.core c).bank.denies r ((s.bankRanges c r).flatMap (fun e => banksOf e.1 e.2))

/-- An access of a requester, made when its banks let it. -/
def State.onBank (s : State) (c : Nat) (r : Requester) (f : State → State) : State := if s.bankWaits c r then s else f s

/-- The source stop of host accesses at a slice: the control stop. (DEDUCED, log 81) -/
def ctlStop : Nat := 40

/-- A host write reaches its bank or slice when that is granted to it (R47, R394). -/
def State.winGranted (s : State) (n : Nat) : State :=
  match s.grid.wins[n]? with
  | some ⟨_, _, .tile c _, _⟩ => s.onBank c .window (fun s => s.winRetire n)
  | some ⟨_, _, .store a, _⟩ => if s.sliceWaits ctlStop (a / 2 ^ 21, a % 2 ^ 21 / 65536) then s else s.winRetire n
  | _ => s.winRetire n


/-! ## Slices of the shared store (R392, R395) -/

/-- Shared-store banks that a core's stop asks for: those of its stream requests whose data can be had.
(DEDUCED, log 81) -/
def State.coreSlices (s : State) (c : Nat) : List (Nat × Nat) :=
  ((List.range 6).flatMap (fun k => ((s.slot c k).reqs.filter (fun r => (s.reqRaw c k r).isSome)).flatMap (s.reqSlices c k))).eraseDups

/-- Who asks for a slice, as (slice, source stop, partition): the cores, and the control stop for the oldest host write; none for a bank
that a burst holds. -/
def State.sliceWants (s : State) : List (Nat × Nat × Option Nat) :=
  (List.range 32).flatMap (fun c => ((s.coreSlices c).filter (fun b => !s.storeTaken b)).map (fun b => (b.1, c, some (s.partOf c)))) ++
    (s.grid.wins.findSome? (fun w => (w.place.slice.filter (fun b => !s.storeTaken b)).map (fun b => (b.1, ctlStop, w.part)))).toList

/-- The bursts of the shared-store soundings go on: one takes its bank for 5 F-cycles of 8 (R445, Table 14.2). -/
def State.storeBursts (s : State) : State :=
  let m := (s.flt.sounding.filter (fun x => x.unit.kind = 1 && x.part.isNone)).map (fun x =>
    let n := ((s.grid.storeMarch.find? (fun e => e.1 = x.unit.idx && e.2.1 = x.unit.sub)).map (fun e => (e.2.2 + 1) % 8)).getD 0
    (x.unit.idx, x.unit.sub, n))
  if m.isEmpty && s.grid.storeMarch.isEmpty then s else s.modGrid (fun g => { g with storeMarch := m })

/-- One grant of a slice: R392 among the partitions, then the first source stop from the pointer on, which moves past the winner; an
access made for no partition is eligible beside any. (DEDUCED, log 81) -/
def State.sliceGrant (s : State) (n : Nat) (wants : List (Nat × Option Nat)) : State :=
  match wants with
  | [] => s.modGrid (fun g => { g with sliceWon := setAt g.sliceWon n none })
  | w0 :: _ =>
    let unit := s.grid.slices.getD n Reg_.reset
    let req := (wants.filterMap Prod.snd).eraseDups
    let bal := regAdd unit.bal (s.shares 3)
    let best := wants.filter (fun e => e.2.all (regEligible bal req).contains)
    let turn := fun (e : Nat × Option Nat) => (e.1 + 64 - unit.ptr) % 64
    let w := best.foldl (fun b e => if turn e < turn b then e else b) (best.headD w0)
    let s := s.modGrid (fun g => { g with
      sliceWon := setAt g.sliceWon n (some w.1)
      slices := setAt g.slices n ⟨(match w.2 with
        | some p => regPay bal p
        | none => bal), (w.1 + 1) % 64⟩ })
    match w.2 with
    | some p => s.countWaits 3 p req
    | none => s

/-- The F-cycle of the slices: each grants one of those that ask for it. -/
def State.sliceCycle (s : State) : State :=
  let s := s.storeBursts
  let wants := s.sliceWants
  if wants.isEmpty && s.grid.sliceWon.all Option.isNone then s
  else (List.range s.cfg.slices).foldl (fun s n =>
    s.sliceGrant n ((wants.filter (fun e => e.1 = n)).map Prod.snd)) s

end Sys2Proof.Machine
end

