-- ==== Sys2Proof/Machine/Shape.lean ====
section
/-! DEFINITION. Shaping a decoded image (R365 to R367, R374): concealment, crop, rotation, turns, flips, resizing, channels,
scale and offset, conversion, in binary32 with round to nearest even. The order of operations within a step is the
model's (DESIGN CHOICE, log 41). -/

namespace Sys2Proof.Machine

/-! ## binary32 -/

def fAdd (a b : Nat) : Nat := (f32Add a b).1
def fSub (a b : Nat) : Nat := (f32Sub a b).1
def fMul (a b : Nat) : Nat := (f32Mul a b).1

/-- Quotient of two finite magnitudes, with a sticky bit below 64 good bits. -/
def Val.div : Val → Val → Val
  | .fin s m e, .fin t n g =>
    if n = 0 then .nan
    else
      let k := 64 + n.log2
      let q := m * 2 ^ k / n
      let r := if m * 2 ^ k % n = 0 then 0 else 1
      .fin (s != t) (2 * q + r) (e - g - k - 1)
  | _, _ => .nan

def fDiv (a b : Nat) : Nat := (f32Round .rne ((f32Val a).div (f32Val b))).1
def fNat (n : Nat) : Nat := (f32Round .rne (.fin false n 0)).1
def fInt (i : Int) : Nat := (f32Round .rne (Val.ofInt i)).1

/-- Constants: a decimal fraction n / d rounded to binary32. -/
def fFrac (n d : Nat) : Nat := fDiv (fNat n) (fNat d)

/-- Floor of a finite binary32 number. -/
def fFloor (a : Nat) : Int :=
  match f32Val a with
  | .fin s m e =>
    let x : Int := if s then -(m : Int) else m
    if 0 ≤ e then x * 2 ^ e.toNat else x / 2 ^ (-e).toNat
  | _ => 0

def fLt (a b : Nat) : Bool := (f32Val a).lt (f32Val b)

/-- Clamp to [lo, hi]. -/
def fClamp (lo hi a : Nat) : Nat := if fLt a lo then lo else if fLt hi a then hi else a

/-! ## Images -/

/-- An image: width, height, channels and the binary32 value at (x, y, channel). -/
structure Img where
  w : Nat
  h : Nat
  ch : Nat
  at_ : Nat → Nat → Nat → Nat

/-- The row good data for a lost pixel comes from: `step` rows up, as often as needed; none above the first row. -/
def goodRow (lost : Nat → Bool) (step : Nat) : Nat → Nat → Option Nat
  | 0, _ => none
  | f + 1, y => if !lost y then some y else if y < step then none else goodRow lost step f (y - step)

/-- Decoded pixels with the damaged ones concealed (R374): a JPEG copies the block row above, or mid-value in the first; a
PNG repeats the last good row. An Adam7 image comes concealed from the decoder. -/
def decodedImg (d : Decoded) (codec : Nat) : Img :=
  let raw := fun (x y c : Nat) => d.px.getD ((y * d.w + x) * d.chans + c) 0
  let step := if codec = 0 then max 1 d.row else 1
  { w := d.w, h := d.h, ch := d.chans
    at_ := fun x y c =>
      if codec = 1 ∧ d.multi then fNat (raw x y c)
      else
        match goodRow (fun y => d.lost.contains (y * d.w + x)) step (d.h + 1) y with
        | some y => fNat (raw x y c)
        | none => fNat 128 }

/-- The bounding rectangle of the lost pixels, half-open. -/
def decodedExtent (d : Decoded) : Option (Nat × Nat × Nat × Nat) :=
  match d.lost with
  | [] => none
  | l =>
    let xs := l.map (fun (n : Nat) => n % d.w)
    let ys := l.map (fun (n : Nat) => n / d.w)
    some (xs.foldl min d.w, ys.foldl min d.h, xs.foldl max 0 + 1, ys.foldl max 0 + 1)

def Img.crop (i : Img) (x y w h : Nat) : Img := { i with w := w, h := h, at_ := fun a b c => i.at_ (x + a) (y + b) c }

/-- A value between two, at fraction t of the second. -/
def lerp (a b t : Nat) : Nat := fAdd (fMul a (fSub (fNat 1) t)) (fMul b t)

/-- A sample of an image at clamped integer coordinates. -/
def Img.clampAt (i : Img) (x y : Int) (c : Nat) : Nat :=
  i.at_ (max 0 (min x (i.w - 1))).toNat (max 0 (min y (i.h - 1))).toNat c

/-- Bilinear sample at binary32 coordinates. (DESIGN CHOICE, log 41) -/
def Img.bilinear (i : Img) (x y : Nat) (c : Nat) : Nat :=
  let x0 := fFloor x
  let y0 := fFloor y
  let tx := fSub x (fInt x0)
  let ty := fSub y (fInt y0)
  lerp (lerp (i.clampAt x0 y0 c) (i.clampAt (x0 + 1) y0 c) tx) (lerp (i.clampAt x0 (y0 + 1) c) (i.clampAt (x0 + 1) (y0 + 1) c) tx) ty

/-- Rotation counter-clockwise about the centre, positions outside taking the pad value (R365 step 3).
(DESIGN CHOICE, log 41) -/
def Img.rotate (i : Img) (angle pad : Nat) : Img :=
  let sc := sinCos angle
  let half := fFrac 1 2
  let cx := fSub (fMul (fNat i.w) half) half
  let cy := fSub (fMul (fNat i.h) half) half
  { i with at_ := fun x y c =>
      let dx := fSub (fNat x) cx
      let dy := fSub (fNat y) cy
      let xs := fAdd cx (fSub (fMul sc.2 dx) (fMul sc.1 dy))
      let ys := fAdd cy (fAdd (fMul sc.1 dx) (fMul sc.2 dy))
      let out := fun (v n : Nat) => fLt v (fInt (-1) |> fMul half) || fLt (fSub (fNat n) half) v
      if out xs i.w || out ys i.h then pad else i.bilinear xs ys c }

/-- One quarter turn counter-clockwise. -/
def Img.turn (i : Img) : Img := { i with w := i.h, h := i.w, at_ := fun x y c => i.at_ (i.w - 1 - y) x c }

def Img.turns (i : Img) : Nat → Img
  | 0 => i
  | n + 1 => Img.turns i.turn n

def Img.hflip (i : Img) : Img := { i with at_ := fun x y c => i.at_ (i.w - 1 - x) y c }
def Img.vflip (i : Img) : Img := { i with at_ := fun x y c => i.at_ x (i.h - 1 - y) c }

/-! ## Resizing (R366) -/

/-- Source coordinate of output coordinate d, clamped to the axis. -/
def srcCoord (s n d : Nat) : Nat :=
  let half := fFrac 1 2
  fClamp 0 (fNat (s - 1)) (fSub (fDiv (fMul (fAdd (fNat d) half) (fNat s)) (fNat n)) half)

/-- The cubic convolution kernel with a = -0.5 at distance t. -/
def cubic (t : Nat) : Nat :=
  let one := fNat 1
  let t2 := fMul t t
  let t3 := fMul t2 t
  if !fLt one t then fAdd (fSub (fMul (fFrac 3 2) t3) (fMul (fFrac 5 2) t2)) one
  else if fLt t (fNat 2) then
    fAdd (fSub (fMul (fFrac 5 2) t2) (fMul (fFrac 1 2) t3)) (fSub (fNat 2) (fMul (fNat 4) t))
  else 0

/-- Weighted neighbours of output coordinate d: bilinear, bicubic, or area. Each is (clamped index, weight). -/
def axisTaps (method s n d : Nat) : List (Nat × Nat) :=
  let clamp := fun (x : Int) => (max 0 (min x (s - 1))).toNat
  let x := srcCoord s n d
  let x0 := fFloor x
  let t := fSub x (fInt x0)
  if method = 2 ∧ n ≤ s then
    let lo := d * s
    let hi := (d + 1) * s
    let w := fun (k : Nat) => fDiv (fNat (min hi ((k + 1) * n) - max lo (k * n))) (fNat s)
    (List.range (cdiv hi n - lo / n)).map (fun k => (lo / n + k, w (lo / n + k)))
  else if method = 1 then
    [(clamp (x0 - 1), cubic (fAdd (fNat 1) t)), (clamp x0, cubic t), (clamp (x0 + 1), cubic (fSub (fNat 1) t)),
      (clamp (x0 + 2), cubic (fSub (fNat 2) t))]
  else [(clamp x0, fSub (fNat 1) t), (clamp (x0 + 1), t)]

/-- The weighted sum of taps, in order. -/
def tapSum (taps : List (Nat × Nat)) (f : Nat → Nat) : Nat :=
  match taps with
  | [] => 0
  | (k, w) :: r => r.foldl (fun a e => fAdd a (fMul (f e.1) e.2)) (fMul (f k) w)

/-- Resizing to W × H, along rows first. -/
def Img.resize (i : Img) (method w h : Nat) : Img :=
  { i with w := w, h := h
           at_ := fun x y c => tapSum (axisTaps method i.h h y) (fun b => tapSum (axisTaps method i.w w x) (fun a => i.at_ a b c)) }

/-! ## Channels and output (R367) -/

/-- Channel c of n output channels from a source with 1 (gray), 2 (gray and alpha), 3 or 4 channels; `top` is the alpha of a
source without one. -/
def Img.channel (i : Img) (n top x y c : Nat) : Nat :=
  let colour := i.ch = 3 ∨ i.ch = 4
  if c = 3 then (if i.ch = 2 ∨ i.ch = 4 then i.at_ x y (i.ch - 1) else fNat top)
  else if colour then
    if n = 1 then
      fAdd (fAdd (fMul (fFrac 299 1000) (i.at_ x y 0)) (fMul (fFrac 587 1000) (i.at_ x y 1)))
        (fMul (fFrac 114 1000) (i.at_ x y 2))
    else i.at_ x y c
  else i.at_ x y 0

/-- A value converted to an output format (R80: nearest even, sat). -/
def outRaw (f : Fmt) (v : Nat) : Nat :=
  if f.isInt then (convInt f .rne (f32Val v)).1 else (convFloat f true .rne (f32Val v)).1

/-- The planar tensor of an image: C planes of H rows of W. -/
def Img.tensor (i : Img) (f : Fmt) (n top : Nat) (scale offset : Nat → Nat) : List Byte :=
  f.pack ((List.range n).flatMap (fun c => (List.range i.h).flatMap (fun y => (List.range i.w).map (fun x =>
    let v := i.channel n top x y c
    outRaw f (if c = 3 then v else fAdd (fMul v (scale c)) (offset c))))))

/-- A binary16 number as binary32. -/
def f16to32 (x : Nat) : Nat := (f32Round .rne (FloatFmt.b16.decode x)).1

/-- YCbCr to RGB as JFIF specifies, for components of the given top value, clamped. -/
def Img.jfif (i : Img) (top : Nat) : Img :=
  { i with at_ := fun x y c =>
      let mid := fNat ((top + 1) / 2)
      let l := i.at_ x y 0
      let cb := fSub (i.at_ x y 1) mid
      let cr := fSub (i.at_ x y 2) mid
      let v :=
        if c = 0 then fAdd l (fMul (fFrac 1402 1000) cr)
        else if c = 1 then fSub (fSub l (fMul (fFrac 344136 1000000) cb)) (fMul (fFrac 714136 1000000) cr)
        else fAdd l (fMul (fFrac 1772 1000) cb)
      fClamp 0 (fNat top) v }

end Sys2Proof.Machine
end

