-- ==== Sys2Proof/Machine/SideAccess.lean ====
section
/-! DEFINITION. How the Intake (engine 32) and the inbound link path (engine 33) reach memory: segment checks, Chart
cache, walks, and the access itself (R301, R309, R312, R322, R359). -/

namespace Sys2Proof.Machine

/-- What an access by a side engine meets. -/
inductive Reach where
  | found (p : Place)
  | wait (halted : Bool)
  | refused (status : Nat)
deriving DecidableEq, Repr

/-- A side engine's cache, and the line used last put first. -/
def Engine.side (e : Engine) (c : ChartUnit) : SideMmu :=
  match e with
  | .intake _ => c.itk
  | _ => c.lnk

def State.modSide (s : State) (e : Engine) (f : SideMmu → SideMmu) : State :=
  match e with
  | .intake _ => s.modCht (fun c => { c with itk := f c.itk })
  | _ => s.modCht (fun c => { c with lnk := f c.lnk })

/-- Engine e, working for partition p, reaches `n` bytes at engine address ea: the segment's checks, a write of a sealed
segment refused, then the Chart; a walk is asked for when the cache has no usable entry. -/
def State.reach (s : State) (e : Engine) (p ea n : Nat) (write : Bool) : Reach × State :=
  let m := e.side s.cht
  let segs := m.segs.getD p []
  let g := segAt segs ea
  match segStatus s.cfg.chartLog g (eaOff ea) (eaOff ea + n - 1 : Nat) with
  | some st => (.refused st, s)
  | none =>
    if write && g.sealed_ then (.refused 0x0805, s)
    else
      match s.lookPage p segs m.cache ea with
      | some pl =>
        let i := chartIndex g ea
        let touch := fun (m : SideMmu) => match m.cache.find? (fun l => l.line = i / 16) with
          | some l => { m with cache := cacheFill m.cache 8 l }
          | none => m
        (.found (pl.plus (ea % 65536)), if g.remote then s else s.modSide e touch)
      | none =>
        let i := chartIndex g ea
        match m.walks.find? (fun w => w.part = p && w.index = i) with
        | some w =>
          match w.st with
          | .refused st => (.refused st, s.modSide e (fun m => { m with walks := m.walks.erase w }))
          | .halted => (.wait true, s)
          | _ => (.wait false, s)
        | none =>
          (.wait false, s.modSide e (fun m => { m with walks := m.walks ++ [⟨p, i, ea, write, s.tick, .toSend, 0⟩] }))

/-- The access, at its place: the fabric, the near-memory port, or a remote window. -/
def State.sideAccess (s : State) (own : FabOwner) (p : Nat) (pl : Place) (write : Bool) (n : Nat) (bs : List Byte) : State :=
  match pl with
  | .sys a k => s.access own write false k a n bs (some p) none 40
  | .near a => s.access own write true false a n bs (some p) none 40
  | .remote nd w a => s.remoteAccess own write nd w a n bs p
  | _ => s

end Sys2Proof.Machine
end

