-- ==== Sys2Proof/Machine/IntakeUnit.lean ====
section
/-! DEFINITION. The Intake and the frame port (section 11). -/

namespace Sys2Proof.Machine

def State.modItk (s : State) (f : Intake → Intake) : State := { s with itk := f s.itk }
def State.ses (s : State) (p : Nat) : Session := s.itk.sess.getD p Session.reset
def State.modSes (s : State) (p : Nat) (f : Session → Session) : State :=
  s.modItk (fun t => { t with sess := modAt t.sess p f })
def State.fst (s : State) (n : Nat) : FStream := s.itk.streams.getD n FStream.reset
def State.modFst (s : State) (n : Nat) (f : FStream → FStream) : State :=
  s.modItk (fun t => { t with streams := modAt t.streams n f })
def State.lane (s : State) (l : Nat) : Option ItkLane := s.itk.lanes.getD l none
def State.setLane (s : State) (l : Nat) (x : Option ItkLane) : State :=
  s.modItk (fun t => { t with lanes := setAt t.lanes l x })

/-! ## Session configuration (Tables 11.6 and 11.7) -/

def Session.k (x : Session) : Nat := fld 3 0 x.cfg.toNat
def Session.on (x : Session) : Bool := x.cfg.getLsbD 4 && 4 ≤ x.k && x.k ≤ 12
def Session.ringBase (x : Session) : Nat := fld 31 6 x.sringLo.toNat * 64 + fld 15 0 x.sringHi.toNat * 2 ^ 32
def pageBase (lo hi : Word) : Nat := fld 31 12 lo.toNat * 4096 + fld 15 0 hi.toNat * 2 ^ 32
def Session.nB (x : Session) : Nat := fld 5 0 x.outCfg.toNat + 1
def Session.nD (x : Session) : Nat := fld 9 6 x.outCfg.toNat + 1

/-- Output channels of a channels code; 3 is reserved. -/
def chansOf (code : Nat) : Nat :=
  match code with
  | 0 => 1
  | 1 => 3
  | _ => 4

def Session.nC (x : Session) : Nat := chansOf (fld 11 10 x.outCfg.toNat)
def Session.fmt (x : Session) : Fmt := Fmt.ofBits (fld 16 12 x.outCfg.toNat)
def Session.nH (x : Session) : Nat := fld 15 0 x.outShape.toNat + 1
def Session.nW (x : Session) : Nat := fld 31 16 x.outShape.toNat + 1
def Session.slotBytes (x : Session) : Nat := x.fmt.bytes (x.nC * x.nH * x.nW)
def Session.buf (x : Session) (seq : Nat) : Nat := pageBase x.outLo x.outHi + seq % x.nD * (fld 19 0 x.stride.toNat * 4096)

/-- INT8, UINT8, binary16 and BF16. -/
def itkFmt (f : Fmt) : Bool :=
  f.meaningful && !f.t && ((f.isInt && f.bits = 8) || (f.isFloat && (f.float = .b16 || f.float = .bf16)))

/-- The pad value as a binary32 word, and as an element of a format. -/
def Session.padF (x : Session) : Nat := f16to32 (fld 15 0 x.pad.toNat)
def Session.padBytes (x : Session) (f : Fmt) (n : Nat) : List Byte := f.pack (List.replicate n (outRaw f x.padF))

/-- An event of a session: bits 0 to 4 of ITK_Ss_EVENT; cfg_err (3) sends no message (R384). -/
def State.sesEvent (s : State) (p bit : Nat) : State :=
  let s := (s.modSes p (fun x => { x with event := x.event ||| 2 ^ bit })).mark 5 (0x134 + 0x80 * p) (2 ^ bit)
  if bit = 3 then s else s.sessMsi p

def State.sesDrop (s : State) (p : Nat) : State := s.modSes p (fun x => { x with bellDrop := min 65535 (x.bellDrop + 1) })

/-! ## Sample records (R363, R364) -/

/-- A read of the record at the head is issued when there is one to read and none is under way. -/
def State.readRecord (s : State) (p : Nat) : State :=
  let x := s.ses p
  if !x.on || x.ahead || x.retrying || x.head = x.tail || !s.ownerIdle (.sampleRecord p) then s
  else s.access (.sampleRecord p) false false true (x.ringBase + 64 * (x.head.toNat % 2 ^ x.k)) 64 [] (some p) none 40

/-- A record read has returned: one that is not current is dropped, to be read again up to 64 times, and then sample_ahead
is set. -/
def State.recordCame (s : State) (p : Nat) : State :=
  let x := s.ses p
  if !s.accsDone (.sampleRecord p) then s
  else if leAt (s.accsData (.sampleRecord p)) 0 2 = x.head.toNat % 65536 then
    s.modSes p (fun x => { x with retrying := false, tries := 0 })
  else
    let s := s.dropAccs (.sampleRecord p)
    if 64 ≤ x.tries then
      (s.modSes p (fun x => { x with retrying := false, tries := 0, ahead := true })).sesEvent p 2
    else
      s.modSes p (fun x => { x with retrying := true, nextTry := if x.retrying then x.nextTry + 100 else s.tick + 100 })

/-- SAMPLE_RECORD_REREAD. -/
def State.recordReread (s : State) (p : Nat) : State :=
  let x := s.ses p
  if !x.on || !x.retrying || s.tick < x.nextTry || !s.ownerIdle (.sampleRecord p) then s
  else
    (s.modSes p (fun x => { x with tries := x.tries + 1 })).access (.sampleRecord p) false false true
      (x.ringBase + 64 * (x.head.toNat % 2 ^ x.k)) 64 [] (some p) none 40

/-- A current record waits. -/
def State.recordReady (s : State) (p : Nat) : Bool :=
  s.accsDone (.sampleRecord p) && leAt (s.accsData (.sampleRecord p)) 0 2 = (s.ses p).head.toNat % 65536

/-- ITK_BELL. -/
def State.itkBell (s : State) (p v : Nat) : State :=
  let x := s.ses p
  let t := BitVec.ofNat 32 v
  if s.cfg.parts ≤ p then s
  else if !x.on || 2 ^ x.k < (t - x.head).toNat then s.sesDrop p
  else (s.modSes p (fun x => { x with tail := t, ahead := false, retrying := false, tries := 0 })).readRecord p

/-! ## Batches (R368 to R373) -/

/-- The open batch takes another sample. -/
def Session.openBatch (x : Session) : Option Batch := x.batches.find? (fun b => !b.closed)

/-- A session can take a sample (R364, R371). -/
def State.canTake (s : State) (p : Nat) : Bool :=
  let x := s.ses p
  p < s.cfg.parts && x.on && s.recordReady p && (x.openBatch.isSome || x.batches.length < x.nD)

def Session.modBatch (x : Session) (seq : Nat) (f : Batch → Batch) : Session :=
  { x with batches := x.batches.map (fun b => if b.seq = seq then f b else b) }

/-- A slot's entry (Table 11.4). -/
def BatchSlot.entry (b : BatchSlot) : List Byte :=
  match b.ended with
  | none => List.replicate 16 0#8
  | some e =>
    let last := match e.damage with
      | some (x0, y0, x1, y1) => toLe 2 x0 ++ toLe 2 y0 ++ toLe 2 x1 ++ toLe 2 y1
      | none => if e.flags.testBit 0 || e.flags.testBit 2 then List.replicate 8 0#8 else slice b.cookie 0 8
    toLe 4 (e.status + 2 ^ 16 * e.flags) ++ toLe 4 b.pos.toNat ++ last

def Batch.countFlag (b : Batch) (i : Nat) : Nat := (b.slots.filter (fun x => x.ended.any (fun e => e.flags.testBit i))).length

/-- The header; its tick of preparation is that of its writing (log 42). -/
def Batch.header (b : Batch) (tick : Nat) : List Byte :=
  toLe 4 b.seq ++ toLe 2 (b.slots.length - b.countFlag 3) ++ toLe 1 (b.countFlag 0) ++ toLe 1 (b.countFlag 1) ++
    toLe 1 (b.countFlag 2) ++ toLe 3 0 ++ toLe 2 b.status ++ toLe 2 0 ++ toLe 8 b.t0 ++ toLe 8 tick ++
    List.replicate 32 0#8

/-- Writes of bytes at an engine address, in pieces. -/
def piecesOf (ea : Nat) (bs : List Byte) : List (Nat × List Byte) :=
  (kibPieces (bs.length / 512 + 2) ea bs.length).map (fun e => (e.1, slice bs (e.1 - ea) e.2))

/-- A slot of a batch has its outcome (R369). -/
def State.endSlot (s : State) (p seq i : Nat) (e : SlotEnd) : State :=
  s.modSes p (fun x => x.modBatch seq (fun b => { b with slots := modAt b.slots i (fun y => { y with ended := some e }) }))

def Batch.resolved (b : Batch) : Bool := b.closed && b.slots.all (fun x => x.ended.isSome)

/-- A batch all of whose lanes have let go has its header and entries written. -/
def State.headBatches (s : State) (p : Nat) : State :=
  let held := s.itk.lanes.filterMap (fun o => match o with
    | some (x : ItkLane) => (match x.item with
      | .sample _ b _ => if x.sess = p then some b else none
      | .frame _ _ => none)
    | none => none)
  s.modSes p (fun x => { x with batches := x.batches.map (fun b =>
    if b.resolved && !b.headed && !held.contains b.seq && b.out.isEmpty then
      let bytes := b.header s.tick ++ b.slots.flatMap BatchSlot.entry
      { b with headed := true, out := piecesOf (x.buf b.seq) bytes }
    else b) })

/-- ITK_FLUSH: untaken slots resolve as empty, filled with the pad value. -/
def State.itkFlush (s : State) (p : Nat) : State :=
  s.modSes p (fun x =>
    match x.openBatch with
    | none => x
    | some b =>
      let n := x.nB - b.slots.length
      let ea := x.buf b.seq + 0x800 + b.slots.length * x.slotBytes
      let e : BatchSlot := ⟨0, List.replicate 8 0#8, some ⟨0, 8, none⟩⟩
      x.modBatch b.seq (fun b => { b with
        closed := true, slots := b.slots ++ List.replicate n e
        out := b.out ++ piecesOf ea (x.padBytes x.fmt (n * x.nC * x.nH * x.nW)) }))

def Session.prepared (x : Session) : Nat := (x.batches.filter Batch.prepared).length
def Session.mark (x : Session) : Nat := fld 20 16 x.pad.toNat

/-- BATCH_PREPARED: the oldest batch not prepared yet, when all its writes have been acknowledged. -/
def State.batchPrepared (s : State) (p : Nat) : State :=
  let x := s.ses p
  match x.batches.find? (fun b => !b.prepared) with
  | none => s
  | some b =>
    if !b.headed || !b.out.isEmpty || !s.ownerDone (.intakeWrite p b.seq) then s
    else
      let s := (s.ownerTake (.intakeWrite p b.seq)).2
      let s := s.modSes p (fun x =>
        let x := x.modBatch b.seq (fun b => { b with prepared := true })
        { x with armed := x.armed || (0 < x.mark && x.mark ≤ x.prepared) })
      s.sesEvent p 0

/-- ITK_BATCH_FREE. -/
def State.batchFree (s : State) (p v : Nat) : State :=
  match (s.ses p).batches with
  | b :: r =>
    if b.prepared && b.seq = v then
      let s := s.modSes p (fun x => { x with batches := r })
      let x := s.ses p
      if x.armed && 0 < x.mark && x.prepared < x.mark then (s.modSes p (fun x => { x with armed := false })).sesEvent p 1
      else s
    else s.sesDrop p
  | [] => if p < s.cfg.parts then s.sesDrop p else s

/-! ## Taking work (R360, R364, R379) -/

/-- A record fails before it is read: reserved bits, resize code, angle, length. (DEDUCED, log 56) -/
def badRecord (r : List Byte) : Bool :=
  let f := leAt r 2 2
  let n := leAt r 4 4
  f / 128 ≠ 0 || fld 6 5 f = 3 || n = 0 || 2 ^ 28 ≤ n || leAt r 0xE 2 ≠ 0 || fld 14 10 (leAt r 0x18 2) = 31 ||
    leAt r 0x1A 2 ≠ 0 || leAt r 0x30 8 ≠ 0 || leAt r 0x38 8 ≠ 0

/-- Work counts against a session's share (R392). -/
def State.itkPay (s : State) (p : Nat) (req : List Nat) : State :=
  let bal := regAdd s.itk.reg.bal (s.shares 1)
  (s.modItk (fun t => { t with reg := ⟨regPay bal p, (p + 1) % 8⟩ })).countWaits 1 p req

/-- The first of some sessions from the pointer on. -/
def firstFrom (ptr : Nat) (l : List Nat) : Option Nat :=
  ((List.range 8).map (fun i => (ptr + i) % 8)).find? l.contains

/-- The open batch of a session, opened when there is none. -/
def State.ensureBatch (s : State) (p : Nat) : State :=
  let x := s.ses p
  if x.openBatch.isSome then s
  else s.modSes p (fun x => { x with
    nextSeq := x.nextSeq + 1, batches := x.batches ++ [⟨x.nextSeq % 2 ^ 32, s.tick, [], false, 0, [], false, false⟩] })

/-- A lane takes the next sample of session p. -/
def State.takeSample (s : State) (l p : Nat) : State :=
  let r := s.accsData (.sampleRecord p)
  let s := (s.dropAccs (.sampleRecord p)).ensureBatch p
  let x := s.ses p
  match x.openBatch with
  | none => s
  | some b =>
    let bad := badRecord r
    let slot : BatchSlot := ⟨x.head, slice r 0x28 8, none⟩
    let s := s.modSes p (fun x => { (x.modBatch b.seq (fun b => { b with
      slots := b.slots ++ [slot], closed := decide (x.nB ≤ b.slots.length + 1) })) with head := x.head + 1#32 })
    let lane : ItkLane := ⟨p, .sample r b.seq b.slots.length, s.tick, 0, none, leAt r 8 6, if bad then 0 else leAt r 4 4, 0, [],
      none, [], false⟩
    (s.setLane l (some lane)).readRecord p

/-! ## Streams (Tables 11.8 and 11.9) -/

def FStream.on (f : FStream) : Bool := f.ctrl.getLsbD 0
def FStream.part (f : FStream) : Nat := fld 3 1 f.ctrl.toNat
def FStream.form (f : FStream) : Nat := fld 5 4 f.ctrl.toNat
def FStream.fmt (f : FStream) : Fmt := Fmt.ofBits (fld 12 8 f.ctrl.toNat)
def FStream.nC (f : FStream) : Nat := chansOf (fld 14 13 f.ctrl.toNat)
def FStream.slots (f : FStream) : Nat := 2 ^ fld 17 15 f.ctrl.toNat
def FStream.recK (f : FStream) : Nat := fld 21 18 f.ctrl.toNat
def FStream.inLines (f : FStream) : Nat := fld 15 0 f.inShape.toNat + 1
def FStream.inLen (f : FStream) : Nat := fld 31 16 f.inShape.toNat + 1
def FStream.nH (f : FStream) : Nat := fld 15 0 f.outShape.toNat + 1
def FStream.nW (f : FStream) : Nat := fld 31 16 f.outShape.toNat + 1

/-- Bytes of a pixel in staging: 2 a component; an audio stream (n = 4, 5) and a raw mosaic have one. -/
def FStream.pixBytes (f : FStream) (n : Nat) : Nat := if 4 ≤ n ∨ f.form = 2 then 2 else 6
def FStream.lineBytes (f : FStream) (n : Nat) : Nat := f.inLen * f.pixBytes n
def FStream.frameLines (f : FStream) (n : Nat) : Nat := if 4 ≤ n then 1 else f.inLines
def FStream.frameBytes (f : FStream) (n : Nat) : Nat := f.lineBytes n * f.frameLines n
def up4k (n : Nat) : Nat := (n + 4095) / 4096 * 4096
def FStream.stageAt (f : FStream) (n slot : Nat) : Nat := pageBase f.stageLo f.stageHi + slot * up4k (f.frameBytes n)
def FStream.tensorBytes (f : FStream) : Nat := f.fmt.bytes (f.nC * f.nH * f.nW)
def FStream.outAt (f : FStream) (slot : Nat) : Nat := pageBase f.outLo f.outHi + slot * (up4k f.tensorBytes + 4096)
def FStream.statsAt (f : FStream) (n slot : Nat) : Nat :=
  f.outAt slot + (if 4 ≤ n then 0 else up4k f.tensorBytes)
def FStream.modFrame (f : FStream) (no : Nat) (g : FrameRec → FrameRec) : FStream :=
  { f with frames := f.frames.map (fun x => if x.no = no then g x else x) }

/-- A frame that has not been dropped. -/
def FrameRec.live (x : FrameRec) : Bool := x.st ≠ .dropped && x.st ≠ .discarding

/-- A frame is dropped: its slot is free again, its record waits its turn (R377, R380, R382). -/
def FStream.drop (f : FStream) (no status : Nat) : FStream :=
  let slot := (f.frames.find? (fun x => x.no = no)).bind FrameRec.slot
  { (f.modFrame no (fun x => { x with st := .dropped, status := status })) with
    drops := min 65535 (f.drops + 1)
    busy := match slot with
      | some k => f.busy.erase k
      | none => f.busy }

/-- A frame in arrival is dropped: its remaining lines are only counted (R377). -/
def FStream.lose (f : FStream) (no status : Nat) : FStream :=
  (f.drop no status).modFrame no (fun x => { x with st := .discarding })

/-- The oldest pending frame of a video stream. -/
def FStream.oldest (f : FStream) : Option FrameRec := f.frames.find? (fun x => x.st = .pending)

/-- Pending frames, one a video stream: (stream, capture tick, session, number). -/
def State.framesWaiting (s : State) : List (Nat × Nat × Nat × Nat) :=
  (List.range 4).filterMap (fun n =>
    (s.fst n).oldest.map (fun x => (n, x.tCap, (s.fst n).part, x.no)))

/-- The one with the oldest capture tick, then the lower stream (R379). -/
def oldestFrame (l : List (Nat × Nat × Nat × Nat)) : Option (Nat × Nat × Nat × Nat) :=
  match l with
  | [] => none
  | x :: r => some (r.foldl (fun b y => if y.2.1 < b.2.1 then y else b) x)

/-- A video frame is dispatched to a lane, or dropped as stale (R380). -/
def State.dispatchFrame (s : State) (l : Nat) (n no : Nat) : State :=
  let f := s.fst n
  match f.frames.find? (fun x => x.no = no) with
  | none => s
  | some x =>
    let s := s.modFst n (fun f => f.modFrame no (fun x => { x with tDisp := s.tick }))
    if f.stale ≠ 0 ∧ f.stale.toNat + x.tCap ≤ s.tick then s.modFst n (fun f => f.drop no 0x0B03)
    else
      let lane : ItkLane := ⟨f.part, .frame n no, s.tick, 0, none, f.stageAt n (x.slot.getD 0), f.frameBytes n, 0, [], none, [],
        false⟩
      (s.modFst n (fun f => f.modFrame no (fun x => { x with st := .shaping }))).setLane l (some lane)

/-- INTAKE_LANE_FREE: a free lane takes a pending video frame, else the next sample. In watch mode lane 0 alone has power
(Table 18.7). -/
def State.laneTake (s : State) (l : Nat) : State :=
  if (s.lane l).isSome || (s.grid.watch = .watch && l ≠ 0) || !s.ready then s
  else
    let fs := s.framesWaiting
    let bal := regAdd s.itk.reg.bal (s.shares 1)
    if !fs.isEmpty then
      let req := (fs.map (fun e => e.2.2.1)).eraseDups
      let elig := regEligible bal req
      match oldestFrame (fs.filter (fun e => elig.contains e.2.2.1)) with
      | none => s
      | some e =>
        let s' := s.dispatchFrame l e.1 e.2.2.2
        if (s'.lane l).isSome then s'.itkPay e.2.2.1 req else s'
    else
      let req := (List.range 8).filter s.canTake
      match firstFrom s.itk.reg.ptr (regEligible bal req) with
      | none => s
      | some p => (s.itkPay p req).takeSample l p

/-! ## A lane's work -/

/-- The shaped image's bytes and the slot's outcome for a sample whose bytes are all in (R361, R369, R374). -/
def State.sampleOutcome (s : State) (p : Nat) (r bytes : List Byte) (refused : Option Nat) : SlotEnd × List Byte :=
  let x := s.ses p
  let pad := fun (st fl : Nat) => ((⟨st, fl, none⟩ : SlotEnd), x.padBytes x.fmt (x.nC * x.nH * x.nW))
  let f := leAt r 2 2
  let codec := fld 0 0 f
  if refused.isSome then pad 0x0A06 4
  else if badRecord r then pad 0x0A07 4
  else
    let d := decodeImage codec bytes
    let scratch := if d.multi then (if codec = 0 then d.w * d.h * 6 else d.w * d.h * d.chans * (if d.deep then 2 else 1)) else 0
    if !d.headerOk then pad 0x0A03 4
    else if !d.supported then pad 0x0A04 4
    else if 16384 < d.w ∨ 16384 < d.h ∨ fld 27 16 x.scrHi.toNat * 2 ^ 20 < scratch then pad 0x0A05 4
    else if d.w * d.h ≤ d.lost.length then pad 0x0A03 4
    else
      let cx := leAt r 0x10 2
      let cy := leAt r 0x12 2
      let cw := leAt r 0x14 2
      let all := cw = 0
      let w := if all then d.w else min cw (d.w - cx)
      let h := if all then d.h else min (leAt r 0x16 2) (d.h - cy)
      if w = 0 ∨ h = 0 then pad 0x0A07 4
      else
        let i := (decodedImg d codec).crop (if all then 0 else cx) (if all then 0 else cy) w h
        let angle := leAt r 0x18 2
        let i := if angle = 0 then i else i.rotate angle x.padF
        let i := i.turns (fld 4 3 f)
        let i := if f.testBit 1 then i.hflip else i
        let i := if f.testBit 2 then i.vflip else i
        let i := i.resize (fld 6 5 f) x.nW x.nH
        let t := i.tensor x.fmt x.nC (if d.deep then 65535 else 255) (fun c => f16to32 (leAt r (0x1C + 2 * c) 2))
          (fun c => f16to32 (leAt r (0x22 + 2 * c) 2))
        match decodedExtent d with
        | none => (⟨0, 0, none⟩, t)
        | some e => (⟨0x0A01, 1, some e⟩, t)

/-- Bookkeeping of an outcome: the counter of its kind and the running average (R375). -/
def Session.note (x : Session) (e : SlotEnd) (t : Nat) : Session :=
  let i := if e.flags.testBit 0 then 1 else if e.flags.testBit 1 then 2 else if e.flags.testBit 2 then 3 else 0
  { x with
    counts := modAt x.counts i (fun c => sat32 c 1)
    avg := if 2 ≤ i then x.avg else ((x.avg : Int) + ((t : Int) - x.avg) / 16).toNat }

/-- A slot resolves in a lane: its entry is decided, its tensor goes out. -/
def State.resolveSlot (s : State) (l p seq i : Nat) (x : ItkLane) (e : SlotEnd) (t : List Byte) : State :=
  let z := s.ses p
  let ea := z.buf seq + 0x800 + i * z.slotBytes
  let s := (s.endSlot p seq i e).modSes p (fun z => z.note e (s.tick - x.take - x.faultTicks))
  s.setLane l (some { x with bytes := [], rdLen := x.rdDone, out := piecesOf ea t, resolved := true })

/-- The budget in ticks (R375). -/
def Session.limit (x : Session) : Option Nat :=
  let f := fld 7 0 x.budget.toNat
  let cap := fld 31 8 x.budget.toNat * 100
  if x.avg = 0 ∨ f = 0 then (if cap = 0 then none else some cap)
  else if cap ≠ 0 ∧ cap < f * x.avg then some cap
  else some (f * x.avg)

/-- A sample has reached the end of its budget unresolved (R376, R404). -/
def State.overBudget (s : State) (x : ItkLane) : Bool :=
  let faults := x.faultTicks + (match x.waiting with
    | some t => s.tick - t
    | none => 0)
  match (s.ses x.sess).limit with
  | some n => x.take + n + faults ≤ s.tick
  | none => false

/-- SAMPLE_RESOLVE: every byte is in, or the read was refused, before the budget's end. -/
def State.sampleResolve (s : State) (l : Nat) : State :=
  match s.lane l with
  | some x =>
    match x.item with
    | .sample r b i =>
      if x.resolved || (x.refused.isNone && x.rdDone < x.rdLen) || s.overBudget x then s
      else
        let o := s.sampleOutcome x.sess r x.bytes x.refused
        s.resolveSlot l x.sess b i x o.1 o.2
    | .frame _ _ => s
  | none => s

/-- SAMPLE_BUDGET_ABORT. -/
def State.budgetAbort (s : State) (l : Nat) : State :=
  match s.lane l with
  | some x =>
    match x.item with
    | .sample _ b i =>
      if x.resolved || !s.overBudget x then s
      else
        let z := s.ses x.sess
        let s := s.voidReads (fun o => o = .sampleData x.sess l)
        s.resolveSlot l x.sess b i x ⟨0x0A02, 2, none⟩ (z.padBytes z.fmt (z.nC * z.nH * z.nW))
    | .frame _ _ => s
  | none => s

/-- A staged frame shaped (R380): a raw mosaic is converted only. -/
def FStream.shape (f : FStream) (n : Nat) (bytes : List Byte) : List Byte :=
  let pb := f.pixBytes n
  let ch := pb / 2
  let i : Img := ⟨f.inLen, f.inLines, ch, fun x y c => fNat (leAt bytes ((y * f.inLen + x) * pb + 2 * c) 2)⟩
  let i := if f.form = 1 then i.jfif 65535 else i
  let i := if f.form = 2 then i else i.resize (fld 7 6 f.ctrl.toNat) f.nW f.nH
  i.tensor f.fmt f.nC 65535 (fun _ => fNat 1) (fun _ => 0)

/-- The next read of a lane: data that came is taken, or the next piece is asked for; a staged frame waits for its staging
writes. -/
def State.laneRead (s : State) (l : Nat) (x : ItkLane) : State :=
  let own := FabOwner.sampleData x.sess l
  if !s.ownerDone own || x.resolved || x.refused.isSome then s
  else if !s.ownerIdle own then
    let r := s.ownerTake own
    r.2.setLane l (some { x with bytes := x.bytes ++ r.1, rdDone := x.rdDone + r.1.length })
  else if x.rdLen ≤ x.rdDone then s
  else
    let staging := match x.item with
      | .frame n _ => (s.fst n).stage.any (fun e => x.rdAddr ≤ e.1 && e.1 < x.rdAddr + x.rdLen)
      | .sample _ _ _ => false
    if staging then s
    else
      let ea := x.rdAddr + x.rdDone
      let k := min (x.rdLen - x.rdDone) (1024 - ea % 1024)
      let p : Fin 8 := ⟨x.sess % 8, Nat.mod_lt _ (by decide)⟩
      match s.reach (.intake p) x.sess ea k false with
      | (.found pl, s) =>
        let x := { x with
          faultTicks := x.faultTicks + (match x.waiting with
            | some t => s.tick - t
            | none => 0)
          waiting := none }
        (s.setLane l (some x)).sideAccess own x.sess pl false k []
      | (.wait h, s) => s.setLane l (some { x with waiting := if h && x.waiting.isNone then some s.tick else x.waiting })
      | (.refused st, s) => s.setLane l (some { x with refused := some st })

/-- Pieces written until one must wait; a refused piece is dropped and noted. -/
def State.writeOut (s : State) (p : Nat) (own : FabOwner) : List (Nat × List Byte) → List (Nat × List Byte) × Bool × State
  | [] => ([], false, s)
  | (ea, bs) :: r =>
    let e : Fin 8 := ⟨p % 8, Nat.mod_lt _ (by decide)⟩
    match s.reach (.intake e) p ea bs.length true with
    | (.found pl, s) => State.writeOut (s.sideAccess own p pl true bs.length bs) p own r
    | (.wait _, s) => ((ea, bs) :: r, false, s)
    | (.refused _, s) => let x := State.writeOut s p own r; (x.1, true, x.2.2)

/-- Every write an owner has issued is accepted by its stop or, at a remote window, acknowledged (R358). -/
def State.ownerAccepted (s : State) (own : FabOwner) : Bool :=
  s.fab.accs.all (fun a => a.owner ≠ own || a.accepted) && s.fab.rem.all (fun a => a.owner ≠ own || a.done)

/-- A lane goes on: reads, a frame's shaping, writes; it frees with its last write accepted (R358). -/
def State.lanePump (s : State) (l : Nat) : State :=
  match s.lane l with
  | none => s
  | some x =>
    let s := s.laneRead l x
    match s.lane l with
    | none => s
    | some x =>
      match x.item with
      | .sample _ b _ =>
        if !x.resolved then s
        else
          let r := s.writeOut x.sess (.intakeWrite x.sess b) x.out
          let s := if r.2.1 then r.2.2.modSes x.sess (fun z => z.modBatch b (fun b => { b with status := 0x0A08 })) else r.2.2
          s.setLane l (if r.1.isEmpty && s.ownerAccepted (.intakeWrite x.sess b) then none else some { x with out := r.1 })
      | .frame n no =>
        let refuse := fun (s : State) => s.modFst n (fun f => f.modFrame no (fun y => { y with status := 0x0B05 }))
        let f := s.fst n
        let slot := ((f.frames.find? (fun y => y.no = no)).bind FrameRec.slot).getD 0
        if !x.resolved then
          if x.refused.isSome then
            (refuse (s.modFst n (fun f => f.modFrame no (fun y => { y with st := .written })))).setLane l none
          else if x.rdDone < x.rdLen then s
          else s.setLane l (some { x with bytes := [], out := piecesOf (f.outAt slot) (f.shape n x.bytes), resolved := true })
        else
          let r := s.writeOut x.sess (.frameWrite n no) x.out
          let s := if r.2.1 then refuse r.2.2 else r.2.2
          if r.1.isEmpty && s.ownerAccepted (.frameWrite n no) then (s.setLane l none).modFst n (fun f => f.modFrame no (fun y => { y with st := .written }))
          else s.setLane l (some { x with out := r.1 })

/-- A session's batch writes go on. (DEDUCED, log 42) -/
def State.batchPump (s : State) (p : Nat) : State :=
  let s := s.headBatches p
  (s.ses p).batches.foldl (fun s b =>
    if b.out.isEmpty then s
    else
      let r := s.writeOut p (.intakeWrite p b.seq) b.out
      r.2.2.modSes p (fun x => x.modBatch b.seq (fun b => { b with
        out := r.1, status := if r.2.1 then 0x0A08 else b.status }))) s

/-- A stream's staging and statistics writes go on. Each is (engine address, bytes); they belong to the oldest frame whose
areas hold the address, which the model takes as the frame of that slot. -/
def State.stagePump (s : State) (n : Nat) : State :=
  let f := s.fst n
  if f.stage.isEmpty then s
  else
    let slotOf := fun (ea : Nat) => (f.frames.find? (fun x => match x.slot with
      | some k => (f.stageAt n k ≤ ea && ea < f.stageAt n k + up4k (f.frameBytes n)) ||
                  (f.outAt k ≤ ea && ea < f.outAt k + up4k f.tensorBytes + 4096)
      | none => false)).map FrameRec.no
    let step := fun (a : List (Nat × List Byte) × State) (e : Nat × List Byte) =>
      match slotOf e.1 with
      | none => a
      | some no =>
        if !a.1.isEmpty then (a.1 ++ [e], a.2)
        else
          let r := a.2.writeOut f.part (.frameWrite n no) [e]
          (r.1, if r.2.1 then r.2.2.modFst n (fun f => f.modFrame no (fun y => { y with status := 0x0B05 })) else r.2.2)
    let r := f.stage.foldl step ([], s)
    r.2.modFst n (fun f => { f with stage := r.1 })

/-- When the oldest frame's tensor is in memory its statistics are written (R381). -/
def State.closeFrame (s : State) (n : Nat) : State :=
  match (s.fst n).frames with
  | x :: _ =>
    if x.st = .written && s.ownerDone (.frameWrite n x.no) && (s.fst n).stage.isEmpty then
      let f := s.fst n
      s.modFst n (fun g => { (g.modFrame x.no (fun y => { y with st := .closing })) with
        stage := g.stage ++ (if x.hasStats then piecesOf (f.statsAt n (x.slot.getD 0)) x.stats else []) })
    else s
  | [] => s

/-- Everything the Intake can do at once without an event of its own. -/
def State.itkPump (s : State) : State :=
  let s := (List.range 6).foldl (fun s n => (s.stagePump n).closeFrame n) s
  let s := (List.range 4).foldl State.lanePump s
  let s := (List.range 8).foldl State.batchPump s
  (List.range 6).foldl State.stagePump s

/-! ## Session configuration (R383) -/

/-- A lane that still completes a sample of the session before it is enabled anew belongs to no batch of it. -/
def ItkLane.apart (x : ItkLane) (p : Nat) : ItkLane :=
  match x.item with
  | .sample r b i => if x.sess = p then { x with item := .sample r (2 ^ 32 + b) i } else x
  | .frame _ _ => x

/-- ITK_SESSION_CFG_WRITE. (DEDUCED, log 56) -/
def State.itkCfg (s : State) (p v : Nat) : State :=
  let x := s.ses p
  let w := BitVec.ofNat 32 (v % 32)
  if s.cfg.parts ≤ p then s
  else if x.cfg.getLsbD 4 then
    (if v.testBit 4 then s else s.modSes p (fun x => { x with cfg := x.cfg &&& 0xF#32 }))
  else if !v.testBit 4 then s.modSes p (fun x => { x with cfg := w })
  else if fld 19 0 x.stride.toNat * 4096 < 0x800 + x.nB * x.slotBytes ∨ fld 11 10 x.outCfg.toNat = 3 ∨ !itkFmt x.fmt then
    (s.modSes p (fun x => { x with cfg := w &&& 0xF#32 })).sesEvent p 3
  else
    ((s.dropAccs (.sampleRecord p)).modItk (fun t => { t with lanes := t.lanes.map (Option.map (·.apart p)) })).modSes p
      (fun x => { x with
      cfg := w, avg := 0, counts := List.replicate 4 0, bellDrop := 0, head := 0, tail := 0, retrying := false, tries := 0,
      ahead := false, batches := [], nextSeq := 0, armed := false })

/-! ## The frame port (R377 to R382, R528) -/

/-- A frame in arrival. -/
def FStream.arriving (f : FStream) : Option FrameRec := f.frames.find? (fun x => x.st = .arriving || x.st = .discarding)

/-- Bytes a stream holds for staging. -/
def FStream.held (f : FStream) : Nat := (f.stage.map (fun e => e.2.length)).foldl (· + ·) 0

/-- A line's bytes repeated or cut to the configured length, and whether that changed it; a line of no pixel is filled with
zeros (log 43). -/
def fixLine (line : List Byte) (len pix : Nat) : List Byte × Bool :=
  if line.length = len then (line, false)
  else if len < line.length then (line.take len, true)
  else
    let whole := line.take (line.length / pix * pix)
    let lastPix := if whole.length < pix then List.replicate pix 0#8 else whole.drop (whole.length - pix)
    (whole ++ (List.replicate ((len - whole.length) / pix) lastPix).flatten, true)

/-- END_OF_LINE: the line goes to staging; a line beyond the configured count is discarded; a full line buffer drops the
frame. (DESIGN CHOICE, log 43) -/
def FStream.endLine (f : FStream) (n : Nat) : FStream :=
  match f.arriving with
  | none => f
  | some x =>
    let r := fixLine x.line (f.lineBytes n) (f.pixBytes n)
    let x' := { x with line := [], lines := x.lines + 1, last := r.1, flags := if r.2 then x.flags ||| 4 else x.flags }
    if f.frameLines n ≤ x.lines then f.modFrame x.no (fun _ => { x' with last := x.last, flags := x'.flags ||| 2 })
    else
      match x.slot, x.st with
      | none, _ => f.modFrame x.no (fun _ => x')
      | some _, .discarding => f.modFrame x.no (fun _ => x')
      | some k, _ =>
        if 65536 < f.held + r.1.length then
          { ((f.modFrame x.no (fun _ => x')).lose x.no 0x0B04) with
            stage := f.stage.filter (fun e => !(f.stageAt n k ≤ e.1 && e.1 < f.stageAt n k + up4k (f.frameBytes n))) }
        else
          { (f.modFrame x.no (fun _ => x')) with
            stage := f.stage ++ piecesOf (f.stageAt n k + x.lines * f.lineBytes n) r.1 }

/-- END_OF_FRAME: the line count is fixed; the frame is pending, an audio block written, a frame with no lines
dropped. -/
def FStream.endFrame (f : FStream) (n tick : Nat) : FStream :=
  let f := match f.arriving with
    | some x => if x.line.isEmpty then f else f.endLine n
    | none => f
  match f.arriving with
  | none => f
  | some x =>
    match x.slot, x.st with
    | none, _ => (f.modFrame x.no (fun y => { y with tEnd := tick })).drop x.no 0x0B04
    | some _, .discarding => f.modFrame x.no (fun y => { y with tEnd := tick, st := .dropped })
    | some k, _ =>
      if x.lines = 0 then (f.modFrame x.no (fun y => { y with tEnd := tick })).drop x.no 0x0B01
      else
        let missing := f.frameLines n - x.lines
        let fill := (List.range missing).flatMap (fun i =>
          piecesOf (f.stageAt n k + (x.lines + i) * f.lineBytes n) x.last)
        let f := f.modFrame x.no (fun y => { y with
          tEnd := tick, tDisp := if 4 ≤ n then tick else 0, st := if 4 ≤ n then .written else .pending
          flags := if missing = 0 then y.flags else y.flags ||| 1 })
        { f with stage := f.stage ++ fill }

/-- A frame or block starts: an unfinished one ends there, and the lowest free slot is taken. -/
def State.frameStart (s : State) (n ts : Nat) (fnum : Word) : State :=
  if !(s.fst n).on || !s.ready then s
  else
    let s := (s.modFst n (fun f => f.endFrame n s.tick)).itkPump
    let f := s.fst n
    let slot := (List.range f.slots).find? (fun k => !f.busy.contains k)
    let x : FrameRec :=
      { no := f.nextNo, slot := slot, tCap := ts, fnum := fnum, tStart := s.tick, tEnd := 0, tDisp := 0, st := .arriving,
        line := [], last := [], lines := 0, flags := 0, status := 0, stats := [], hasStats := false, trunc := false }
    s.modFst n (fun f => { f with
      nextNo := f.nextNo + 1, frames := f.frames ++ [x]
      busy := match slot with
        | some k => k :: f.busy
        | none => f.busy })

/-- VIDEO_BEAT and AUDIO_BEAT: bytes join the line in arrival. -/
def State.beat (s : State) (n : Nat) (bs : List Byte) : State :=
  s.modFst n (fun f => match f.arriving with
    | some x => f.modFrame x.no (fun y => { y with line := y.line ++ bs })
    | none => f)

/-- A video beat's pixel, or its four raw mosaic taps. -/
def State.videoBeat (s : State) (n : Nat) (d : DWord) : State :=
  let f := s.fst n
  s.beat n (toLe (if f.form = 2 then 8 else 6) d.toNat)

def State.endOfLine (s : State) (n : Nat) : State := (s.modFst n (fun f => f.endLine n)).itkPump
def State.endOfFrame (s : State) (n : Nat) : State := (s.modFst n (fun f => f.endFrame n s.tick)).itkPump

/-- STATISTICS_BEAT (R381): the first beat finds the frame, by number or as the latest; at lower versions of the group the
number is ignored (R536). -/
def State.statsBeat (s : State) (n kind : Nat) (fnum : Word) (data : DWord) (first : Bool) : State :=
  let f := s.fst n
  let minor := (s.alm.agreed.getD 3 0) % 256
  let byNo := kind = 0 ∧ 2 ≤ minor
  let live := f.frames.filter FrameRec.live
  let four := live.drop (live.length - 4)
  let pick := if byNo then four.find? (fun x => x.fnum = fnum) else
    (match f.frames.getLast? with
     | some x => if x.live then some x else none
     | none => none)
  let pick := pick.filter (fun x => x.st ≠ .closing)
  let f := if first then
      { f with statsFor := pick.map FrameRec.no, lost := if pick.isNone then min 65535 (f.lost + 1) else f.lost }
    else f
  match f.statsFor with
  | none => s.modFst n (fun _ => f)
  | some no =>
    s.modFst n (fun _ => f.modFrame no (fun x =>
      if x.st = .closing ∨ !x.live then x
      else if 4096 ≤ x.stats.length then { x with trunc := true }
      else { x with hasStats := true, stats := x.stats ++ toLe 8 data.toNat }))

/-- A frame record (Table 11.5). -/
def FrameRec.bytes (x : FrameRec) (n : Nat) (phase : Bool) : List Byte :=
  let drop := x.st = .dropped
  let head := b2n phase + 2 * n + 16 * b2n drop + 32 * x.flags + 256 * b2n x.hasStats + 512 * b2n x.trunc +
    1024 * (x.slot.getD 0) + 65536 * x.status
  toLe 4 head ++ toLe 4 x.fnum.toNat ++ toLe 8 x.tCap ++ toLe 8 x.tEnd ++ toLe 8 x.tDisp ++ toLe 4 x.lines ++
    toLe 4 x.stats.length ++ List.replicate 24 0#8

/-- FRAME_RECORD_WRITE: the oldest frame's record goes to the ring once its writes are acknowledged and the ring has
room. -/
def State.frameRecord (s : State) (n : Nat) : State :=
  let f := s.fst n
  match f.frames with
  | [] => s
  | x :: rest =>
    let k := f.recK
    if !(x.st = .dropped || (x.st = .closing && f.stage.isEmpty && s.ownerDone (.frameWrite n x.no))) then s
    else if k < 4 ∨ 10 < k ∨ ringFull k f.head f.tail then s
    else
      let s := (s.ownerTake (.frameWrite n x.no)).2
      let base := fld 31 6 f.recLo.toNat * 64 + fld 15 0 f.recHi.toNat * 2 ^ 32
      let bs := x.bytes n (!f.tail.testBit k)
      let s := s.modFst n (fun f => { f with frames := rest, tail := (f.tail + 1) % 2 ^ (k + 1) })
      s.access (.frameRecord n) true false false (base + 64 * (f.tail % 2 ^ k)) 64 bs (some f.part) none 40

/-- The fabric has acknowledged a frame record. -/
def State.frameRecorded (s : State) (n : Nat) : State := s.sesEvent (s.fst n).part 4

/-- FRM_FREE: the slot of a recorded frame. -/
def State.frmFree (s : State) (n v : Nat) : State :=
  let k := fld 5 0 v
  s.modFst n (fun f => if f.frames.any (fun x => x.slot = some k && x.live) then f else { f with busy := f.busy.erase k })

/-- FRM_REC_HEAD_WRITE. -/
def State.frmHead (s : State) (n v : Nat) : State := s.modFst n (fun f => { f with head := v % 2 ^ 11 })

/-- FRM_CTRL_WRITE: an enabled stream heeds only the enable bit; a raw mosaic stream with unequal shapes, or below version
1.1 of the group, cannot be enabled (R380, R536), nor one with a reserved code or a count outside Table 11.9. (DEDUCED, log 57) -/
def State.frmCtrl (s : State) (n v : Nat) : State :=
  let f := s.fst n
  let w := BitVec.ofNat 32 (v % 2 ^ 22)
  if f.on then (if v.testBit 0 then s else s.modFst n (fun f => { f with ctrl := f.ctrl &&& 0xFFFFFFFE#32 }))
  else if !v.testBit 0 then s.modFst n (fun f => { f with ctrl := w })
  else
    let g := { f with ctrl := w }
    let ver := s.alm.agreed.getD 3 0
    let raw := n < 4 && g.form = 2
    let m := fld 17 15 v
    let odd := n < 4 && (g.form = 3 || (!raw && fld 7 6 v = 3) || fld 14 13 v = 3 || !itkFmt g.fmt)
    if ver = 0 ∨ odd ∨ g.recK < 4 ∨ 10 < g.recK ∨ (raw && (g.inShape ≠ g.outShape || ver % 256 = 0)) ∨ m = 0 ∨ 6 < m ∨ s.cfg.parts ≤ g.part then
      s.modFst n (fun f => { f with ctrl := w &&& 0xFFFFFFFE#32 })
    else s.modFst n (fun f => { f with ctrl := w, head := 0, tail := 0, drops := 0, lost := 0 })

end Sys2Proof.Machine
end

