-- ==== Sys2Proof/Machine/LodestarUnit.lean ====
section
/-! DEFINITION. The Lodestar: device key, reports, key release, scrub, access tables (section 15). -/

namespace Sys2Proof.Machine

def State.modLds (s : State) (f : Lodestar → Lodestar) : State := { s with lds := f s.lds }

/-- An event of Table 15.8 that sends a message: 0 rpt_done, 3 deny, 4 seal_fail; others only set their bit. -/
def State.ldsEvent (s : State) (bit : Nat) : State :=
  let s := (s.modLds (fun l => { l with event := l.event ||| BitVec.ofNat 32 (2 ^ bit) })).mark 0xA 8 (2 ^ bit)
  if bit = 0 ∨ bit = 3 ∨ bit = 4 then s.gmsi else s

/-- The bytes of an ASCII string. -/
def ascii (t : String) : List Byte := t.toList.map (fun c => BitVec.ofNat 8 c.toNat)

/-- A random private scalar: a free value brought into 1 to n − 1. -/
def scalarOf (x : Nat) : Nat := x % (p384n - 1) + 1

/-! ## Device identity (R462) -/

/-- The device private key of a fused secret. -/
def deviceScalar (secret : List Byte) : Nat :=
  scalarOf (ofBe (hkdf384 (List.replicate 48 0#8) secret (ascii "SD3 device key") 56))

/-- DEVICE_KEY_DERIVED: from the end of phase 1, once. -/
def State.deviceKey (s : State) : State :=
  match s.alm.phase with
  | .held => s
  | .fuses => s
  | _ =>
    if s.lds.dpriv.isSome then s
    else
      let d := deviceScalar s.lds.secret
      s.modLds (fun l => { l with dpriv := some d, devkey := pubKey d })

/-! ## Reports (R464 to R468) -/

/-- A 64 B-aligned fabric address in a pair of registers. -/
def addrPair (lo hi : Word) : Nat := fld 31 6 lo.toNat * 64 + fld 15 0 hi.toNat * 2 ^ 32

/-- LDS_RPT_CTRL: go queues the nonce and the address. -/
def State.reportRequest (s : State) (v : Nat) : State :=
  if !v.testBit 0 then s
  else if 4 ≤ s.lds.rptQueue.length then s.ldsEvent 1
  else s.modLds (fun l => { l with
    rptQueue := l.rptQueue ++ [(l.nonce.flatMap (fun w => toLe 4 w.toNat), addrPair l.rptLo l.rptHi)] })

/-- SHA-384 of a partition's 16 segment descriptors. -/
def Part.segDigest (p : Part) : List Byte :=
  sha384 ((p.segs.take 16).flatMap (fun g =>
    toLe 4 g.baseLo.toNat ++ toLe 4 g.baseHi.toNat ++ toLe 4 g.limit.toNat ++ toLe 4 g.attr.toNat))

/-- image_digest of R466. -/
def State.imageDigest (s : State) (p : Nat) : List Byte :=
  sha384 ((s.part p).coreList.flatMap (fun c =>
    BitVec.ofNat 8 c :: (if (s.core c).img.valid then slice (s.core c).img.digest 0 48 else List.replicate 48 0#8)))

/-- weight_digest of R466. -/
def State.weightDigest (s : State) (p : Nat) : List Byte :=
  sha384 ((List.range 16).flatMap (fun i =>
    BitVec.ofNat 8 i :: (match (s.lds.keys.getD p []).getD i none with
      | some k => toLe 4 k.keyId.toNat ++ slice k.weightDigest 0 48
      | none => List.replicate 52 0#8)))

/-- Bit s: key slot s of a partition is installed. -/
def Lodestar.keyMask (l : Lodestar) (p : Nat) : Nat :=
  (List.range 16).foldl (fun m i => if ((l.keys.getD p []).getD i none).isSome then m + 2 ^ i else m) 0

/-- A partition's entry (Table 15.2). -/
def State.reportEntry (s : State) (p : Nat) : List Byte :=
  let q := s.part p
  let st := if !q.enable then 0 else if q.rings.any Ring.hot then 3 else if s.hasJob p then 2 else 1
  let watch := b2n (s.grid.watch = .watch && s.grid.watchIn = p)
  toLe 1 st ++ toLe 1 watch ++ toLe 2 (s.lds.keyMask p) ++ toLe 4 q.cores.toNat ++
    toLe 4 (s.lds.epochs.getD p 0).toNat ++ toLe 4 0 ++ q.segDigest ++ s.imageDigest p ++ s.weightDigest p

/-- A report up to its signature (Table 15.1). (DEDUCED, log 82) -/
def State.reportBody (s : State) (nonce release : List Byte) : List Byte :=
  let n := s.cfg.parts
  let bad := s.alm.fuses.bad.eraseDups.foldl (fun m x => m + 2 ^ x) 0
  toLe 4 0x54525341 ++ toLe 2 0x0100 ++ toLe 1 n ++ toLe 1 0 ++ toLe 4 (0x170 + 160 * n + 96) ++
    toLe 4 (s.lds.rptSeq.toNat + 1) ++ nonce ++ toLe 4 0x00030200 ++
    (toLe 1 s.cfg.index ++ toLe 1 s.lds.lifecycle ++ toLe 2 s.lds.secVersion ++ toLe 5 bad ++ toLe 3 0) ++
    toLe 8 s.tick ++ toLe 8 0 ++ slice s.lds.devkey 0 96 ++ release ++ sha384 s.alm.image ++ slice s.alm.fwDigest 0 48 ++
    (List.range n).flatMap s.reportEntry

/-- A request is held (R467). -/
def State.reportHeld (s : State) : Bool :=
  s.alm.st = .activating || !s.flt.resets.isEmpty || !s.lds.scrubs.isEmpty

/-- REPORT_SNAPSHOT: the oldest request is answered, its report signed and written. The release key and the signature's
nonce come from the Lodestar's random generator: free values. -/
def State.reportSnapshot (s : State) : State :=
  match s.lds.rptQueue, s.lds.dpriv with
  | (nonce, addr) :: rest, some d =>
    if s.reportHeld || s.lds.writing || !s.ready || !s.dutyOk 3 then s
    else
      let a := s.takeFree
      let b := a.2.takeFree
      let s := b.2
      let r := scalarOf (freeNat a.1)
      let body := s.reportBody nonce (pubKey r)
      let dig := sha384 body
      let sig := ecdsaSign d (scalarOf (freeNat b.1)) dig
      let s := s.modLds (fun l => { l with
        rptQueue := rest, writing := true, kept := ((⟨r, dig, l.epochs⟩ : KeptReport) :: l.kept).take 4 })
      s.postWrite .report addr (body ++ sig) none
  | _, _ => s

/-- REPORT_WRITTEN: every write of the report has been acknowledged. -/
def State.reportWritten (s : State) : State :=
  if !s.lds.writing || !(s.accsOf .report).all FabAcc.done then s
  else
    let s := s.dropAccs .report
    (s.modLds (fun l => { l with writing := false, rptSeq := l.rptSeq + 1#32 })).ldsEvent 0

/-! ## Key release (R469 to R471) -/

/-- LDS_KEY_CTRL with go: the blob is read coherently; one written while busy is dropped. -/
def State.keyInstall (s : State) (v : Nat) : State :=
  if !v.testBit 0 then s
  else if s.lds.keyOp.isSome then s.ldsEvent 2
  else
    let a := addrPair s.lds.keyLo s.lds.keyHi
    (s.modLds (fun l => { l with keyOp := some (.install a) })).postRead .keyBlob true a 256 none

/-- The partition may have a slot replaced or cleared: it is idle and in no scrub. -/
def State.keyIdle (s : State) (p : Nat) : Bool := !s.hasJob p && !s.inScrub p

def Lodestar.setKey (l : Lodestar) (p i : Nat) (k : Option KeySlot) : Lodestar :=
  { l with keys := modAt l.keys p (fun x => setAt x i k) }

/-- LDS_KEY_CTRL with clear. -/
def State.keyClear (s : State) (v : Nat) : State :=
  let p := fld 6 4 v
  let i := fld 11 8 v
  if !v.testBit 1 ∨ v.testBit 0 then s
  else if s.lds.keyOp.isSome then s.ldsEvent 2
  else if s.keyIdle p then s.modLds (fun l => { (l.setKey p i none) with keyResult := 0 })
  else s.modLds (fun l => { l with keyResult := 0x0F05 })

/-- The result of an install, and the slot it fills (R469, R470). -/
def State.unwrapBlob (s : State) (b : List Byte) : Nat × Option (Nat × Nat × KeySlot) :=
  let p := leAt b 4 1
  let i := leAt b 5 1
  let tag := leAt b 0xF8 8
  if leAt b 0 4 ≠ 0x594B4C53 ∨ leAt b 6 2 ≠ 0 ∨ 16 ≤ i ∨ s.cfg.parts ≤ p ∨ tag % 16 ≠ 0 ∨ 2 ^ 48 ≤ tag then (0x0F02, none)
  else
    match s.lds.kept.find? (fun r => r.digest = slice b 0x10 48) with
    | none => (0x0F03, none)
    | some r =>
      if r.epochs.getD p 0 ≠ s.lds.epochs.getD p 0 then (0x0F03, none)
      else
        match ecdh r.priv (slice b 0x40 96) with
        | none => (0x0F04, none)
        | some z =>
          let info := ascii "SD3 key release" ++ slice b 4 1 ++ slice b 5 1 ++ slice b 8 4 ++ slice b 0xC8 48
          match keyUnwrap (hkdf384 r.digest z info 32) (slice b 0xA0 40) with
          | none => (0x0F04, none)
          | some key =>
            let full := ((s.lds.keys.getD p []).getD i none).isSome
            if (full && s.hasJob p) || s.inScrub p then (0x0F05, none)
            else (0, some (p, i, ⟨key, BitVec.ofNat 32 (leAt b 8 4), slice b 0xC 4, tag, slice b 0xC8 48⟩))

/-- KEY_INSTALL_DONE: the blob has been read; its result is written. -/
def State.keyDone (s : State) : State :=
  match s.lds.keyOp with
  | some (.install _) =>
    if !(s.accsOf .keyBlob).all FabAcc.done || !s.dutyOk 3 then s
    else
      let r := s.unwrapBlob (s.accsData .keyBlob)
      let s := s.dropAccs .keyBlob
      s.modLds (fun l =>
        let l := { l with keyOp := none, keyResult := r.1 }
        match r.2 with
        | some (p, i, k) => l.setKey p i (some k)
        | none => l)
  | _ => s

/-- Block reset and a firmware activation clear the slots and discard the kept reports (R471). -/
def Lodestar.forget (l : Lodestar) : Lodestar :=
  { l with keys := List.replicate 8 (List.replicate 16 none), kept := [] }

/-! ## Scrub (R481 to R484) -/

/-- A session at its reset configuration but for its message vector, and the streams bound to a partition; items of its lanes are
abandoned. -/
def Intake.scrub (t : Intake) (p : Nat) : Intake :=
  { t with
    sess := modAt t.sess p (fun x => { Session.reset with msi := x.msi })
    lanes := t.lanes.map (fun o => match o with
      | some x => if x.sess = p then none else some x
      | none => none)
    streams := t.streams.map (fun f => if fld 3 1 f.ctrl.toNat = p then FStream.reset else f) }

/-- The session of a partition in scrub is disabled, and what it had in hand is abandoned (R482). -/
def State.scrubIntake (s : State) (p : Nat) : State :=
  { s with itk := s.itk.scrub p }.voidReads (fun o => match o with
    | .sampleRecord q => q = p
    | .sampleData q _ => q = p
    | _ => false)

/-- Nothing of the partition's waits for the links any more: frames not sent, and the accesses they were for (R482). -/
def State.scrubLinks (s : State) (p : Nat) : State :=
  let puts := fun (f : Frame_) => match f.load with
    | .data _ => 0
    | .cells cs => (cs.filter (fun c => match c with
      | .hqPut _ _ _ _ => true
      | _ => false)).length
  let gone := s.lnk.queue.filter (fun f => f.own = p)
  let s := { s with fab := { s.fab with rem := s.fab.rem.filter (fun a => !s.unsentAcc p a) } }
  { s with lnk := { s.lnk with
      queue := s.lnk.queue.filter (fun f => f.own ≠ p), hqInflight := s.lnk.hqInflight - (gone.map puts).foldl (· + ·) 0 } }

/-- LDS_SCRUB_CTRL: a scrub starts, with a reset first when a job runs or is parked. (DEDUCED, log 61) -/
def State.scrubGo (s : State) (v : Nat) : State :=
  let p := fld 2 0 v
  if !v.testBit 31 then s
  else if s.inScrub p || s.cfg.parts ≤ p || (s.grid.watch = .watch && s.grid.watchIn = p) then
    s.modLds (fun l => { l with scrubStatus := 0x0F06 })
  else
    let busy := s.hasJob p
    let s := s.modLds (fun l => { l with scrubStatus := 0, scrubs := l.scrubs ++ [p] })
    let s := s.scrubIntake p
    if busy then s.resetStart p true [] [] false else s

/-- A core's state of Table 15.6 at zero; its limit, fuses and trip stay. -/
def Core.scrubbed (c : Core) : Core :=
  { Core.reset with
    arr := { ArrayUnit.reset with limit := c.arr.limit, trip := c.arr.trip, repair := c.arr.repair } }

/-- The shared-store units' seal bits cleared. -/
def State.unsealStore (s : State) (p : Nat) : State :=
  let q := s.part p
  { s with storeSeal := s.storeSeal.filter (fun u =>
    let b := u % 512 / 16
    !(q.ssBase ≤ b && b < q.ssBase + q.ssUnits)) }

/-- Partition registers a scrub sets to their reset values. -/
def Part.scrubbed (p : Part) : Part :=
  { p with
    segs := List.replicate 16 Seg.zero, fringLo := 0, fringHi := 0, fringCfg := 0, fringTail := 0, fringHead := 0, fringSeq := 0,
    fringWait := [], rings := List.replicate 8 Ring.reset, cringLo := 0, cringHi := 0, cringCfg := 0, cringTail := 0,
    cringHead := 0, winStep := 0, hqs := List.replicate 64 HQueue.reset, hqInflight := 0, bars := [] }

/-- The segment copies of a partition, and the cached lines that hold an entry of it, dropped. -/
def SideMmu.scrubbed (m : SideMmu) (p : Nat) : SideMmu :=
  { m with
    segs := setAt m.segs p (List.replicate 16 Seg.zero)
    cache := m.cache.filter (fun l => !l.entries.any (fun e => fld 2 0 e.toNat ≠ 0 && fld 30 28 e.toNat = p)) }

/-- SCRUB_COMPLETE: everything of Table 15.6 is clear; the epoch increments, scrub clears, the message is sent.
(DEDUCED, log 61) -/
def State.scrubComplete (s : State) (p : Nat) : State :=
  if !s.inScrub p || s.inReset p || s.flt.sounding.any (fun x => s.unitPart x.unit = some p) || !s.dutyOk 3 then s
  else
    let cs := (s.part p).coreList
    let s := cs.foldl (fun s c => s.modCore c Core.scrubbed) s
    let s := (((s.clearStore p).unsealStore p).dropFaults p cs).scrubIntake p
    let s := s.scrubLinks p
    let s := s.modPart p Part.scrubbed
    let s := s.voidReads (fun o => o.ofBinnacle p)
    let s := { s with fab := { s.fab with accs := s.fab.accs.filter (fun a => !(a.write && a.part = some p && a.tag.isNone)) } }
    let s := s.modGrid (fun g => { g with
      jobs := g.jobs.filter (fun j => j.part ≠ p), records := g.records.filter (fun r => r.part ≠ p),
      disp := g.disp.filter (fun e => e.part ≠ p), fetches := g.fetches.filter (fun f => f.part ≠ p) })
    let s := s.modCht (fun c => { c with
      inwin := c.inwin.map (fun w => if w.1.testBit 0 && fld 3 1 w.1 = p then (w.1 - 1, w.2) else w)
      itk := c.itk.scrubbed p
      lnk := c.lnk.scrubbed p })
    let s := s.modLds (fun l => { l with
      keys := setAt l.keys p (List.replicate 16 none), epochs := modAt l.epochs p (· + 1#32)
      scrubs := l.scrubs.filter (· ≠ p) })
    s.msi p 3

/-! ## Access tables (R476) -/

/-- LDS_ACC_LOCK. -/
def State.accLock (s : State) (v : Nat) : State :=
  if v.testBit 0 then s.modLds (fun l => { l with accLock := true }) else s

/-- LDS_ACC_n and LDS_PEER_n: ignored once locked. -/
def State.accWrite (s : State) (n v : Nat) : State :=
  if s.lds.accLock then s
  else s.modLds (fun l => { l with acc := setAt l.acc n (BitVec.ofNat 32 (v &&& 0x81FFFFFF)) })
def State.peerWrite (s : State) (i v : Nat) : State :=
  if s.lds.accLock then s else s.modLds (fun l => { l with peers := setAt l.peers i (BitVec.ofNat 32 v) })

end Sys2Proof.Machine
end

