-- ==== Sys2Proof/Machine/Power.lean ====
section
/-! DEFINITION. The power controller, energy and heat (section 13). -/

namespace Sys2Proof.Machine

def State.modPwr (s : State) (f : PowerUnit → PowerUnit) : State := { s with pwr := f s.pwr }

/-- An event of R441 or R437: its bit and a message. -/
def State.pwrEvent (s : State) (bit : Nat) : State :=
  ((s.modPwr (fun p => { p with event := p.event ||| BitVec.ofNat 32 (2 ^ bit) })).mark 7 0x14 (2 ^ bit)).gmsi

/-! ## Reckoning (R415 to R417) -/

/-- A weight in grains: a binary32 value in pJ. (DEDUCED, log 40) -/
def grains (w : Word) : Nat :=
  match f32Val w.toNat with
  | .fin false m e => m * 2 ^ (e + 149).toNat
  | _ => 0

def PowerUnit.weight (p : PowerUnit) (i : Nat) : Nat :=
  grains ((if p.economy then p.weightsEco else p.weights).getD i 0)

/-- A weight in W as the energy of an interval: 1 W for 2 µs is 2,000,000 pJ. -/
def PowerUnit.watts (p : PowerUnit) (i : Nat) : Nat := p.weight i * 2000000

/-- A leakage term at temperature t. -/
def PowerUnit.leak (p : PowerUnit) (i : Nat) (t : Int) : Nat := p.watts i * leakScale t / 2 ^ 24

/-- Array, element, convolution and tile-memory energy of an interval. -/
def PowerUnit.issueE (p : PowerUnit) (a : Activity) : Nat :=
  a.i2 * p.weight 0 + a.i4 * p.weight 1 + a.i1 * p.weight 2 + a.elem * p.weight 4 + a.conv * p.weight 5 + a.tile * p.weight 6

/-- A core's own energy. -/
def PowerUnit.coreE (p : PowerUnit) (a : Activity) : Nat := p.issueE a + a.dummy * p.weight 3 + a.clk * p.weight 7

/-- Memory and link traffic. -/
def PowerUnit.memE (p : PowerUnit) (a : Activity) : Nat :=
  a.mesh * p.weight 8 + a.ss * p.weight 9 + a.fab * p.weight 10 + a.near * p.weight 11
def PowerUnit.lnkE (p : PowerUnit) (a : Activity) : Nat := a.lnk * p.weight 12

/-- The hottest reading of the open interval. -/
def PowerUnit.temp (p : PowerUnit) : Int := p.intHot.getD p.hot

/-- Physical cores that are powered. -/
def State.powered (s : State) : Nat := if s.grid.watch = .watch then 1 else s.cfg.phys

/-- Static terms of an interval. -/
def State.staticE (s : State) : Nat :=
  let p := s.pwr
  p.watts 14 + s.powered * p.leak 15 p.temp + p.leak 16 p.temp

/-- Power is measured now (R418). -/
def PowerUnit.measuring (p : PowerUnit) : Bool := p.ctrl.getLsbD 0 && !p.tmLost

/-! ## Windows and the target (R419, R420) -/

/-- The energy of an interval at the cap: 10 mW for 2 µs are 20,000 pJ. -/
def capE (cap : Nat) : Nat := cap * 20000 * pJ

/-- The target of interval k + 1 and the term that set it, interval k being the last closed. -/
def PowerUnit.nextTarget (p : PowerUnit) : Nat × Nat :=
  let c := capE p.cap
  let ceil : Int := (3 * c / 2 : Nat)
  let t1 : Int := (750 * c : Nat) - (sumNat (p.hist.take 499) : Nat)
  let t10 : Int := (6000 * c : Nat) - (sumNat (p.hist.take 4999) : Nat)
  let left := 500 - p.closed % 500
  let t1s : Int := ((500000 * c : Nat) - (sumNat (p.bins.take 999) : Nat) - (p.binNow : Nat)) / (left : Int)
  let m := min (min ceil t1) (min t10 t1s)
  let w := if m = ceil then 0 else if m = t1 then 1 else if m = t10 then 2 else 3
  ((max 0 m).toNat, w)

/-! ## Budgets (R421 to R424, R436) -/

/-- The classes in the order of Table 13.3: 0 links, 1 memory, 2 compute. -/
def classOrder (n : Nat) : List Nat :=
  match n with
  | 1 => [1, 0, 2]
  | 2 => [0, 2, 1]
  | 3 => [2, 0, 1]
  | 4 => [1, 2, 0]
  | 5 => [2, 1, 0]
  | _ => [0, 1, 2]

/-- What each class receives: links, memory, compute. -/
def giveClasses (order : List Nat) (demand : List Nat) (budget : Nat) : List Nat :=
  (order.foldl (fun (acc : List Nat × Nat) i =>
    let x := min (demand.getD i 0) acc.2
    (setAt acc.1 i x, acc.2 - x)) ([0, 0, 0], budget)).1

/-- A held core's figures of R422, as energies of an interval: at limit 0 and what full issue adds. -/
structure CoreFig where
  core : Nat
  part : Nat
  pb : Nat
  fe : Nat
deriving DecidableEq, Repr

/-- The core's energy in an interval at a limit. -/
def CoreFig.at (x : CoreFig) (l : Nat) : Nat := x.pb + l * x.fe / 64

/-- A core is held by a job: from its start packet to its release (R396). -/
def Job.holds (j : Job) : Bool :=
  match j.phase with
  | .running => true
  | .record => true
  | .parked => true
  | .restart => true
  | .loading => j.silent || j.replays ≠ 0
  | _ => false

def State.heldBy (s : State) (c : Nat) : Option Job := s.grid.jobs.find? (fun j => j.holds && j.has c)

/-- PLL cycles in an interval of 200 ticks (R7, R8): 17,600, so 17,600 ÷ d A-cycles; 4,400 in watch mode. -/
def State.intervalPll (s : State) : Nat := if s.grid.watch = .watch then 4400 else 17600

/-- The figures of a held core (R422). -/
def State.coreFig (s : State) (c : Nat) (p : Nat) : CoreFig :=
  let w := s.pwr
  let k := w.cores.getD c PwrCore.reset
  let a := k.act
  let n := a.i2 + a.i4 + a.i1
  let d := max 1 k.div
  let ei := if n = 0 then 900 * pJ * s.intervalPll / d else w.issueE a * s.intervalPll / (n * d)
  ⟨c, p, w.weight 7 * s.intervalPll / d, ei⟩

/-- The limit a budget buys. -/
def CoreFig.limit (x : CoreFig) (b : Nat) : Nat :=
  if x.fe = 0 then 64 else max 1 (min 64 (64 * (b - x.pb) / x.fe))

/-- Water filling: what is left goes to the partitions by their shares, none above its need. -/
def fillShares (share need : List Nat) : Nat → Nat → List Nat → List Nat
  | 0, _, got => got
  | n + 1, rest, got =>
    let open_ := (List.range 8).filter (fun p => got.getD p 0 < need.getD p 0 && 0 < share.getD p 0)
    let tot := sumNat (open_.map (fun p => share.getD p 0))
    if tot = 0 ∨ rest = 0 then got
    else
      let add := fun p => min (need.getD p 0 - got.getD p 0) (rest * share.getD p 0 / tot)
      let full := open_.filter (fun p => need.getD p 0 - got.getD p 0 ≤ rest * share.getD p 0 / tot)
      if full.isEmpty then
        (List.range 8).map (fun p => if open_.contains p then got.getD p 0 + add p else got.getD p 0)
      else
        let got' := (List.range 8).map (fun p => if full.contains p then need.getD p 0 else got.getD p 0)
        let used := sumNat (full.map (fun p => need.getD p 0 - got.getD p 0))
        fillShares share need n (rest - used) got'

/-- A partition's steer slot: 0 a, 1 b. -/
def PowerUnit.steerSlot (p : PowerUnit) (part : Nat) : Option Nat :=
  let v := p.steer.toNat
  if v.testBit 3 ∧ fld 2 0 v = part then some 0
  else if v.testBit 7 ∧ fld 6 4 v = part then some 1
  else none

/-- A frame-critical job of the partition runs. -/
def State.critRuns (s : State) (p : Nat) : Bool :=
  s.grid.jobs.any (fun j => j.part = p && j.critical && j.holds && j.phase ≠ .parked)

/-- Base limits of the held cores after steps 1 to 3 of R423, and whether floors broke (R424). -/
def State.baseLimits (s : State) (cs : List CoreFig) (bc : Nat) : List (CoreFig × Nat) × Bool :=
  let floor := fun (x : CoreFig) => if s.critRuns x.part then (s.part x.part).lf else 1
  let grant := fun (x : CoreFig) =>
    let k := s.pwr.cores.getD x.core PwrCore.reset
    if k.granted && (s.pwr.steerSlot x.part).isSome then max (floor x) k.grant else floor x
  let cost := fun (l : List (CoreFig × Nat)) => sumNat (l.map (fun e => e.1.at e.2))
  let a := cs.map (fun x => (x, grant x))
  if cost a ≤ bc then (a, false)
  else
    let b := cs.map (fun x => (x, floor x))
    if cost b ≤ bc then (b, false)
    else
      let with_ := fun n => cs.map (fun x => (x, if s.critRuns x.part then min n (floor x) else 1))
      let n := ((List.range 64).reverse.map (· + 1)).find? (fun n => cost (with_ n) ≤ bc)
      (with_ (n.getD 1), true)

/-- The limits the compute budget gives, by core, and each partition's budget (R423). -/
def State.divide (s : State) (bc : Nat) : List (Nat × Nat) × List Nat × Bool :=
  let cs := (List.range 32).filterMap (fun c => (s.heldBy c).map (fun j => s.coreFig c j.part))
  let base := s.baseLimits cs bc
  let used := sumNat (base.1.map (fun e => e.1.at e.2))
  let need := (List.range 8).map (fun p =>
    sumNat ((base.1.filter (fun e => e.1.part = p)).map (fun e => e.1.at 64 - e.1.at e.2)))
  let extra := fillShares s.pwr.active need 9 (bc - used) (List.replicate 8 0)
  let bud := (List.range 8).map (fun p =>
    sumNat ((base.1.filter (fun e => e.1.part = p)).map (fun e => e.1.at e.2)) + extra.getD p 0)
  let lims := base.1.map (fun e =>
    let n := (base.1.filter (fun x => x.1.part = e.1.part)).length
    (e.1.core, max e.2 (e.1.limit (bud.getD e.1.part 0 / max 1 n))))
  (lims, bud, base.2)

/-- The slew of R424: at most 16 per interval, but for a fall that the ceiling term asks for. -/
def slew (old new : Nat) (free : Bool) : Nat :=
  if old < new then min new (old + 16)
  else if free then new
  else max new (old - 16)

/-! ## The close of an interval -/

/-- Energy attributed to the jobs that hold cores, scaled by k (R432, R433). (DEDUCED, log 40) -/
def State.attribute (s : State) (acts : List Activity) : State × Nat :=
  let p := s.pwr
  let scale := fun e => e * p.k / 4096
  let of := fun c => scale (p.coreE (acts.getD c .zero) + p.memE (acts.getD c .zero) + p.lnkE (acts.getD c .zero) + p.leak 15 p.temp)
  let jobs := s.grid.jobs.map (fun j =>
    if j.holds && !(j.phase = .record && j.opened ≠ 0) then
      { j with energy := j.energy + sumNat (j.coreList.map of), measured := j.measured && p.measuring }
    else j)
  let tot := sumNat (s.grid.jobs.map (fun j =>
    if j.holds && !(j.phase = .record && j.opened ≠ 0) then sumNat (j.coreList.map of) else 0)) + p.openShare
  let jobs := jobs.map (fun j => { j with opened := 0 })
  (s.modGrid (fun g => { g with jobs := jobs }), tot)

/-- POWER_INTERVAL_CLOSE: the interval's activity by core, what belongs to no job, and the Intake's lane-busy F-cycles.
This is control core 2's duty. -/
def State.intervalClose (s : State) (acts : List Activity) (other : Activity) (itk : Nat) : State :=
  if s.tick < 200 * (s.pwr.closed + 1) || !s.dutyOk 2 then s
  else
    let p := s.pwr
    let loose := p.memE other + p.lnkE other + p.coreE other + itk * p.weight 13
    let cores := sumNat ((List.range 32).map (fun c =>
      let a := acts.getD c .zero
      p.coreE a + p.memE a + p.lnkE a))
    let reck := cores + loose + s.staticE
    let e := reck * p.k / 4096
    let block := if p.measuring then p.msMeasured else e
    let held := ((List.range 32).filter (fun c => (s.heldBy c).isSome)).length
    let idle := (p.watts 14 + p.leak 16 p.temp + (s.powered - held) * p.leak 15 p.temp) * p.k / 4096
    let at_ := s.attribute acts
    let s := at_.1
    let link := sumNat (acts.map p.lnkE) + p.lnkE other
    let mem := sumNat (acts.map p.memE) + p.memE other
    let s := s.modPwr (fun p => { p with
      closed := p.closed + 1
      cap := p.capNext
      hist := (e :: p.hist).take 5000
      binNow := if (p.closed + 1) % 500 = 0 then 0 else p.binNow + e
      bins := if (p.closed + 1) % 500 = 0 then ((p.binNow + e) :: p.bins).take 1000 else p.bins
      msReckoned := p.msReckoned + reck
      msMeasured := 0
      eTotal := p.eTotal + block
      eJobs := p.eJobs + at_.2
      eIdle := p.eIdle + idle
      eUnattr := p.eUnattr + ((block : Int) - at_.2 - idle)
      openShare := 0
      measuredNow := p.measuring
      intHot := none
      soft := decide (p.thmSoft < p.temp)
      cores := (List.range 32).map (fun c =>
        let k := p.cores.getD c PwrCore.reset
        let a := acts.getD c .zero
        { k with act := a, dens := if a.clk = 0 then 0 else 64 * (a.i2 + a.i4 + a.i1) / a.clk }) })
    let t := s.pwr.nextTarget
    let full := sumNat ((List.range 32).filterMap (fun c => (s.heldBy c).map (fun j => (s.coreFig c j.part).at 64)))
    let got := giveClasses (classOrder (fld 3 1 s.pwr.ctrl.toNat)) [link, mem, full] (t.1 - s.staticE)
    let bc0 := got.getD 2 0
    let bc :=
      if p.temp ≤ p.thmSoft then bc0
      else if 1840 ≤ p.temp then 0
      else bc0 * (1840 - p.temp).toNat / (1840 - p.thmSoft).toNat
    let d := s.divide bc
    let s := d.1.foldl (fun s x => s.modCore x.1 (fun q => { q with arr := { q.arr with
      limit := slew q.arr.limit x.2 (t.2 = 0) } })) s
    let s := { s with cores := s.cores.map (fun (q : Core) => { q with arr := { q.arr with
      ramp := q.arr.ramp.map (fun (r : Nat × Nat) => (r.1, r.2 - cdiv r.1 10)) } }) }
    let lims := d.1.map (fun x => (s.core x.1).arr.limit)
    let s := s.modPwr (fun p => { p with
      target := t.1
      window := t.2
      lnkShort := decide (got.getD 0 0 < link)
      memShort := decide (got.getD 1 0 < mem)
      limHist := ((sumNat lims, lims.length) :: p.limHist).take 5000
      floorBreak := if d.2.2 then sat32 p.floorBreak 1 else p.floorBreak
      budgets := (List.range 8).map (fun q =>
        (d.2.1.getD q 0 / (20000 * pJ),
          ((d.1.filter (fun x => (s.heldBy x.1).any (fun j => j.part = q))).map (fun x => (s.core x.1).arr.limit)).foldl max 0)) })
    if d.2.2 then s.pwrEvent 0 else s

/-- ONE_MS_BOUNDARY: k, the ceilings, the lowest slack (R413, R418, R421). -/
def State.oneMs (s : State) : State :=
  if s.tick < 100000 * (s.pwr.msClosed + 1) || !s.dutyOk 2 then s
  else
    s.modPwr (fun p =>
      let step := fun (short : Bool) c => if short then max 4 (c - 1) else min 16 (c + 1)
      let k := if !p.measuring then 4096
        else if p.msReckoned = 0 then p.k
        else max 3072 (min 5120 (4096 * p.lastSampleE / p.msReckoned))
      { p with
        msClosed := p.msClosed + 1, k := k, msReckoned := 0, lastSampleE := 0
        memCeil := step p.memShort p.memCeil, lnkCeil := step p.lnkShort p.lnkCeil
        slackMin := p.slackNow, slackNow := 255 })

/-! ## Measured power (R418) -/

/-- CURRENT_SAMPLE: 2 mA units times the rail's requested voltage, for 1 µs. (DESIGN CHOICE, log 15) -/
def State.currentSample (s : State) (rail data : Nat) : State :=
  let mv := if rail = 0 then s.pwr.vNow else railMv rail
  let e := 2 * data * mv * pJ
  s.modPwr (fun p =>
    let back := p.resumeAt.any (fun t => t ≤ s.tick)
    { p with
      msMeasured := p.msMeasured + e, lastSampleE := p.lastSampleE + e, lastSample := s.tick
      tmLost := p.tmLost && !back
      resumeAt := if !p.tmLost || back then none else some (p.resumeAt.getD (s.tick + 100000)) })

/-- TELEMETRY_LOST: 100 µs without a sample. -/
def State.telemetryLost (s : State) : State :=
  if !s.pwr.ctrl.getLsbD 0 || s.tick < s.pwr.lastSample + 10000 then s
  else
    let first := !s.pwr.tmLost
    let s := s.modPwr (fun p => { p with tmLost := true, k := 4096, resumeAt := none })
    if first then s.pwrEvent 1 else s

/-! ## Operating points and margins (R411 to R414, R429) -/

/-- The voltage the point and the trim ask for. -/
def State.wantMv (s : State) : Nat :=
  (if s.pwr.economy then s.pwr.vEco else s.pwr.vNom) + (if 2 ≤ s.cfg.index then 5 * s.pwr.trim else 0)

/-- A core's divider at economy. -/
def State.ecoDiv (s : State) (c : Nat) : Nat :=
  if 2 ≤ s.cfg.index then 11 else s.pwr.eco.getD (s.grid.remap.getD c ⟨0, 0, 0⟩).phys 11

/-- The divider this instance proposes for a job (R429). -/
def State.propose (s : State) (j : Job) (eco : Bool) : Nat :=
  if eco then (j.coreList.map s.ecoDiv).foldl max 8 else 8

/-- Dividers of the held cores set for a point. Those of a multi-instance job change at the tick of a proposal. -/
def State.setDividers (s : State) (eco : Bool) : State :=
  let s := s.modPwr (fun p => { p with cores := (List.range 32).map (fun c =>
    let k := p.cores.getD c PwrCore.reset
    match s.heldBy c with
    | some j => if j.multi.isSome then k else { k with div := if eco then s.ecoDiv c else 8 }
    | none => { k with div := if eco then s.ecoDiv c else 8 }) })
  (s.grid.jobs.filter (fun j => j.holds && j.multi.isSome)).foldl (fun s j =>
    let d := s.propose j eco
    let cj := j.chainJob
    let t := s.tick + 1000
    let s := s.modPwr (fun p => { p with props := p.props ++ [(⟨cj, s.node, d, t, false⟩ : DivProp)] })
    match j.multi with
    | some m => (s.otherNodes m).foldl (fun s n => s.sendCell n j.part (.divider cj d t)) s
    | none => s) s

def State.anyCritical (s : State) : Bool := (List.range 8).any s.critRuns

/-- A frame-critical job waits for nominal (R414). -/
def State.critWaits (s : State) : Bool :=
  s.grid.jobs.any (fun j => j.critical && (j.phase = .loading || j.phase = .running || j.phase = .restart))

/-- Limits averaged over the last 10 ms of held cores: sum and count, once 10 ms have been seen. -/
def PowerUnit.limAvg (p : PowerUnit) : Option (Nat × Nat) :=
  if p.limHist.length < 5000 then none
  else some (sumNat (p.limHist.map Prod.fst), sumNat (p.limHist.map Prod.snd))

/-- OPERATING_POINT_CHANGE: a change starts when its conditions hold. -/
def State.pointChange (s : State) : State :=
  let p := s.pwr
  let rested := p.lastChange.all (fun t => t + 1000000 ≤ s.tick)
  if p.change ≠ .none || !s.dutyOk 2 then s
  else if !p.economy then
    if p.ctrl.getLsbD 4 && rested && !s.anyCritical && !s.critWaits &&
        p.limAvg.any (fun a => 0 < a.2 && a.1 < 40 * a.2) then
      let s := s.setDividers true
      s.modPwr (fun p => { p with
        change := .toEconomy, lastChange := some s.tick
        vReq := some (p.vEco + (if 2 ≤ s.cfg.index then 5 * p.trim else 0)) })
    else s
  else if s.critWaits || s.anyCritical || (rested && (!p.ctrl.getLsbD 4 || p.limAvg.any (fun a => 56 * a.2 < a.1))) then
    s.modPwr (fun p => { p with
      change := .toNominal, lastChange := some s.tick
      vReq := some (p.vNom + (if 2 ≤ s.cfg.index then 5 * p.trim else 0)) })
  else s

/-- PW_VREQ_ACK: the voltage is reached; to speed up, the dividers change now. A trim that moved meanwhile asks again. -/
def State.vreqAck (s : State) : State :=
  match s.pwr.vReq with
  | none => s
  | some mv =>
    let ch := s.pwr.change
    let s := s.modPwr (fun p => { p with
      vNow := mv, vReq := none, change := .none
      economy := match ch with
        | .toEconomy => true
        | .toNominal => false
        | _ => p.economy })
    let s := if ch = .toNominal then s.setDividers false else s
    if s.wantMv ≠ mv then s.modPwr (fun p => { p with vReq := some s.wantMv, change := .trim }) else s

/-- A trim step, and its voltage request when none is pending. -/
def State.trimTo (s : State) (t : Nat) : State :=
  let s := s.modPwr (fun p => { p with trim := t })
  if s.pwr.vReq.isNone && s.wantMv ≠ s.pwr.vNow then
    s.modPwr (fun p => { p with vReq := some s.wantMv, change := .trim })
  else s

/-- MARGIN_REPORT: a core's slack code (R413). -/
def State.marginReport (s : State) (c code : Nat) : State :=
  if s.cfg.index < 2 ∨ s.cfg.cores ≤ c then s
  else
    let s := s.modPwr (fun p => { p with
      cores := modAt p.cores c (fun k => { k with slack := code })
      slackNow := min p.slackNow code
      goodSince := if code ≤ 96 then none else some (p.goodSince.getD s.tick) })
    if code < 32 ∧ (s.heldBy c).isSome then s.trimTo (min 24 (s.pwr.trim + 1))
    else
      let all := (s.pwr.cores.take s.cfg.cores).all (fun k => 96 < k.slack)
      if all && s.pwr.goodSince.any (fun t => t + 100000000 ≤ s.tick) && s.pwr.trim ≠ 0 then
        (s.trimTo (s.pwr.trim - 1)).modPwr (fun p => { p with goodSince := some s.tick })
      else s

/-- DIVIDER_APPLY: proposals whose effective tick has come set the job's common divider, the largest. -/
def State.dividerApply (s : State) (cj : Nat) : State :=
  let due := fun (x : DivProp) => x.cjob = cj && !x.done && x.tick ≤ s.tick
  if !s.pwr.props.any due then s
  else
    let props := s.pwr.props.map (fun x => if due x then { x with done := true } else x)
    let live := props.filter (fun x => x.cjob = cj && x.done)
    let latest := live.filter (fun x => !live.any (fun y => y.node = x.node && (x.tick < y.tick || (x.tick = y.tick && x.div < y.div))))
    let d := (latest.map DivProp.div).foldl max 8
    let keep := props.filter (fun x => x.cjob ≠ cj || !x.done || latest.contains x)
    let cs := (s.grid.jobs.filter (fun j => j.multi.isSome && j.chainJob = cj && j.holds)).flatMap Job.coreList
    s.modPwr (fun p => { p with
      props := keep, cores := (List.range 32).map (fun c =>
        let k := p.cores.getD c PwrCore.reset
        if cs.contains c then { k with div := d } else k) })

/-! ## Steered phases (R425, R426) -/

def PowerUnit.table (p : PowerUnit) (slot : Nat) : List PhaseEntry := if slot = 0 then p.phaseA else p.phaseB

def PowerUnit.setTable (p : PowerUnit) (slot : Nat) (t : List PhaseEntry) : PowerUnit :=
  if slot = 0 then { p with phaseA := t.take 64 } else { p with phaseB := t.take 64 }

/-- The phase instance on a core ends: the entry of its marker takes the observation. The mean power and issue energy
observed, which the model does not count, are free values. -/
def State.phaseEnd (s : State) (c : Nat) : State :=
  let k := s.pwr.cores.getD c PwrCore.reset
  match s.pwr.steerSlot (s.partOf c) with
  | none => s.modPwr (fun p => { p with cores := modAt p.cores c (fun k => { k with marker := 0, granted := false }) })
  | some slot =>
    let clear := fun (s : State) =>
      s.modPwr (fun p => { p with cores := modAt p.cores c (fun k => { k with marker := 0, granted := false }) })
    if k.marker = 0 then clear s
    else
      let a := s.takeFree
      let b := a.2.takeFree
      let seen := freeNat a.1
      let ei := freeNat b.1
      let s := b.2
      let q := s.core c
      let slow := q.seq.cyc - k.cyc0 < 8 * (q.arr.cnt.throttle.toNat - k.thr0)
      let t := s.pwr.table slot
      let e := match t.find? (fun e => e.marker = k.marker) with
        | none => (⟨k.marker, seen, ei, 1⟩ : PhaseEntry)
        | some e =>
          let need := if slow then e.need + e.need / 8 else ((e.need : Int) + ((seen : Int) - e.need) / 4).toNat
          ⟨k.marker, need, ei, e.obs + 1⟩
      clear (s.modPwr (fun p => p.setTable slot (e :: t.filter (fun x => x.marker ≠ k.marker))))

/-- A csrw of CSR 0x030 on a core: the phase instance ends, the marker's begins, and a known one is granted its limit. -/
def State.phaseMark (s : State) (c : Nat) (m : Half) : State :=
  let s := s.phaseEnd c
  let q := s.core c
  let s := s.modPwr (fun p => { p with cores := modAt p.cores c (fun k =>
    { k with marker := m, cyc0 := q.seq.cyc, thr0 := q.arr.cnt.throttle.toNat, granted := false }) })
  match s.pwr.steerSlot (s.partOf c) with
  | none => s
  | some slot =>
    match (s.pwr.table slot).find? (fun e => e.marker = m && m ≠ 0) with
    | none => s
    | some e =>
      let t := s.pwr.table slot
      let s := s.modPwr (fun p => p.setTable slot (e :: t.filter (fun x => x.marker ≠ m)))
      if e.obs < 2 then s
      else
        let x := s.coreFig c (s.partOf c)
        let d := max 1 (s.pwr.cores.getD c PwrCore.reset).div
        let fe := e.ei * s.intervalPll / d
        let need := e.need * 2000 * pJ
        let l := if fe = 0 then 64 else max 1 (min 64 (cdiv (64 * (need - x.pb)) fe))
        let s := s.modPwr (fun p => { p with cores := modAt p.cores c (fun k => { k with granted := true, grant := l }) })
        s.modCore c (fun q => { q with arr := { q.arr with limit := l } })

/-! ## Barrier ramps (R427, R428) -/

/-- A core that has come to wait at a chain barrier of a multi-instance job starts its ramp; one that no longer waits
ends it. -/
def State.rampCheck (s : State) (c : Nat) : State :=
  let q := s.core c
  let waits := q.tasks.toList.any (fun k => match k.wait with
    | .barrier b => 192 ≤ b
    | _ => false) && (s.jobOf c).any (fun j => j.multi.isSome) && q.arr.stkeep.testBit 0
  if waits && q.arr.ramp.isNone then
    let d := (s.pwr.cores.getD c PwrCore.reset).dens
    s.modCore c (fun q => { q with arr := { q.arr with ramp := some (d, d), gapBudget := 0 } })
  else if !waits && q.arr.ramp.isSome then s.modCore c (fun q => { q with arr := { q.arr with ramp := none } })
  else s

/-! ## Heat (R436 to R439) -/

/-- Every core throttled, or free again with limits at most 16. -/
def State.setTrip (s : State) (on : Bool) : State :=
  { s with cores := s.cores.map (fun (q : Core) =>
    { q with arr := { q.arr with trip := on, limit := if on then q.arr.limit else min 16 q.arr.limit } }) }

/-- A reading of a sensor: the hottest one may trip or release the trip. `tick` is when the sensor was last heard. A
read of THM_MAX in the same F-cycle returns the value before it (R15). -/
def State.reading (s : State) (sensor : Nat) (t : Int) (tick : Nat) : State :=
  let temps := (sensor, t, tick) :: s.pwr.temps.filter (fun e => e.1 ≠ sensor)
  let hot := temps.foldl (fun (b : Nat × Int × Nat) e => if b.2.1 < e.2.1 ∨ (b.2.1 = e.2.1 ∧ e.1 < b.1) then e else b)
    (sensor, t, tick)
  let s := s.modPwr (fun p => { p with
    temps := temps, hot := hot.2.1, hotSensor := hot.1, thmMax := max p.thmMax t
    thmOld := some (p.thmOld.getD p.thmMax), thmNow := if p.thmOld.isSome then max p.thmNow t else t
    intHot := some (match p.intHot with
      | some x => max x hot.2.1
      | none => hot.2.1) })
  if 1888 ≤ t ∧ !s.pwr.trip then
    let s := s.modPwr (fun p => { p with trip := true, ack := false, tripCnt := sat32 p.tripCnt 1 })
    (s.setTrip true).pwrEvent 2
  else if s.pwr.trip && s.pwr.ack && hot.2.1 < 1680 then
    ((s.modPwr (fun p => { p with trip := false, ack := false })).setTrip false).gmsi
  else s

/-- SENSOR_SILENT: a sensor unheard for 1 ms counts as reading 118 °C. -/
def State.sensorSilent (s : State) (sensor : Nat) : State :=
  match s.pwr.temps.find? (fun e => e.1 = sensor) with
  | some e => if e.2.2 + 100000 ≤ s.tick then s.reading sensor 1888 e.2.2 else s
  | none => s

/-- THM_TRIP_ACK. -/
def State.tripAck (s : State) : State := if s.pwr.trip then s.modPwr (fun p => { p with ack := true }) else s

/-! ## Registers with behaviour (R419, R424, R425) -/

/-- PWR_CAP: at most PWR_CAP_MAX, from the next interval. -/
def State.capWrite (s : State) (v : Nat) : State := s.modPwr (fun p => { p with capNext := min (v % 65536) p.capMax })

/-- PWR_SHARE_COMMIT. -/
def State.pwrCommit (s : State) : State :=
  if sumNat s.pwr.staged = 1024 then s.modPwr (fun p => { p with active := p.staged }) else s.pwrEvent 3

/-- PWR_STEER: the same partition in both slots keeps slot a only. -/
def State.steerWrite (s : State) (v : Nat) : State :=
  let v := v % 256
  let v := if v.testBit 3 ∧ v.testBit 7 ∧ fld 2 0 v = fld 6 4 v then v - 128 else v
  s.modPwr (fun p => { p with steer := BitVec.ofNat 32 v })

/-- An energy register in nJ: total, jobs, idle, unattributed; the last balances the others (R433). -/
def PowerUnit.energyNj (p : PowerUnit) (i : Nat) : Nat :=
  let nj := fun (g : Nat) => g / (1000 * pJ)
  match i with
  | 0 => nj p.eTotal
  | 1 => nj p.eJobs
  | 2 => nj p.eIdle
  | _ => ((nj p.eTotal : Int) - nj p.eJobs - nj p.eIdle).toNat

/-- ENERGY_LO_READ: the low word is returned, the high one latched. -/
def State.energyLo (s : State) (i : Nat) : State :=
  let v := s.pwr.energyNj i
  { s.modPwr (fun p => { p with eLatch := setAt p.eLatch i (BitVec.ofNat 32 (v / 2 ^ 32)) }) with
    reads := s.reads ++ [BitVec.ofNat 64 (v % 2 ^ 32)] }

/-! ## The Logbook (R435) -/

def PowerUnit.logK (p : PowerUnit) : Nat := fld 3 0 p.logCfg.toNat
def PowerUnit.logOn (p : PowerUnit) : Bool := p.logCfg.getLsbD 4 && 4 ≤ p.logK && p.logK ≤ 12

/-- The Logbook record of an acknowledged completion record, of whatever kind. -/
def State.logbook (s : State) (r : Record) : State :=
  let p := s.pwr
  if !p.logOn then s
  else if ringFull p.logK p.logHead p.logTail then s.modPwr (fun p => { p with logDrop := sat32 p.logDrop 1 })
  else
    let k := p.logK
    let base := fld 31 5 p.logLo.toNat * 32 + fld 15 0 p.logHi.toNat * 2 ^ 32
    let head := b2n (!p.logTail.testBit k) + 2 * r.part + 16 * r.ring + 128 * r.kind + 512 * (leAt r.bytes 0 1 / 64 % 2)
    let bs := toLe 4 head ++ slice r.bytes 8 4 ++ slice r.bytes 0x10 8 ++
      toLe 8 (r.energy / (1000 * pJ)) ++ slice r.bytes 0x30 8
    let a := base + 32 * (p.logTail % 2 ^ k)
    (s.modPwr (fun p => { p with logTail := (p.logTail + 1) % 2 ^ (k + 1) })).postWrite .logbook a bs none

end Sys2Proof.Machine
end

