-- ==== Sys2Proof/Machine/LinkUnit.lean ====
section
/-! DEFINITION. The Ruryn links: training, keying, frames and replay, routes, time, remote accesses, bound queues, chain
barriers, losses and restarts (section 16, R478 to R480, R321, R322). -/

namespace Sys2Proof.Machine

def State.modLnk (s : State) (f : Links → Links) : State := { s with lnk := f s.lnk }
def State.sub (s : State) (l : Nat) : SubLink := s.lnk.subs.getD l SubLink.reset
def State.modSub (s : State) (l : Nat) (f : SubLink → SubLink) : State :=
  s.modLnk (fun k => { k with subs := modAt k.subs l f })
def State.modPort (s : State) (l : Nat) (f : LinkPort → LinkPort) : State :=
  s.modLnk (fun k => { k with ports := modAt k.ports (l / 2) f })
/-- Events of a link's port: 0 down, 1 retrained, 2 dropped. -/
def State.portEvent (s : State) (l : Nat) (bits : Nat) : State :=
  (s.modPort l (fun q => { q with event := q.event ||| BitVec.ofNat 32 bits })).mark 0xB (0x10C + 0x40 * (l / 2)) bits
def State.lport (s : State) (l : Nat) : LinkPort := s.lnk.ports.getD (l / 2) LinkPort.reset

def LinkPort.enabled (q : LinkPort) : Bool := q.cfg.getLsbD 0
def LinkPort.split (q : LinkPort) : Bool := q.cfg.getLsbD 1

/-- Sub-link l exists: its port does, and sub-link b only when the port is split. -/
def State.subOn (s : State) (l : Nat) : Bool :=
  l / 2 < s.cfg.links && (s.lport l).enabled && (l % 2 = 0 || (s.lport l).split) && s.ready && s.grid.watch ≠ .watch

/-- A sub-link's dateline bit, its own end's or its peer's (R494). (DEDUCED, log 44) -/
def State.dateline (s : State) (l : Nat) : Bool := (s.lport l).cfg.getLsbD (3 + l % 2) || (s.sub l).peerDate

/-- The route code of a node. -/
def Links.code (k : Links) (n : Nat) : Nat := fld (4 * (n % 8) + 3) (4 * (n % 8)) (k.routes.getD (n / 8) 0#32).toNat

/-- A sub-link is up, or retrains, which takes no link down (R493): frames for it wait. -/
def SubLink.carries (x : SubLink) : Bool := x.st.isUp || x.back

/-- The sub-link a node's frames leave by, when it is up and no dateline (R494; log 44). -/
def State.egress (s : State) (n : Nat) : Option Nat :=
  let c := s.lnk.code n
  if 4 ≤ c ∧ c ≤ 7 ∧ (s.sub (c - 4)).carries ∧ !s.dateline (c - 4) then some (c - 4) else none

/-- A node is this instance. -/
def State.isHere (s : State) (n : Nat) : Bool := n = s.node || s.lnk.code n = 1

def State.reachable (s : State) (n : Nat) : Bool := s.isHere n || (s.egress n).isSome

/-! ## Losses (R500) -/

/-- A node is a member of a job's instances. -/
def memberOf (m : Nat × Nat) (n : Nat) : Bool := (n + 256 - m.1) % 256 < m.2

/-- A job ends with 0x1001, without replay: its cores stop issuing, or its record is composed at once when none runs.
(DEDUCED, log 55) -/
def State.chainLost (s : State) (j : Job) : State :=
  let set := fun (s : State) (f : Job → Job) => s.modGrid (fun g => { g with jobs := g.jobs.map (fun k => if k = j then f k else k) })
  match j.phase with
  | .running =>
    let s := set s (fun k => { k with status := if k.status = 0 then 0x1001 else k.status })
    j.coreList.foldl (fun s c => s.modCore c (fun q => { q with seq := { q.seq with halted := true } })) s
  | .loading => s.endJob j 0x1001
  | .restart => s.endJob j 0x1001
  | _ => s

/-- b carries an earlier frame of the write that a ends. -/
def InAcc.before (a b : InAcc) : Bool := a.write && b.mid && b.node = a.node && b.tag = a.tag && b.id < a.id

/-- An inbound access is refused: an error cell, but for an earlier frame of a write, whose last frame answers. -/
def State.inRefuse (s : State) (a : InAcc) : State :=
  if a.mid then
    s.modLnk (fun k => { k with inbound := k.inbound.map (fun x => if x.id = a.id then { x with issued := true, bad := true } else x) })
  else
    (s.modLnk (fun k => { k with
      inbound := k.inbound.filter (fun x => x.id ≠ a.id && !(x.bad && a.before x)) })).sendCell a.node a.part (.error a.tag)

/-- A remote access to an unreachable node: its job ends (R497), or its own requester is told. -/
def State.remoteLost (s : State) (a : RemAcc) : State :=
  let job := fun (s : State) (c : Nat) => match s.jobOf c with
    | some j => s.chainLost j
    | none => s
  match a.owner with
  | .stream c _ _ => job s c
  | .write c _ _ => job s c
  | .swapOut c _ _ => job s c
  | .swapIn c _ => job s c
  | .image _ _ c => job s c
  | .table p r => s.readRefused p r 0x1001
  | .header p r _ => s.readRefused p r 0x1001
  | .inbound _ _ => match s.lnk.inbound.find? (fun i => .inbound 0 i.id = a.owner) with
    | some i => s.inRefuse i
    | none => s
  | .sampleData p l => match s.lane l with
    | some x => if x.sess = p then s.setLane l (some { x with refused := some 0x1001 }) else s
    | none => s
  | .intakeWrite p b => s.modSes p (fun z => z.modBatch b (fun b => { b with status := 0x0A08 }))
  | .frameWrite n no => s.modFst n (fun f => f.modFrame no (fun y => { y with status := 0x0B05 }))
  | _ => s

/-- Nodes are lost: multi-instance jobs that count one end, remote accesses to them fail, the other links carry a
notice of those not noticed before. `from_` is the link a notice came in on. (DEDUCED, log 55) -/
def State.nodesLost (s : State) (nodes : List Nat) (from_ : Option Nat) : State :=
  let new := nodes.filter (fun n => !s.lnk.noticed.contains n)
  let s := (s.grid.jobs.filter (fun j => j.multi.any (fun m => nodes.any (memberOf m)))).foldl State.chainLost s
  let gone := s.fab.rem.filter (fun a => nodes.contains a.node && !a.done)
  let s := gone.foldl State.remoteLost s
  let s := { s with fab := { s.fab with rem := s.fab.rem.filter (fun a => !(nodes.contains a.node && !a.done)) } }
  if new.isEmpty then s
  else
    let outs := (List.range 4).filter (fun l => (s.sub l).carries && from_ ≠ some l)
    let s := s.modLnk (fun k => { k with noticed := k.noticed ++ new })
    outs.foldl (fun s l => s.sendCell (s.sub l).peer 0 (.down new)) s

/-- Nodes a sub-link is the way to. -/
def Links.behind (k : Links) (l : Nat) : List Nat := (List.range 256).filter (fun n => k.code n = 4 + l)

/-- A sub-link goes down with a code, or disabled with none: training starts again after 1 ms (R489, R493), its nodes are lost. -/
def State.linkDown (s : State) (l code : Nat) : State :=
  let up := (s.sub l).carries
  let s := s.modSub l (fun x => { SubLink.reset with epoch := x.epoch, retryAt := s.tick + 100000, peerRefused := x.peerRefused })
  let s := s.modPort l (fun q => { q with
    event := (if code = 0 then q.event else q.event &&& 0xFFFF#32) ||| BitVec.ofNat 32 (code * 65536) })
  let s := (s.portEvent l 1).gmsi
  if up then s.nodesLost (s.lnk.behind l) none else s

/-- A link has come up: its nodes can be lost anew. -/
def State.linkUp (s : State) (l : Nat) (st : LinkState) : State :=
  let back := s.lnk.behind l
  (s.modSub l (fun x => { x with st := st, back := false })).modLnk (fun k => { k with
    noticed := k.noticed.filter (fun n => !back.contains n) })

/-! ## Training (R489, R529) -/

/-- LANE_LOCK. -/
def State.laneLock (s : State) (l : Nat) : State :=
  if s.subOn l && (s.sub l).st = .lock then s.modSub l (fun x => { x with st := .training }) else s

/-- TRAINING_RETRY. -/
def State.trainRetry (s : State) (l : Nat) : State :=
  if s.subOn l && (s.sub l).st = .down && (s.sub l).retryAt ≤ s.tick then s.modSub l (fun x => { x with st := .lock }) else s

/-- Width and half a link trains at: ×8 when every lane passes, ×4 on a passing half. -/
def trainWidth (offer : Nat) (pass : Nat) : Option (Nat × Nat) :=
  let lo := pass % 16 = 15
  let hi := pass / 16 % 16 = 15
  if offer = 8 then (if lo && hi then some (8, 0) else if lo then some (4, 0) else if hi then some (4, 1) else none)
  else if lo then some (4, 0) else none

/-- This end's time source is through sub-link l (R496). (DEDUCED, log 54) -/
def State.timeFrom (s : State) (l : Nat) : Bool :=
  let m := fld 15 8 s.lnk.node.toNat
  m ≠ s.node && s.lnk.code m = 4 + l

/-- TRAINING_SET: the peer's node, version (major, minor), rate, width offered, the lanes that pass, its dateline bit. A
retrain keeps epoch and counters; a first training goes on to keying with a fresh ephemeral key. -/
def State.trainingSet (s : State) (l node major minor : Nat) (slow : Bool) (width pass : Nat) (date : Bool) : State :=
  let x := s.sub l
  if !s.subOn l || x.st ≠ .training then s
  else
    let q := s.lport l
    let m := min 4 minor
    let offer := if q.split || width ≤ 4 then 4 else 8
    let offer := if x.back then x.width else offer
    match trainWidth offer (if x.back ∧ x.width = 4 then pass >>> (4 * x.half) else pass) with
    | none => s.linkDown l 0x1002
    | some (w, h) =>
      if major ≠ 1 then s.linkDown l 0x1003
      else if node = s.node then s.linkDown l 0x1004
      else if l % 2 = 1 ∧ m ≤ 2 then s.modSub l (fun _ => { SubLink.reset with epoch := x.epoch, retryAt := s.tick + 100000 })
      else
        let half := if x.back then x.half else h
        let s := s.modSub l (fun x => { x with
          peer := node, minor := m, width := w, half := half, rate := q.cfg.getLsbD 2 || slow, peerDate := date })
        if x.back then
          let s := (s.modSub l (fun x => { x with resend := x.replay.head?.map SentFrame.counter, skipping := false })).linkUp l
            (if w = 4 ∧ !q.split then .upNarrow else .up)
          (s.portEvent l 2).gmsi
        else
          let f := s.takeFree
          let s := { f.2 with alm := { f.2.alm with agreed := setAt f.2.alm.agreed 4 (0x100 + m) } }
          s.modSub l (fun x => { x with st := .keying, eph := some (scalarOf (freeNat f.1)) })

/-- A link retrains at ×4 on a passing half; a ×4 link goes down (R493). -/
def State.laneFails (s : State) (l : Nat) (failed : Nat) : State :=
  let x := s.sub l
  if failed = 0 || !x.st.isUp then s
  else
    match trainWidth 8 (0xFF - failed % 256) with
    | some (_, h) => if x.width = 8 then s.modSub l (fun x => { x with st := .training, back := true, width := 4, half := h })
                     else s.linkDown l 0x1005
    | none => s.linkDown l 0x1005

/-- LANE_LOCK_LOSS: as if the lane had failed its sounding. -/
def State.laneLoss (s : State) (l lane : Nat) : State := s.laneFails l (2 ^ (lane % 8))

/-- LINK_SOUNDING_COMPLETE: the lanes that failed their patterns are lasting; otherwise the fault is transient, until its
unit's count reaches the limit (R446, R493). -/
def State.linkSounded (s : State) (l : Nat) (failed : Nat) : State :=
  if !(s.sub l).sounding then s
  else
    let s := s.modSub l (fun x => { x with sounding := false })
    let lane := ((List.range 8).find? (fun i => failed.testBit i)).getD 0
    let u : UnitId := ⟨7, l / 2, lane + 4 * (l % 2)⟩
    let n := (s.flt.trans.find? (fun e => e.1 = u)).elim 0 Prod.snd + 1
    let lasting := failed ≠ 0 || s.flt.transLimit ≤ n
    let s := if failed ≠ 0 then s
             else { s with flt := { s.flt with trans := (u, n) :: s.flt.trans.filter (fun e => e.1 ≠ u) } }
    let s := s.errRecord 1 none 0 u (if lasting then 2 else 1) 0 0
    if lasting then s.laneFails l (if failed = 0 then 1 else failed) else s

/-! ## Keying (R478, R479) -/

/-- A peer's key is permitted: its hash matches a nonzero LDS_PEER entry. -/
def Lodestar.permits (d : Lodestar) (key : List Byte) : Bool :=
  let h := (sha384 key).take 16
  (List.range 8).any (fun i =>
    let e := ((d.peers.drop (4 * i)).take 4).flatMap (fun w => toLe 4 w.toNat)
    e = h && e.any (· ≠ 0#8))

/-- Keys of an epoch from the shared coordinate. (DEDUCED, log 53) -/
def epochKeys (z : List Byte) (epoch : Nat) (low : Bool) : LinkKeys :=
  let k := hkdf384 (List.replicate 48 0#8) z (ascii "SD3 link" ++ toLe 4 epoch) 72
  let a := (slice k 0 32, slice k 32 4)
  let b := (slice k 36 32, slice k 68 4)
  if low then ⟨a.1, a.2, b.1, b.2⟩ else ⟨b.1, b.2, a.1, a.2⟩

/-- The peer is refused: the link carries no traffic. (DEDUCED, log 45) -/
def State.refusePeer (s : State) (l : Nat) : State :=
  let s := s.modSub l (fun x => { SubLink.reset with epoch := x.epoch, retryAt := s.tick + 100000, peerRefused := true })
  (s.portEvent l 1).gmsi

/-- A link that is up joins a handshake that its peer starts with a fresh ephemeral key of its own. -/
def State.joinHandshake (s : State) (l : Nat) : State :=
  let x := s.sub l
  if x.st.isUp && x.eph.isNone && x.nextKeys.isNone then
    let f := s.takeFree
    f.2.modSub l (fun x => { x with eph := some (scalarOf (freeNat f.1)) })
  else s

/-- LINK_HANDSHAKE: the peer's device key, ephemeral key and signature over both ephemeral keys. In keying the first keys of
an epoch are set; on a link that is up they take effect at the frame `at_` the handshake names. A signature that does not
verify refuses the peer (log 45). -/
def State.handshake (s : State) (l : Nat) (key eph sig : List Byte) (at_ : Nat) : State :=
  let s := s.joinHandshake l
  let x := s.sub l
  match x.eph, s.lds.dpriv with
  | some d, some _ =>
    if x.st ≠ .keying ∧ !x.st.isUp then s
    else
      let low := ofBe s.lds.devkey < ofBe key
      let mine := pubKey d
      let signed := if low then mine ++ eph else eph ++ mine
      let lost := fun (s : State) => if x.st.isUp then (s.refusePeer l).nodesLost (s.lnk.behind l) none else s.refusePeer l
      if !s.lds.permits key || !ecdsaVerify key (sha384 signed) sig then lost s
      else
        match ecdh d eph with
        | none => lost s
        | some z =>
          let e := x.epoch + 1
          let keys := epochKeys z e low
          if x.st.isUp then s.modSub l (fun x => { x with epoch := e, eph := none, nextKeys := some (at_, keys) })
          else
            let s := s.modSub l (fun x => { x with
              epoch := e, eph := none, keys := some keys, txCtr := 0, rxCtr := 0, peerRefused := false, timed := !s.timeFrom l })
            if (s.sub l).timed then s.linkUp l .up else s
  | _, _ => s

/-- REKEY_TRIGGER. -/
def State.rekey (s : State) (l : Nat) : State :=
  let x := s.sub l
  if 2 ^ 47 ≤ x.txCtr || 2 ^ 47 ≤ x.rxCtr then s.joinHandshake l else s

/-- The end of a direction's counters. -/
def ctrEnd : Nat := 2 ^ 48 - 2 ^ 32

/-- COUNTER_END. -/
def State.counterEnd (s : State) (l : Nat) : State :=
  let x := s.sub l
  if x.st.isUp && x.nextKeys.isNone && (ctrEnd ≤ x.txCtr || ctrEnd ≤ x.rxCtr) then s.linkDown l 0x1006 else s

/-- New keys of the sending direction from the frame named on; the other direction follows by itself. (DEDUCED, log 53) -/
def SubLink.switchTx (x : SubLink) : SubLink :=
  match x.nextKeys, x.keys with
  | some (n, k), some o =>
    if n ≤ x.txCtr ∧ o.txKey ≠ k.txKey then
      { x with txCtr := 0, keys := some { o with txKey := k.txKey, txSalt := k.txSalt }
               nextKeys := if o.rxKey = k.rxKey then none else x.nextKeys }
    else x
  | _, _ => x

def SubLink.switchRx (x : SubLink) : SubLink :=
  match x.nextKeys, x.keys with
  | some (n, k), some o =>
    if n ≤ x.rxCtr ∧ o.rxKey ≠ k.rxKey then
      { x with rxCtr := 0, keys := some { o with rxKey := k.rxKey, rxSalt := k.rxSalt }
               nextKeys := if o.txKey = k.txKey then none else x.nextKeys }
    else x
  | _, _ => x

/-! ## Frames (R490 to R492) -/

/-- CRC-32 of IEEE 802.3. -/
def crcBit (c : Nat) : Nat := if c % 2 = 1 then (c / 2) ^^^ 0xEDB88320 else c / 2
def crcByte (c : Nat) (b : Byte) : Nat := (List.range 8).foldl (fun c _ => crcBit c) (c ^^^ b.toNat)
def crc32 (bs : List Byte) : Nat := (bs.foldl crcByte 0xFFFFFFFF) ^^^ 0xFFFFFFFF

/-- A frame's header at a counter (Table 16.2). -/
def Frame_.head (f : Frame_) (ctr len : Nat) : List Byte :=
  toLe 8 ctr ++ toLe 1 (f.kind + 8 * f.cls) ++ toLe 1 f.dst ++ toLe 1 f.src ++ toLe 1 f.part ++ toLe 2 len ++ toLe 2 f.tag ++
    toLe 8 f.addr ++ toLe 8 0

/-- Valid payload bytes, and the payload. The layout of a cell is not given: its bytes are free.
(DESIGN CHOICE, log 16) -/
def Frame_.payload (f : Frame_) (ctr : Nat) : Nat × List Byte :=
  match f.load with
  | .data bs => (bs.length, slice bs 0 256)
  | .cells cs =>
    (16 * cs.length, slice ((List.range (16 * cs.length)).map (fun i => cellByte ctr f.src cs.length i)) 0 256)

/-- The IV of a frame (R479). -/
def frameIv (salt : List Byte) (ctr : Nat) : List Byte := salt ++ toBe 8 ctr

/-- A frame on the wire: header, ciphertext, tag, CRC, reserved bytes. -/
def Frame_.wire (f : Frame_) (k : LinkKeys) (ctr : Nat) : List Byte :=
  let p := f.payload ctr
  let h := f.head ctr p.1
  let e := gcmEnc k.txKey (frameIv k.txSalt ctr) h p.2
  let body := h ++ e.1 ++ e.2
  body ++ toLe 4 (crc32 body) ++ List.replicate 12 0#8

/-- An accepted frame for this instance. -/
def rxOf (f : Frame_) (data : List Byte) : RxFrame :=
  ⟨f.kind, f.cls, f.dst, f.src, f.part, f.tag, f.addr, data, if f.kind = 4 then data.length / 16 else 1⟩

/-- The stop a remote access is from: its core's, the link stop's for an inbound one, else the control stop's. -/
def FabOwner.stop (o : FabOwner) : Nat :=
  match o with
  | .stream c _ _ => c
  | .write c _ _ => c
  | .swapOut c _ _ => c
  | .swapIn c _ => c
  | .image _ _ c => c
  | .inbound _ _ => linkStop
  | _ => 40

/-- Requests of remote accesses become frames while fewer than 64 reads and 64 unacknowledged writes are out (R497). An
access to an unreachable node fails. -/
def State.pumpRemote (s : State) : State :=
  let bad := s.fab.rem.filter (fun a => !a.sent && !s.reachable a.node)
  let s := bad.foldl State.remoteLost s
  let s := { s with fab := { s.fab with rem := s.fab.rem.filter (fun a => a.sent || !bad.contains a) } }
  let step := fun (s : State) (a : RemAcc) =>
    if a.sent ∨ s.inScrub a.part ∨ 64 ≤ (s.fab.rem.filter (fun b => b.sent && !b.done && b.write = a.write)).length then s
    else
      let addr := a.win * 2 ^ 40 + a.off
      let f := fun (kind off : Nat) (l : Load_) =>
        (⟨kind, 0, a.node, s.node, a.part, a.id % 65536, addr + off, l, a.part, none, a.owner.stop⟩ : Frame_)
      let fs := if a.write then (List.range (cdiv a.len 256)).map (fun i =>
            f 1 (256 * i) (.data (slice a.data (256 * i) (min 256 (a.len - 256 * i)))))
          else [f 2 0 (.cells [.readReq (a.id % 65536) addr a.len])]
      let s := { s with fab := { s.fab with rem := s.fab.rem.map (fun (b : RemAcc) => if b.id = a.id then { b with sent := true } else b) } }
      s.modLnk (fun k => { k with queue := k.queue ++ fs })
  s.fab.rem.foldl step s

/-- Frames of this instance to itself arrive, and those for nodes no link leads to are discarded (R494). -/
def State.sortQueue (s : State) (l : Nat) : State :=
  let here := s.lnk.queue.filter (fun f => s.isHere f.dst)
  let lost := (s.lnk.queue ++ s.lnk.transit).filter (fun f => !s.reachable f.dst)
  let s' := s.modLnk (fun k => { k with
    queue := k.queue.filter (fun f => !s.isHere f.dst && s.reachable f.dst), transit := k.transit.filter (fun f => s.reachable f.dst)
    loop := k.loop ++ here.map (fun f => rxOf f (f.payload 0).2) })
  let s' := lost.foldl (fun s f => match f.via with
    | some v => s.modSub v (fun x => { x with owed := modAt x.owed f.cls (· + 1) })
    | none => s) s'
  if lost.isEmpty then s' else s'.portEvent l 4

/-- Cells waiting for one node and partition share a frame, up to 16. -/
def mergeCells (f : Frame_) (ok : Frame_ → Bool) (rest : List Frame_) : Frame_ × List Frame_ :=
  match f.load with
  | .data _ => (f, rest)
  | .cells c0 =>
    if f.kind ≠ 4 then (f, rest)
    else
      rest.foldl (fun (a : Frame_ × List Frame_) g =>
        match a.1.load, g.load with
        | .cells cs, .cells ds =>
          if g.kind = 4 ∧ ok g ∧ g.dst = f.dst ∧ g.part = f.part ∧ cs.length + ds.length ≤ 16 then
            ({ a.1 with load := .cells (cs ++ ds) }, a.2)
          else (a.1, a.2 ++ [g])
        | _, _ => (a.1, a.2 ++ [g])) ({ f with load := .cells c0 }, [])

/-- A frame may leave by sub-link l now. -/
def State.canSend (s : State) (l : Nat) (f : Frame_) : Bool :=
  s.egress f.dst = some l && 0 < (s.sub l).credits.getD f.cls 0 && (f.via.isSome || !s.frameHeld f)

/-- The other sub-link of a split port has a frame to send, and the port's last grant was this one's: the grants alternate (R488). -/
def State.yields (s : State) (l : Nat) : Bool :=
  let o := if l % 2 = 0 then l + 1 else l - 1
  (s.lport l).split && (s.lport l).last = some (l % 2) && (s.lnk.transit ++ s.lnk.queue).any (s.canSend o)

/-- The frame a data slot carries: a transit frame ahead of a local one, but at most every other slot when local ones
wait; local ones by shares, then in turn over their source stops (R392, R395, R494). (DESIGN CHOICE, log 52) -/
def State.pickFrame (s : State) (l : Nat) : Option (Frame_ × State) :=
  let x := s.sub l
  let can := s.canSend l
  let tr := s.lnk.transit.find? can
  let loc := if s.yields l then [] else s.lnk.queue.filter can
  let tr := if s.yields l then none else tr
  match tr, loc with
  | some f, [] => some (f, s.modLnk (fun k => { k with transit := k.transit.erase f }))
  | none, [] => none
  | tr, _ =>
    if tr.isSome && !x.transitLast then
      tr.map (fun f => (f, (s.modLnk (fun k => { k with transit := k.transit.erase f })).modSub l (fun x => { x with
        transitLast := true })))
    else
      let unit := s.lnk.reg.getD (l / 2 * 2) Reg_.reset
      let req := (loc.map Frame_.own).eraseDups
      let bal := regAdd unit.bal (s.shares 2)
      let elig := regEligible bal req
      let turn := fun (f : Frame_) => (f.stop + 64 - unit.ptr) % 64
      match loc.filter (fun f => elig.contains f.own) with
      | [] => none
      | f0 :: fs =>
        let f := fs.foldl (fun b g => if turn g < turn b then g else b) f0
        let s := s.modLnk (fun k => { k with reg := setAt k.reg (l / 2 * 2) ⟨regPay bal f.own, (f.stop + 1) % 64⟩ })
        let s := (s.countWaits 2 f.own req).modSub l (fun x => { x with transitLast := false })
        let m := mergeCells f can (s.lnk.queue.erase f)
        some (m.1, s.modLnk (fun k => { k with queue := m.2 }))

/-- A frame is sent at the next counter, and kept for replay. (DESIGN CHOICE, log 52) -/
def State.sendFrame (s : State) (l : Nat) (f : Frame_) : State :=
  match (s.sub l).keys with
  | none => s
  | some k =>
    let n := (s.sub l).txCtr
    let bs := f.wire k n
    let s := match f.via with
      | some v => s.modSub v (fun x => { x with owed := modAt x.owed f.cls (· + 1) })
      | none => s
    (s.modSub l (fun x => { x with
      txCtr := n + 1, credits := modAt x.credits f.cls (· - 1), replay := x.replay ++ [⟨n, bs⟩], txNow := bs })).modPort l
      (fun q => { q with txCnt := sat32 q.txCnt 1, last := some (l % 2) })

/-- FRAME_SLOT: a control slot in every eighth, else a resent, transit, local or idle frame. The bytes of control slots and of
idle frames are not given: the model keeps none. (DESIGN CHOICE, log 52) -/
def State.frameSlot (s : State) (l : Nat) : State :=
  let x := s.sub l
  if !s.subOn l || x.st = .down || x.st = .lock then s
  else
    let s := s.modSub l (fun x => { x with slots := x.slots + 1, txNow := [] })
    if x.slots % 8 = 7 then
      let n := if x.nacksSent.1 = x.rxCtr then x.nacksSent.2 + 1 else 1
      let s := s.modSub l (fun x => { x with
        ack := false, nack := false, owed := [0, 0, 0], nacksSent := if x.nack then (x.rxCtr, n) else x.nacksSent })
      if !x.nack then s
      else
        let s := s.modPort l (fun q => { q with replayCnt := sat32 q.replayCnt 1 })
        if 8 ≤ n then s.linkDown l 0x1005 else s
    else if !x.st.isUp then s
    else
      let s := s.modSub l SubLink.switchTx
      let x := s.sub l
      match x.resend with
      | some n =>
        match x.replay.find? (fun f => f.counter = n) with
        | some f =>
          let rest := (x.replay.dropWhile (fun f => f.counter ≠ n)).drop 1
          (s.modSub l (fun x => { x with resend := rest.head?.map SentFrame.counter, txNow := f.bytes })).modPort l
            (fun q => { q with txCnt := sat32 q.txCnt 1 })
        | none => s.modSub l (fun x => { x with resend := none })
      | none =>
        if 64 ≤ x.replay.length ∨ ctrEnd ≤ x.txCtr then s
        else
          let s := (s.pumpRemote).sortQueue l
          match s.pickFrame l with
          | some (f, s) => s.sendFrame l f
          | none => s

/-- A bad frame: logged, negatively acknowledged, and the lanes are sounded (R480, R492, R493). -/
def State.badFrame (s : State) (l : Nat) : State :=
  let x := s.sub l
  let u : UnitId := ⟨7, l / 2, 4 * (l % 2)⟩
  let s := { s with flt := { s.flt with ue := sat32 s.flt.ue 1 } }
  let s := s.errRecord 0 none 0x1207 u 0 0 0
  let s := if x.sounding then s else { s with flt := { s.flt with soundCnt := sat32 s.flt.soundCnt 1 } }
  s.modSub l (fun x => { x with nack := true, ack := false, skipping := true, sounding := true })

/-- DATA_FRAME_RECEIVE: 320 bytes. A frame with the expected sequence number and a good tag is accepted; for another node it
goes on in transit, or is discarded when it would leave by the link it came in on or its node is unreachable. -/
def State.frameReceive (s : State) (l : Nat) (bs : List Byte) : State :=
  let s := s.modSub l SubLink.switchRx
  let x := s.sub l
  match x.keys with
  | none => s
  | some k =>
    if !x.st.isUp then s
    else
      let h := slice bs 0 32
      let crcOk := bs.length = 320 && leAt bs 0x130 4 = crc32 (slice bs 0 0x130)
      let kind := leAt bs 8 1 % 8
      let ctr := leAt bs 0 8
      if !crcOk then s.badFrame l
      else if kind = 0 then s
      else if ctr % 4096 ≠ x.rxCtr % 4096 then s
      else
        match gcmDec k.rxKey (frameIv k.rxSalt x.rxCtr) h (slice bs 0x20 256) (slice bs 0x120 16) with
        | none => s.badFrame l
        | some pt =>
          let f : Frame_ := ⟨kind, leAt bs 8 1 / 8 % 4, leAt bs 9 1, leAt bs 0xA 1, leAt bs 0xB 1 % 8, leAt bs 0xE 2,
            leAt bs 0x10 8 % 2 ^ 48, .data (slice pt 0 (min 256 (leAt bs 0xC 2))), leAt bs 0xB 1 % 8, some l, linkStop⟩
          let s := s.modSub l (fun x => { x with rxCtr := x.rxCtr + 1, ack := true, nack := false, skipping := false })
          let s := s.modPort l (fun q => { q with rxCnt := sat32 q.rxCnt 1 })
          if s.isHere f.dst then
            s.modSub l (fun x => { x with rx := x.rx ++ [rxOf f (slice pt 0 (min 256 (leAt bs 0xC 2)))] })
          else if (s.egress f.dst).isNone ∨ s.egress f.dst = some l then
            (s.modSub l (fun x => { x with owed := modAt x.owed f.cls (· + 1) })).portEvent l 4
          else s.modLnk (fun k => { k with transit := k.transit ++ [f] })

/-- Frames acknowledged through a sequence number leave the replay buffer. -/
def SubLink.acked (x : SubLink) (seq : Nat) : SubLink :=
  if x.replay.any (fun f => f.counter % 4096 = seq) then
    let rest := (x.replay.dropWhile (fun f => f.counter % 4096 ≠ seq)).drop 1
    let keep := match x.resend with
      | some n => if rest.any (fun f => f.counter = n) then some n else rest.head?.map SentFrame.counter
      | none => none
    { x with replay := rest, resend := keep }
  else x

/-- LINK_ACK. -/
def State.linkAck (s : State) (l seq : Nat) : State :=
  if (s.sub l).st.isUp then s.modSub l (fun x => { x.acked seq with nacks := (0, 0) }) else s

/-- LINK_NACK: resend from the frame named; eight in a row for one frame take the link down. -/
def State.linkNack (s : State) (l seq : Nat) : State :=
  let x := s.sub l
  match x.replay.find? (fun f => f.counter % 4096 = seq) with
  | none => s
  | some f =>
    if !x.st.isUp then s
    else
      let n := if x.nacks.1 = f.counter then x.nacks.2 + 1 else 1
      if 8 ≤ n then s.linkDown l 0x1005
      else s.modSub l (fun x => { x with
        replay := x.replay.dropWhile (fun g => g.counter ≠ f.counter), resend := some f.counter, nacks := (f.counter, n) })

/-- LINK_CREDIT_RETURN. -/
def State.linkCredit (s : State) (l cls n : Nat) : State :=
  if (s.sub l).st.isUp then s.modSub l (fun x => { x with credits := modAt x.credits cls (fun c => min 32 (c + n)) }) else s

/-! ## Time (R496) -/

/-- Time in Meridian cycles. (DEDUCED, log 48) -/
def State.meridian (s : State) : Nat := s.clk.tick * 88 + s.clk.sub

/-- TIME_EXCHANGE: the request's time t1. -/
def State.timeExchange (s : State) (l : Nat) : State :=
  let x := s.sub l
  if s.timeFrom l && (x.st.isUp || (x.st = .keying && x.keys.isSome)) then s.modLnk (fun k => { k with t1 := s.meridian }) else s

/-- TIME_REPLY with the neighbour's times and hops: the offset, which the counter slews away; the first on a link sets the
counter once when no multi-instance job runs, and the link is up. (DEDUCED, log 54) -/
def State.timeReply (s : State) (l t2 t3 hops : Nat) : State :=
  let x := s.sub l
  if !s.timeFrom l || !(x.st.isUp || (x.st = .keying && x.keys.isSome)) then s
  else
    let off : Int := (((t2 : Int) - s.lnk.t1) + ((t3 : Int) - s.meridian)) / 2
    let first := !x.timed && !s.grid.jobs.any (fun j => j.multi.isSome)
    let s := s.modLnk (fun k => { k with
      offset := off, hops := min 255 (hops + 1), slew := if first then 0 else off
      synced := first || off.natAbs ≤ 88 * (hops + 1) })
    let s := if first then
        let t := ((s.meridian : Int) + off).toNat
        { s with clk := { s.clk with tick := t / 88 % 2 ^ 64, sub := t % 88 } }
      else s
    let s := s.modSub l (fun x => { x with timed := true })
    if x.st.isUp then s else s.linkUp l .up

/-! ## Receive buffers -/

/-- Frames waiting at sub-link l; l = 4 stands for this instance's own. -/
def State.rxAt (s : State) (l : Nat) : List RxFrame := if l = 4 then s.lnk.loop else (s.sub l).rx

def State.setRx (s : State) (l : Nat) (fs : List RxFrame) : State :=
  if l = 4 then s.modLnk (fun k => { k with loop := fs }) else s.modSub l (fun x => { x with rx := fs })

/-- One cell or the payload of a frame is served: an emptied frame frees its buffer, whose credit goes back. -/
def State.rxServe (s : State) (l : Nat) (f : RxFrame) : State :=
  if 1 < f.left then s.setRx l ((s.rxAt l).map (fun g => if g = f then { g with left := g.left - 1 } else g))
  else
    let s := s.setRx l ((s.rxAt l).erase f)
    if l = 4 then s else s.modSub l (fun x => { x with owed := modAt x.owed f.cls (· + 1) })

/-- The first frame of cells. -/
def State.rxCell (s : State) (l : Nat) : Option RxFrame := (s.rxAt l).find? (fun f => f.kind = 4 && 0 < f.left)

/-- The request served next, by the shares of the receiving direction (R392). -/
def State.rxRequest (s : State) (l : Nat) : Option (RxFrame × State) :=
  let fs := (s.rxAt l).filter (fun f => f.kind = 1 || f.kind = 2)
  let i := l / 2 * 2 + 1
  let unit := s.lnk.reg.getD i Reg_.reset
  let req := (fs.map RxFrame.part).eraseDups
  let bal := regAdd unit.bal (s.shares 2)
  let elig := regEligible bal req
  match fs.find? (fun f => elig.contains f.part) with
  | none => none
  | some f =>
    if l = 4 then some (f, s)
    else some (f, (s.modLnk (fun k => { k with reg := setAt k.reg i ⟨regPay bal f.part, unit.ptr⟩ })).countWaits 2 f.part req)

/-! ## Inbound windows (R322, R477, R497) -/

/-- The partition and engine address an inbound access reaches, unless its window refuses it, or names a sealed segment or a partition
in scrub. -/
def State.inWindow (s : State) (addr len : Nat) : Option (Nat × Nat) :=
  let w := s.cht.inwin.getD (fld 43 40 addr) (0, 0, 0)
  let o := fld 39 0 addr
  let p := fld 3 1 w.1
  let seg := fld 7 4 w.1
  let ea := seg * 2 ^ 44 + (w.2.1 * 65536 + o) % 2 ^ 44
  if !w.1.testBit 0 ∨ w.2.2 * 65536 < o + len ∨ s.cfg.parts ≤ p ∨ s.inScrub p then none
  else if (segAt (s.cht.lnk.segs.getD p []) ea).sealed_ then none
  else some (p, ea)

/-- Inbound accesses that wait are issued, or refused with an error cell. -/
def State.inPump (s : State) : State :=
  s.lnk.inbound.foldl (fun s a =>
    if a.issued then s
    else if s.inScrub a.part then s.inRefuse a
    else
      let e : Fin 8 := ⟨a.part % 8, Nat.mod_lt _ (by decide)⟩
      match s.reach (.link e) a.part a.ea a.len a.write with
      | (.found pl, s) =>
        (s.modLnk (fun k => { k with inbound := k.inbound.map (fun x => if x.id = a.id then { x with issued := true } else x) })).sideAccess
          (.inbound 0 a.id) a.part pl a.write a.len a.data
      | (.wait _, s) => s
      | (.refused _, s) => s.inRefuse a) s

/-- An inbound access is accepted. -/
def State.inAccept (s : State) (f : RxFrame) (write : Bool) (len : Nat) (data : List Byte) : State :=
  match s.inWindow f.addr len with
  | none =>
    let bad := fun (x : InAcc) => write && x.mid && x.bad && x.node = f.src && x.tag = f.tag
    let s := if s.lnk.inbound.any bad then s.modLnk (fun k => { k with inbound := k.inbound.filter (fun x => !bad x) }) else s
    s.sendCell f.src f.part (.error f.tag)
  | some (p, ea) =>
    (s.modLnk (fun k => { k with
      nextIn := k.nextIn + 1
      inbound := k.inbound ++ [⟨k.nextIn, f.src, f.tag, p, write, ea, len, data, false, false, false⟩] })).inPump

/-- REMOTE_READ_REQUEST: the request's cell says how many bytes. -/
def State.remoteRead (s : State) (l len : Nat) : State :=
  match s.rxRequest l with
  | some (f, s') => if f.kind = 2 ∧ 0 < len ∧ len ≤ 1024 then (s'.rxServe l f).inAccept f false len [] else s
  | none => s

/-- REMOTE_WRITE: a write's frames gather until its last, which is performed; the header does not say which frame is the
last, so the command does. -/
def State.remoteWrite (s : State) (l : Nat) (last : Bool) : State :=
  match s.rxRequest l with
  | some (f, s') =>
    if f.kind ≠ 1 then s
    else if last then (s'.rxServe l f).inAccept f true f.data.length f.data
    else
      let s := s'.rxServe l f
      match s.inWindow f.addr f.data.length with
      | none => s.modLnk (fun k => { k with
          nextIn := k.nextIn + 1
          inbound := k.inbound ++ [⟨k.nextIn, f.src, f.tag, f.part, true, 0, f.data.length, f.data, true, true, true⟩] })
      | some (p, ea) => (s.modLnk (fun k => { k with
          nextIn := k.nextIn + 1
          inbound := k.inbound ++ [⟨k.nextIn, f.src, f.tag, p, true, ea, f.data.length, f.data, false, true, false⟩] })).inPump
  | none => s

/-- An inbound access has been performed: a read's data goes back in frames of 256 B, a write is acknowledged by one cell; an
earlier frame of a write has no answer of its own, and one that was refused makes the write's answer an error cell. -/
def State.inDone (s : State) (id : Nat) : State :=
  match s.lnk.inbound.find? (fun a => a.id = id) with
  | none => (s.ownerTake (.inbound 0 id)).2
  | some a =>
    if a.bad || !s.ownerDone (.inbound 0 id) then s
    else
      if !a.mid && s.lnk.inbound.any (fun b => a.before b && !b.bad) then s
      else
        let r := s.ownerTake (.inbound 0 id)
        let lost := !a.mid && s.lnk.inbound.any (fun b => a.before b)
        let s := r.2.modLnk (fun k => { k with inbound := k.inbound.filter (fun x => x.id ≠ id && (a.mid || !a.before x)) })
        if a.mid then s
        else if lost then s.sendCell a.node a.part (.error a.tag)
        else if a.write then s.sendCell a.node a.part (.writeAck a.tag)
        else
          let fs := (List.range (cdiv a.len 256)).map (fun i =>
            (⟨3, 1, a.node, s.node, a.part, a.tag, 0, .data (slice r.1 (256 * i) (min 256 (a.len - 256 * i))), a.part, none, linkStop⟩ : Frame_))
          s.modLnk (fun k => { k with queue := k.queue ++ fs })

/-- Inbound accesses all done are answered. -/
def State.inAnswer (s : State) : State :=
  s.lnk.inbound.foldl (fun s a => if a.issued then s.inDone a.id else s) s

/-! ## Answers to this instance's accesses (R497) -/

/-- REMOTE_READ_RESPONSE. -/
def State.remoteData (s : State) (l : Nat) : State :=
  match (s.rxAt l).find? (fun f => f.kind = 3) with
  | none => s
  | some f =>
    let s := s.rxServe l f
    let s := { s with fab := { s.fab with rem := s.fab.rem.map (fun (a : RemAcc) =>
      if !a.write && a.sent && !a.done && a.node = f.src && a.id % 65536 = f.tag then
        let got := a.got ++ f.data
        { a with got := got, done := decide (a.len ≤ got.length) }
      else a) } }
    s.inAnswer

/-- REMOTE_WRITE_ACK. -/
def State.remoteAck (s : State) (l tag : Nat) : State :=
  match s.rxCell l with
  | none => s
  | some f =>
    let s := s.rxServe l f
    let hit := fun (a : RemAcc) => a.write && a.sent && !a.done && a.node = f.src && a.id % 65536 = tag
    let keep := fun (a : RemAcc) => match a.owner with
      | .inbound _ _ => true
      | _ => false
    let s := { s with fab := { s.fab with
      rem := (s.fab.rem.map (fun (a : RemAcc) => if hit a then { a with done := true } else a)).filter (fun (a : RemAcc) =>
        !(a.write && a.done && !keep a)) } }
    s.inAnswer

/-- REMOTE_ERROR_CELL: the sending core stops with 0x0806. -/
def State.remoteError (s : State) (l tag : Nat) : State :=
  match s.rxCell l with
  | none => s
  | some f =>
    let s := s.rxServe l f
    match s.fab.rem.find? (fun a => a.sent && !a.done && a.node = f.src && a.id % 65536 = tag) with
    | none => s
    | some a =>
      let s := { s with fab := { s.fab with rem := s.fab.rem.filter (fun b => b.id ≠ a.id) } }
      match a.owner with
      | .stream c k _ => s.slotStop c k 0x0806
      | .write c t i =>
        let g := ((s.core c).str.slots.find? (fun x => x.tag.task = t && x.tag.id = i)).map StrSlot.tag
        match g with
        | some g => s.onCore c (fun q => if q.seq.stop.isSome then q else q.stopTag 0x0806 g)
        | none => s.onCore c (fun q => if q.seq.stop.isSome then q else q.stopWith 0x0806 (q.task ⟨t % 4, Nat.mod_lt _ (by decide)⟩).pc t)
      | .swapOut c t i => s.onCore c (fun q => if q.seq.stop.isSome then q else q.stopTag 0x0806 (((q.elm.swaps.find? (fun w =>
          (q.swapTag w).task = t && (q.swapTag w).id = i)).map q.swapTag).getD ⟨t, 0, i⟩))
      | .swapIn c h => s.onCore c (fun q => if q.seq.stop.isSome then q else
          ((q.elm.swaps.find? (fun w => w.sh = h)).map (fun w => q.stopTag 0x0806 (q.swapTag w))).getD q)
      | .image _ _ c => (match s.jobOf c with
        | some j => if j.phase = .loading then s.endJob j 0x0806 else s
        | none => s)
      | .table p r => s.readRefused p r 0x0806
      | .header p r _ => s.readRefused p r 0x0806
      | _ => s.remoteLost a

/-! ## Bound queues (R498) -/

/-- A queue's binding: node, partition, queue. -/
def State.binding (s : State) (p q : Nat) : Option (Nat × Nat × Nat) :=
  if q < 56 then none
  else
    let w := (s.lnk.hqb.getD (8 * p + q - 56) 0#32).toNat
    if w.testBit 0 then some (fld 8 1 w, fld 11 9 w, fld 17 12 w) else none

/-- A put into a bound queue goes as a cell; with no link to the node its job ends, and across a link whose version omits
handle cells the core stops (R498, R536). -/
def State.putFar (s : State) (c t : Nat) (h : DWord) (b : Nat × Nat × Nat) : State :=
  let t4 : Fin 4 := ⟨t % 4, Nat.mod_lt _ (by decide)⟩
  match s.egress b.1 with
  | none =>
    if s.isHere b.1 then
      (s.modLnk (fun k => { k with hqInflight := k.hqInflight + 1, queue := k.queue ++
        [⟨4, 2, b.1, s.node, b.2.1, 0, 0, .cells [.hqPut b.2.2 c t h], s.partOf c, none, c⟩] })).sortQueue 0
    else
      match s.jobOf c with
      | some j => s.chainLost j
      | none => s
  | some l =>
    if (s.sub l).minor ≤ 3 then s.onCore c (fun q => q.stopWith 0x0705 (q.task t4).pc t)
    else s.modLnk (fun k => { k with hqInflight := k.hqInflight + 1, queue := k.queue ++
      [⟨4, 2, b.1, s.node, b.2.1, 0, 0, .cells [.hqPut b.2.2 c t h], s.partOf c, none, c⟩] })

/-- hq.put and hq.get when they issue: a local queue gets a packet, a bound one a cell. -/
def State.hqGo (s : State) (c : Nat) (before : Option (Fin 4)) : State :=
  match before with
  | none => s
  | some t =>
    match ((s.core c).task t).st, ((s.core c).task t).wait with
    | .waiting, .hqPut q h false =>
      match s.binding (s.partOf c) q with
      | some b => s.putFar c t h b
      | none => s.hqIssued c before
    | _, _ => s.hqIssued c before

/-- HANDLE_CELL: a handle arrives for a queue here and is answered; or a reply or a notice comes back. -/
def State.handleCell (s : State) (l : Nat) (m : HandleMsg) : State :=
  match s.rxCell l with
  | none => s
  | some f =>
    let s := s.rxServe l f
    let less := fun (s : State) => s.modLnk (fun k => { k with hqInflight := k.hqInflight - 1 })
    match m with
    | .put q c t h =>
      if (s.hq f.part q).q.length < 32 then (s.hqAppend f.part q h).sendCell f.src f.part (.hqReply c t true)
      else
        (s.modHq f.part q (fun x => { x with refused := x.refused ++ [(farCore f.src c, t.val)] })).sendCell f.src f.part
          (.hqReply c t false)
    | .reply c t ok => (less s).onCore c (fun q => q.hqPutReply t ok)
    | .space c t => s.onCore c (fun q => q.hqSpace t)

/-! ## Chain barriers (R257, R499) -/

/-- A chain barrier's completion is delivered to a job's cores (R256). -/
def State.chainDeliver (s : State) (cj bar : Nat) : State :=
  match s.grid.jobs.find? (fun j => j.multi.isSome && j.chainJob = cj) with
  | some j => s.sendAll (j.coreList.map (fun c => .barDone c bar))
  | none => s

/-- An arrival at the root; the m-th sends the completion to every member in increasing node order. -/
def State.chainArrival (s : State) (m : Nat × Nat) (cj bar : Nat) (ph : Half) (node part : Nat) : State :=
  let s := s.modLnk (fun k => { k with arrivals := k.arrivals ++ [(cj, bar, ph, node)] })
  let mine := fun (a : Nat × Nat × Half × Nat) => a.1 = cj && a.2.1 = bar && a.2.2.1 = ph
  if (s.lnk.arrivals.filter mine).length < m.2 then s
  else
    let s := s.modLnk (fun k => { k with arrivals := k.arrivals.filter (fun a => !mine a) })
    let nodes := (List.range 256).filter (memberOf m)
    nodes.foldl (fun s n => if n = s.node then s.chainDeliver cj bar else s.sendCell n part (.barDone cj bar ph)) s

/-- Local completions of chain barriers go to the root. -/
def State.chainFlush (s : State) : State :=
  let l := s.grid.barLocal
  let s := s.modGrid (fun g => { g with barLocal := [] })
  l.foldl (fun s b =>
    match s.grid.jobs.find? (fun j => j.part = b.1 && j.ring = b.2.1 && j.multi.isSome) with
    | none => s
    | some j =>
      match j.multi with
      | none => s
      | some m =>
        if m.1 = s.node then s.chainArrival m j.chainJob b.2.2.1 b.2.2.2 s.node j.part
        else s.sendCell m.1 j.part (.barArrive j.chainJob b.2.2.1 b.2.2.2)) s

/-- BARRIER_ARRIVAL with what follows for a chain barrier. -/
def State.barrierCome (s : State) (c b : Nat) : State := (s.barrierArrival c b).chainFlush

/-- CHAIN_BARRIER_ARRIVAL_CELL. -/
def State.chainArriveCell (s : State) (l cj bar : Nat) (ph : Half) : State :=
  match s.rxCell l with
  | none => s
  | some f =>
    let s := s.rxServe l f
    match s.lnk.cjob.find? (fun e => e.2.getLsbD 0 && fld 15 0 e.1.toNat = cj) with
    | none => s
    | some e => s.chainArrival (fld 23 16 e.1.toNat, fld 31 24 e.1.toNat + 1) cj bar ph f.src (fld 3 1 e.2.toNat)

/-- CHAIN_BARRIER_COMPLETION_CELL. -/
def State.chainDoneCell (s : State) (l cj bar : Nat) : State :=
  match s.rxCell l with
  | none => s
  | some f => (s.rxServe l f).chainDeliver cj bar

/-! ## Other cells (R429, R500, R501) -/

/-- DIVIDER_PROPOSAL_CELL. -/
def State.dividerCell (s : State) (l cj div tick : Nat) : State :=
  match s.rxCell l with
  | none => s
  | some f => (s.rxServe l f).modPwr (fun p => { p with props := p.props ++ [(⟨cj, f.src, div, tick, false⟩ : DivProp)] })

/-- DOWN_NOTICE. -/
def State.downNotice (s : State) (l : Nat) (nodes : List Nat) : State :=
  match s.rxCell l with
  | none => s
  | some f => (s.rxServe l f).nodesLost nodes (some l)

/-- RESTART_CELL: the job's partition resets and the job is replayed, with the largest count among the members. -/
def State.restartCell (s : State) (l cj n : Nat) : State :=
  match s.rxCell l with
  | none => s
  | some f =>
    let s := s.rxServe l f
    match s.grid.jobs.find? (fun j => j.multi.isSome && j.chainJob = cj) with
    | none => s
    | some j =>
      let s := s.modGrid (fun g => { g with jobs := g.jobs.map (fun k => if k = j then { k with replays := max k.replays (n - 1) } else k) })
      s.resetStart j.part false [] [] false

/-! ## Registers with effects (R502) -/

/-- LNK_Pp_CFG: enabling starts to wait for lock; disabling takes the port's links down. -/
def State.lnkCfg (s : State) (p v : Nat) : State :=
  if s.cfg.links ≤ p then s
  else
    let old := s.lport (2 * p)
    let w := BitVec.ofNat 32 (v % 32)
    let s := s.modPort (2 * p) (fun q => { q with cfg := w })
    let s := [2 * p, 2 * p + 1].foldl (fun s l =>
      let gone := old.enabled && (!v.testBit 0 || (l % 2 = 1 && !v.testBit 1))
      if gone && (s.sub l).carries then s.linkDown l 0
      else if gone then s.modSub l (fun x => { SubLink.reset with epoch := x.epoch })
      else s) s
    [2 * p, 2 * p + 1].foldl (fun s l =>
      if s.subOn l && (s.sub l).st = .down && !old.enabled then s.modSub l (fun x => { x with st := .lock }) else s) s

/-- LNK_ROUTE_i: nodes that become unreachable are lost (R500). -/
def State.lnkRoute (s : State) (i v : Nat) : State :=
  let nodes := (List.range 8).map (fun k => 8 * i + k)
  let before := nodes.filter s.reachable
  let s := s.modLnk (fun k => { k with routes := setAt k.routes i (BitVec.ofNat 32 v) })
  let lost := before.filter (fun n => !s.reachable n)
  if lost.isEmpty then s else s.nodesLost lost none

end Sys2Proof.Machine
end

