-- ==== Sys2Proof/Machine/RegRead.lean ====
section
/-! DEFINITION. What a read of each register returns, page by page (Table 18.11), and what the reads with an effect do. -/

namespace Sys2Proof.Machine

/-- A register at an offset of an array of registers `step` bytes apart: index and offset within. -/
def slotOf (off base step count : Nat) : Option (Nat × Nat) :=
  if base ≤ off ∧ off < base + step * count then some ((off - base) / step, (off - base) % step) else none

/-! ## Control-stop pages -/

/-- GLB (Table 18.12). -/
def State.rdGlb (s : State) (off : Nat) : Nat :=
  match off with
  | 0x00 => 0x00030200
  | 0x04 => s.cfg.index
  | 0x08 => b2n s.alm.nvMode + 2 * s.alm.nvSpeed
  | 0x0C =>
    (if s.pw.ack then 3 else if s.grid.watch = .watch then 1 else if s.grid.watch = .normal then 0 else 2) +
      4 * b2n s.pw.downReq + 8 * b2n (s.grid.watch = .watch)
  | 0x10 => s.fab.errCnt.toNat
  | 0x20 => s.cfg.meshInfo
  | 0x28 => s.tick % 2 ^ 32
  | 0x2C => s.clk.latch.toNat
  | _ => 0

/-- BNC (Table 1.3). The spares are counted once the remap is filled (R28, R32). -/
def State.rdBnc (s : State) (off : Nat) : Nat :=
  match slotOf off 0x100 4 32 with
  | some (n, 0) =>
    let r := s.grid.remap.getD n ⟨0, 0, 0⟩
    r.phys + 2 ^ 8 * r.state + 2 ^ 16 * r.count
  | some _ => 0
  | none =>
    let bad := s.grid.bad.eraseDups.length
    let mapped := (s.grid.remap.filter (fun r => r.state = 1)).length
    if off = 0x180 then (if mapped = 0 then 0 else (s.cfg.phys - bad - mapped) % 64) + 2 ^ 8 * (bad % 64)
    else if off = 0x184 then min 64 s.grid.disp.length + 128 * b2n s.dispatching
    else 0

def Msi.rd (m : Msi) (off : Nat) : Nat :=
  match off with
  | 0x0 => m.addrLo.toNat
  | 0x4 => m.addrHi.toNat
  | 0x8 => m.data.toNat
  | 0xC => b2n m.enable + 2 * b2n m.outstanding + 4 * b2n m.deferred
  | _ => 0

/-- HST (Table 10.10). -/
def State.rdHst (s : State) (off : Nat) : Nat :=
  if off = 0 then 0x0300 + 2 ^ 16 * s.cfg.parts
  else if 0x10 ≤ off ∧ off < 0x20 then s.grid.gmsi.rd (off - 0x10)
  else 0

/-- PRT common page (Table 12.6). -/
def State.rdPrtCommon (s : State) (off : Nat) : Nat :=
  match slotOf off 0x40 32 8 with
  | some (n, o) =>
    let w := s.grid.wakes.getD n ⟨0, 0, 0, 0, 0⟩
    (match o with
     | 0x00 => w.ctrl.toNat
     | 0x04 => w.addr.toNat
     | 0x08 => w.thresh.toNat
     | 0x10 => w.bellLo.toNat
     | 0x14 => w.bellHi.toNat
     | _ => 0)
  | none =>
    match off with
    | 0x04 => b2n s.grid.shareErr
    | 0x08 => s.grid.slack.toNat
    | 0x0C => b2n s.grid.reportMsg
    | 0x10 => s.grid.watchSel
    | 0x14 => s.grid.watch.code + 4 * b2n s.grid.watchRefused
    | _ => 0

/-- CHT (Table 9.7). -/
def State.rdCht (s : State) (off : Nat) : Nat :=
  let c := s.cht
  match slotOf off 0x80 16 16 with
  | some (n, o) =>
    let w := c.inwin.getD n (0, 0, 0)
    (match o with
     | 0 => w.1
     | 4 => w.2.1
     | 8 => w.2.2
     | _ => 0)
  | none =>
    match off with
    | 0x00 => s.cfg.chartLog + 2 ^ 5 * s.cfg.walkers + 2 ^ 9 * b2n c.carve + 2 ^ 10 * b2n c.chartNear
    | 0x08 => fld 31 16 c.region * 65536
    | 0x0C => c.region / 2 ^ 32 % 65536
    | 0x10 => if c.carve then fld 31 16 c.nearBase * 65536 else 0
    | 0x14 => if c.carve then c.nearBase / 2 ^ 32 % 65536 else 0
    | 0x18 => c.nearFrames
    | 0x20 => c.editIndex
    | 0x24 => c.editValue.toNat
    | 0x2C => b2n c.edit.isSome + 2 * b2n c.editDone + 4 * b2n c.editRefused + 8 * b2n c.editOver
    | 0x30 => c.invFirst
    | 0x34 => c.invCount
    | 0x38 => c.invSegs
    | 0x40 => c.invQueue.length + 8 * b2n c.inv.isSome + 16 * b2n c.invDone + 32 * b2n c.invOver
    | 0x48 => fld 31 16 c.moveHome * 65536
    | 0x4C => c.moveHome / 2 ^ 32 % 65536
    | 0x54 => b2n c.move.isSome + 2 * b2n c.moveDone + 4 * b2n c.moveOver
    | 0x58 => c.walkCnt.toNat
    | 0x5C => c.faultCnt.toNat
    | _ => 0

/-- ITK (Table 11.6). -/
def State.rdItk (s : State) (off : Nat) : Nat :=
  match slotOf off 0x100 0x80 8 with
  | none => if off = 0 then 4 + 16 * (s.cfg.parts - 1) else 0
  | some (p, o) =>
    if s.cfg.parts ≤ p then 0
    else
      let x := s.ses p
      let busy := (List.range 4).foldl (fun m l => match s.lane l with
        | some y => if y.sess = p then m + 2 ^ l else m
        | none => m) 0
      match o with
      | 0x00 => x.sringLo.toNat
      | 0x04 => x.sringHi.toNat
      | 0x08 => x.cfg.toNat
      | 0x0C => x.outLo.toNat
      | 0x10 => x.outHi.toNat
      | 0x14 => x.outCfg.toNat
      | 0x18 => x.outShape.toNat
      | 0x1C => x.stride.toNat
      | 0x20 => x.scrLo.toNat
      | 0x24 => x.scrHi.toNat
      | 0x28 => x.budget.toNat
      | 0x2C => x.pad.toNat
      | 0x30 => busy + 16 * b2n x.retrying + 32 * ((x.openBatch.elim 0 (fun b => b.slots.length)) % 64)
      | 0x34 => x.event % 32 + 65536 * x.bellDrop
      | 0x38 => x.avg % 2 ^ 32
      | 0x3C => (x.counts.getD 0 0).toNat
      | 0x40 => (x.counts.getD 1 0).toNat
      | 0x44 => (x.counts.getD 2 0).toNat
      | 0x48 => (x.counts.getD 3 0).toNat
      | 0x50 => x.msi.rd 0
      | 0x54 => x.msi.rd 4
      | 0x58 => x.msi.rd 8
      | 0x5C => x.msi.rd 12
      | 0x64 => x.head.toNat
      | 0x70 => x.prepared % 32 + 32 * (x.batches.length % 32)
      | 0x74 => (x.batches.find? Batch.prepared).elim 0 Batch.seq
      | _ => 0

/-- FRM (Table 11.8). -/
def State.rdFrm (s : State) (off : Nat) : Nat :=
  match slotOf off 0x100 0x40 6 with
  | none => if off = 0 then 0x00240102 else 0
  | some (n, o) =>
    let f := s.fst n
    match o with
    | 0x00 => f.ctrl.toNat
    | 0x04 => f.inShape.toNat
    | 0x08 => f.outShape.toNat
    | 0x0C => f.stale.toNat
    | 0x10 => f.stageLo.toNat
    | 0x14 => f.stageHi.toNat
    | 0x18 => f.outLo.toNat
    | 0x1C => f.outHi.toNat
    | 0x20 => f.recLo.toNat
    | 0x24 => f.recHi.toNat
    | 0x28 => f.head
    | 0x2C => f.tail
    | 0x34 => b2n f.on + 2 * ((f.frames.filter (fun x => x.st = .pending)).length % 128) + 256 * (f.busy.length % 256)
    | 0x38 => f.drops + 65536 * f.lost
    | _ => 0

/-- A power in 10 mW units from the energy of n intervals. -/
def tenMw (e n : Nat) : Nat := min 65535 (e / (n * 20000 * pJ))

/-- PWR (Table 13.5). -/
def State.rdPwr (s : State) (off : Nat) : Nat :=
  let p := s.pwr
  match slotOf off 0x80 4 8, slotOf off 0xA0 4 8 with
  | some (i, 0), _ => p.staged.getD i 0 + 65536 * p.active.getD i 0
  | _, some (i, 0) => let b := p.budgets.getD i (0, 0); min 65535 b.1 + 65536 * (b.2 % 128)
  | _, _ =>
    let lo := fun (i : Nat) => p.energyNj i % 2 ^ 32
    let hi := fun (i : Nat) => (p.eLatch.getD i 0).toNat
    match off with
    | 0x00 => if 2 ≤ s.cfg.index then 1 else 0
    | 0x04 => p.ctrl.toNat
    | 0x08 => p.capNext
    | 0x0C => p.capMax
    | 0x10 =>
      (match p.change with
       | .toNominal => 2
       | .toEconomy => 2
       | _ => b2n p.economy) + 4 * p.window + 32 * b2n p.soft + 64 * b2n p.tmLost + 256 * (p.memCeil - 1) + 4096 * (p.lnkCeil - 1)
    | 0x14 => p.event.toNat
    | 0x18 => tenMw (p.hist.headD 0) 1 + 65536 * tenMw (sumNat (p.hist.take 500)) 500
    | 0x1C => tenMw (sumNat (p.hist.take 5000)) 5000 + 65536 * tenMw (sumNat (p.bins.take 1000)) 500000
    | 0x20 => p.k
    | 0x24 => p.floorBreak.toNat
    | 0x28 => p.steer.toNat
    | 0x40 => lo 0
    | 0x44 => hi 0
    | 0x48 => lo 1
    | 0x4C => hi 1
    | 0x50 => lo 2
    | 0x54 => hi 2
    | 0x58 => lo 3
    | 0x5C => hi 3
    | 0x60 => (if 2 ≤ s.cfg.index then p.trim else 0) + 256 * p.slackMin
    | 0x100 => p.logLo.toNat
    | 0x104 => p.logHi.toNat
    | 0x108 => p.logCfg.toNat
    | 0x10C => p.logTail
    | 0x110 => p.logHead
    | 0x114 => p.logDrop.toNat
    | _ => 0

/-- THM (Table 13.5). -/
def State.rdThm (s : State) (off : Nat) : Nat :=
  match off with
  | 0x00 => narrow 16 s.pwr.hot + 65536 * s.pwr.hotSensor
  | 0x04 => narrow 16 (s.pwr.thmOld.getD s.pwr.thmMax)
  | 0x08 => narrow 16 s.pwr.thmSoft
  | 0x0C => b2n s.pwr.trip + 2 * b2n s.pwr.ack + 4 * b2n s.pwr.soft
  | 0x14 => s.pwr.tripCnt.toNat
  | _ => 0

/-- FLT (Table 14.6). -/
def State.rdFlt (s : State) (off : Nat) : Nat :=
  let f := s.flt
  match slotOf off 0x40 8 16 with
  | some (i, o) =>
    if o = 0 then (match f.ssSpare.getD i none with
      | some u => u % 32 + 32
      | none => 0)
    else (f.ssFailing.getD i 0).toNat
  | none =>
    match off with
    | 0x00 => f.cfg.toNat
    | 0x04 => (List.range 8).foldl (fun m p => if s.inReset p then m + 2 ^ p else m) 0 + 256 * min 63 f.sounding.length
    | 0x08 => f.event.toNat
    | 0x10 => f.logLo.toNat
    | 0x14 => f.logHi.toNat
    | 0x18 => f.logCfg.toNat
    | 0x1C => f.logTail
    | 0x20 => f.logHead
    | 0x24 => f.logDrop.toNat
    | 0x28 => f.ce.toNat
    | 0x2C => f.ue.toNat
    | 0x30 => f.soundCnt.toNat
    | 0x34 => f.resetCnt.toNat
    | _ => 0

/-- LDS (Table 15.7). -/
def State.rdLds (s : State) (off : Nat) : Nat :=
  let l := s.lds
  let word := fun (o base : Nat) => (o - base) / 4
  if 0x10 ≤ off ∧ off < 0x30 then (l.nonce.getD (word off 0x10) 0).toNat
  else if 0x80 ≤ off ∧ off < 0xA0 then (if word off 0x80 < s.cfg.parts then l.keyMask (word off 0x80) else 0)
  else if 0xA0 ≤ off ∧ off < 0xC0 then (if word off 0xA0 < s.cfg.parts then (l.epochs.getD (word off 0xA0) 0).toNat else 0)
  else if 0x100 ≤ off ∧ off < 0x140 then (l.acc.getD (word off 0x100) 0).toNat
  else if 0x200 ≤ off ∧ off < 0x260 then leAt l.devkey (off - 0x200) 4
  else if 0x300 ≤ off ∧ off < 0x380 then (l.peers.getD (word off 0x300) 0).toNat
  else
    match off with
    | 0x00 => l.lifecycle % 256 + 256 * 16 + 65536 * (l.secVersion % 65536)
    | 0x04 => l.rptQueue.length + 8 * b2n (!l.rptQueue.isEmpty && s.reportHeld) + 16 * b2n l.keyOp.isSome
    | 0x08 => l.event.toNat
    | 0x30 => l.rptLo.toNat
    | 0x34 => l.rptHi.toNat
    | 0x3C => l.rptSeq.toNat
    | 0x48 => l.keyLo.toNat
    | 0x4C => l.keyHi.toNat
    | 0x54 => l.keyResult
    | 0x64 => (List.range 8).foldl (fun m p => if s.inScrub p then m + 2 ^ p else m) 0 + 256 * l.scrubStatus
    | 0x68 => l.sealFailCnt.toNat
    | 0x6C => l.sealFailPart + 256 * l.sealFailSeg + 4096 * (l.sealFailChunk % 2 ^ 20)
    | 0x70 => l.denyCnt.toNat
    | 0x180 => b2n l.accLock
    | 0x380 => rdLnkKey 0
    | 0x384 => if s.cfg.links = 2 then rdLnkKey 1 else 0
    | _ => 0
where
  /-- Keying of a port, as its sub-link a stands. -/
  rdLnkKey (p : Nat) : Nat :=
    let x := s.sub (2 * p)
    b2n x.keys.isSome + 2 * b2n x.peerRefused + 4 * (x.epoch % 2 ^ 14) + 65536 * (x.txCtr / 2 ^ 32 % 65536)

/-- LNK (Table 16.4). (DEDUCED, log 48) -/
def State.rdLnk (s : State) (off : Nat) : Nat :=
  let k := s.lnk
  match slotOf off 0x100 0x40 2 with
  | some (p, o) =>
    if s.cfg.links ≤ p then 0
    else
      let q := s.lport (2 * p)
      let st := fun (x : SubLink) => x.st.code + 256 * x.peer + 65536 * x.minor + 2 ^ 20 * x.width
      (match o with
       | 0x00 => q.cfg.toNat
       | 0x04 => st (s.sub (2 * p))
       | 0x08 => st (s.sub (2 * p + 1))
       | 0x0C => q.event.toNat
       | 0x10 => q.txCnt.toNat
       | 0x14 => q.rxCnt.toNat
       | 0x18 => q.replayCnt.toNat
       | _ => 0)
  | none =>
    -- LNK_NODE comes from the Almanac: until the Almanac is applied no instance is the master (DEDUCED, log 48).
    let master := fld 15 8 k.node.toNat = s.node ∧ (s.ready ∨ s.alm.phase = .clear)
    if 0x200 ≤ off ∧ off < 0x280 then (k.routes.getD ((off - 0x200) / 4) 0).toNat
    else if 0x300 ≤ off ∧ off < 0x400 then (k.hqb.getD ((off - 0x300) / 4) 0).toNat
    else if 0x400 ≤ off ∧ off < 0x480 then
      (let e := k.cjob.getD ((off - 0x400) / 8) (0, 0); if off % 8 = 0 then e.1.toNat else e.2.toNat)
    else
      match off with
      | 0x00 => 0x0104 + 65536 * s.cfg.links
      | 0x04 => k.node.toNat
      | 0x08 =>
        b2n (master || k.synced) + 2 * b2n master + 256 * narrow 8 (max (-128) (min 127 k.offset)) + 65536 * (if master then 0 else k.hops % 256)
      | 0x0C => k.hqInflight % 256
      | _ => 0

/-- The block's own version of each port group (Table 0.2). -/
def ownVersion (g : Nat) : Nat := [0x0201, 0x0300, 0x0100, 0x0102, 0x0104, 0x0101, 0x0100].getD g 0

/-- ALM (Table 17.6). -/
def State.rdAlm (s : State) (off : Nat) : Nat :=
  let a := s.alm
  match slotOf off 0x40 4 7 with
  | some (g, 0) => ownVersion g + 65536 * a.agreed.getD g 0
  | some _ => 0
  | none =>
    match off with
    | 0x00 => a.st.code + 8 * a.copy + 32 * b2n a.busy + 64 * b2n a.done + 128 * b2n a.overflow
    | 0x04 => a.copyA.1 + 65536 * b2n a.copyA.2
    | 0x08 => a.copyB.1 + 65536 * b2n a.copyB.2
    | 0x0C => a.seq % 2 ^ 32
    | 0x10 => a.mode + 8 * a.nvSpeed + 32 * b2n a.addr4
    | 0x20 => a.srcLo.toNat
    | 0x24 => a.srcHi.toNat
    | 0x28 => a.len
    | 0x30 => a.result
    | _ => 0

/-! ## Partition pages -/

/-- Pending-fault entries of a partition. -/
def State.pendCount (s : State) (p : Nat) : Nat :=
  ((s.cht.stops.flatMap WalkStop.pend).filter (fun x => x.part = p)).length

/-- The PRT page of a partition (Tables 3.7, 8.6, 9.7, 10.9, 12.5). -/
def State.rdPrt (s : State) (p off : Nat) : Nat :=
  let q := s.part p
  let share := fun (l : List Nat) (i : Nat) => l.getD i 0 + 65536 * l.getD (i + 1) 0
  let segs := slotOf off 0x400 16 16
  let rings := slotOf off 0x600 16 8
  let vecs := slotOf off 0x6C0 16 4
  if s.cfg.parts ≤ p then 0
  else if 0x200 ≤ off ∧ off < 0x300 then
    let n := (off - 0x200) / 4
    let h := s.hq p n
    let used := s.grid.jobs.any (fun j => j.part = p && j.hqMask.testBit n && (j.phase = .running || j.phase = .record))
    h.q.length + 64 * b2n used + 256 * (h.gets.length % 256) + 65536 * (h.refused.length % 256)
  else
    match segs, rings, vecs with
    | some (n, o), _, _ =>
      let g := q.segs.getD n Seg.zero
      (match o with
       | 0 => g.baseLo.toNat
       | 4 => g.baseHi.toNat
       | 8 => g.limit.toNat
       | _ => g.attr.toNat)
    | _, some (r, o), _ =>
      let x := s.ring p r
      (match o with
       | 0 => x.baseLo.toNat
       | 4 => x.baseHi.toNat
       | 8 => x.cfg.toNat
       | _ => 0)
    | _, _, some (v, o) => (q.msi.getD v Msi.reset).rd o
    | _, _, _ =>
      match off with
      | 0x00 => b2n q.enable + 256 * q.floor
      | 0x04 => q.cores.toNat
      | 0x08 => q.ssBase + 256 * q.ssUnits
      | 0x0C => b2n q.enable + 2 * b2n (!s.hasJob p) + 4 * b2n q.cfgErr
      | 0x10 => share q.stage 0
      | 0x14 => share q.stage 2
      | 0x18 => share q.share 0
      | 0x1C => share q.share 2
      | 0x20 => q.coreTicks % 2 ^ 32
      | 0x24 => q.ticksLatch.toNat
      | 0x28 => q.missCnt.toNat
      | 0x2C => q.reportSeq.toNat
      | 0x30 => min 65535 q.slow.1 + 65536 * (q.slow.2 % 65536)
      | 0x34 => min (2 ^ 32 - 1) (q.wait.getD 0 0)
      | 0x38 => min (2 ^ 32 - 1) (q.wait.getD 3 0)
      | 0x3C => min (2 ^ 32 - 1) (q.wait.getD 2 0)
      | 0x40 => min (2 ^ 32 - 1) (q.wait.getD 1 0)
      | 0x60 => q.stkeep.toNat
      | 0x300 => q.hqInflight % 256 + 256 * q.hqMax
      | 0x304 => q.hqPut.toNat
      | 0x308 => q.hqGet.toNat
      | 0x500 => q.fringLo.toNat
      | 0x504 => q.fringHi.toNat
      | 0x508 => q.fringCfg.toNat
      | 0x50C => q.fringTail
      | 0x510 => q.fringHead
      | 0x520 => q.faultCnt.toNat
      | 0x524 => q.staleCnt.toNat
      | 0x528 => s.pendCount p % 128 + 128 * b2n (!q.fringWait.isEmpty && ringFull q.fringK q.fringHead q.fringTail)
      | 0x680 => q.cringLo.toNat
      | 0x684 => q.cringHi.toNat
      | 0x688 => q.cringCfg.toNat
      | _ => 0

/-- The control page of a partition (Table 10.8). -/
def State.rdCtl (s : State) (p off : Nat) : Nat :=
  let q := s.part p
  if s.cfg.parts ≤ p then 0
  else
    match slotOf off 0x40 16 8 with
    | some (r, o) =>
      let x := s.ring p r
      (match o with
       | 0 => x.head.toNat
       | 4 => x.tail.toNat
       | 8 =>
         min 15 (s.pendingCount p r) + 16 * b2n x.hot + 32 * b2n x.ahead + 64 * b2n x.retrying + 256 * x.overflows +
           65536 * (if x.hot then x.pinnedGen.toNat else 0)
       | _ => x.stamp.toNat + 65536 * x.gen.toNat)
    | none =>
      match off with
      | 0x08 => q.winStep
      | 0x10 => q.cringHead
      | 0x14 => q.cringTail
      | 0x18 =>
        b2n (s.inScrub p) + 2 * b2n (s.grid.records.any (fun r => r.part = p && r.issued.isNone)) +
          4 * (List.range 8).foldl (fun m r => if (s.ring p r).hot then m + 2 ^ r else m) 0
      | 0x1C => q.winDrops + 65536 * q.bellDrops
      | _ => 0

/-! ## CORE pages -/

/-- A count in a field. -/
def cap (w n : Nat) : Nat := min (2 ^ w - 1) n

/-- Bits of the slots a predicate admits. -/
def slotBits (l : List StrSlot) (p : StrSlot → Bool) : Nat :=
  (List.range 6).foldl (fun m i => if p (l.getD i StrSlot.idle0) then m + 2 ^ i else m) 0

/-- STR_STATUS. -/
def State.strStatus (s : State) (c : Nat) : Nat :=
  let u := (s.core c).str
  let out := s.writesOut c
  slotBits u.slots (fun x => x.st ≠ .idle) + 64 * slotBits u.slots (fun x => x.st = .halted) + 2 ^ 12 * cap 4 (u.queue.length + (u.slots.filter (fun x => x.st ≠ .idle)).length) +
    2 ^ 16 * cap 6 (s.readsOut c) + 2 ^ 22 * cap 5 out

def Task.rd (k : Task) : Nat :=
  k.pc % 2 ^ 18 + 2 ^ 18 * k.st.code + 2 ^ 20 * (if k.st = .waiting then k.wait.code else 0) + 2 ^ 24 * cap 3 k.loops.length

/-- CORE_BAR_STATUS. -/
def Core.barStatus (c : Core) : Nat :=
  let openBars := (c.msg.arr.filter (fun e => Sparse.get 0#16 c.msg.done e.1 ≠ e.2)).length
  let rel := (List.range 4).foldl (fun m t => if (c.tasks.toList.getD t Task.idle0).rels.isEmpty then m else m + 2 ^ t) 0
  c.msg.lastBar % 256 + 256 * cap 8 openBars + 65536 * rel

/-- Half states of buffers 8k to 8k + 7. -/
def StreamUnit.halves (u : StreamUnit) (k : Nat) : Nat :=
  (List.range 8).foldl (fun m j =>
    let b := u.bufs.getD (8 * k + j) Buf.undef
    m + 16 ^ j * (b.h0.st.code + 4 * b.h1.st.code)) 0

/-- The CORE page of an offered logical core. (DESIGN CHOICE, log 9) (DEDUCED, log 47) -/
def State.rdCore (s : State) (n off : Nat) : Nat :=
  let c := s.core n
  let q := c.seq
  let word := fun (base : Nat) => (off - base) / 4
  let phys := (s.grid.remap.getD n ⟨0, 0, 0⟩).phys
  if s.cfg.cores ≤ n then 0
  else if 0x120 ≤ off ∧ off < 0x130 then (c.tasks.toList.getD (word 0x120) Task.idle0).rd
  else if 0x420 ≤ off ∧ off < 0x430 then c.arr.repair.getD (word 0x420) 0
  else if 0x540 ≤ off ∧ off < 0x580 then (c.elm.shReg (word 0x540)).toNat
  else if 0x840 ≤ off ∧ off < 0x8A0 then
    let x := c.str.slots.getD ((off - 0x840) / 16) StrSlot.idle0
    let i := fun (k : Nat) => x.pos5.getD k 0 % 65536
    (match off % 16 with
     | 0 => x.st.code + 4 * (x.idx % 16) + 64 * ((x.descs.length - 1) % 16) + 1024 * b2n x.late
     | 4 => i 0 + 65536 * i 1
     | 8 => i 2 + 65536 * i 3
     | _ => i 4 + 65536 * (x.posIdx % 16))
  else if 0x900 ≤ off ∧ off < 0xA00 then
    let b := c.str.bufs.getD (word 0x900) Buf.undef
    b.h0.gen.toNat + 65536 * b.h1.gen.toNat
  else if 0xA00 ≤ off ∧ off < 0xA20 then c.str.halves (word 0xA00)
  else
    match off with
    | 0x100 => (q.running.getD q.last).val + 4 * b2n (q.started && q.running.isNone) + 8 * b2n q.parked + 16 * b2n q.stop.isSome
    | 0x104 => q.issueCnt.toNat
    | 0x108 => q.stallCnt.toNat
    | 0x10C => q.switchCnt.toNat
    | 0x110 => q.errPc.toNat
    | 0x114 => (c.img.tag.setWidth 32 : Word).toNat
    | 0x118 => ((c.img.tag >>> 32).setWidth 32 : Word).toNat
    | 0x11C => b2n c.img.valid + 2 * b2n c.park.isSome
    | 0x300 => c.fl.toWord.toNat
    | 0x304 => q.seed.toNat
    | 0x400 => c.arr.status.toNat
    | 0x404 => c.arr.cnt.issue.toNat
    | 0x408 => c.arr.cnt.frzBcast.toNat
    | 0x40C => c.arr.cnt.frzFeed.toNat
    | 0x410 => c.arr.cnt.frzDrain.toNat
    | 0x414 => c.arr.cnt.throttle.toNat
    | 0x418 => c.arr.cnt.stkeep.toNat
    | 0x500 => (c.elm.status (c.depth .element)).toNat
    | 0x504 => c.elm.cnt.vec.toNat
    | 0x508 => c.elm.cnt.bubble.toNat
    | 0x50C => c.elm.cnt.hold.toNat
    | 0x510 => c.elm.cnt.stateWait.toNat
    | 0x514 => c.elm.cnt.swapIn.toNat
    | 0x518 => c.elm.loaded.toNat
    | 0x600 => c.cnv.status.toNat
    | 0x604 => b2n c.cnv.degen
    | 0x608 => c.cnv.vecCnt.toNat
    | 0x60C => c.cnv.readCnt.toNat
    | 0x610 => c.cnv.waitCnt.toNat
    | 0x700 => cap 5 c.msg.entries.length + 256 * cap 5 c.msg.pool + 65536 * cap 6 c.msg.reqList.length
    | 0x704 => c.msg.sendCnt.toNat
    | 0x708 => c.msg.recvCnt.toNat
    | 0x70C => q.wptWait.toNat
    | 0x710 => c.barStatus
    | 0x800 => s.strStatus n
    | 0x804 => c.str.rdKib.toNat
    | 0x808 => c.str.wrKib.toNat
    | 0x80C => c.str.late.toNat
    | 0x810 => c.str.fault.toNat
    | 0x814 => c.str.sealChunk.toNat
    | 0xB00 => c.mmu.missCnt.toNat
    | 0xC00 =>
      let k := s.pwr.cores.getD n PwrCore.reset
      c.arr.limit % 128 + 256 * k.div + 2 ^ 13 * s.ecoDiv n + 2 ^ 24 * (if 2 ≤ s.cfg.index then k.slack else 0)
    | 0xC04 =>
      let k := s.pwr.cores.getD n PwrCore.reset
      -- The marker is CSR 0x030 itself, which the end of a phase instance does not change (DEDUCED, log 47).
      c.seq.phase.toNat + 65536 * b2n k.granted
    | 0xD00 =>
      (match s.flt.spareBank.getD phys none with
       | some b => b % 64 + 64
       | none => 0) +
        256 * min 255 (((s.flt.trans.filter (fun e => (e.1.kind = 0 ∨ 2 ≤ e.1.kind ∧ e.1.kind ≤ 4) ∧ e.1.idx = phys)).map Prod.snd).foldl
          max 0)
    | _ => 0

/-! ## The map -/

/-- A register's value by page (Table 18.11). -/
def State.regRead (s : State) (page off : Nat) : Nat :=
  if 0x10 ≤ page ∧ page < 0x18 then s.rdPrt (page - 0x10) off
  else if 0x20 ≤ page ∧ page < 0x28 then s.rdCtl (page - 0x20) off
  else if 0x100 ≤ page ∧ page < 0x120 then s.rdCore (page - 0x100) off
  else
    match page with
    | 0x0 => s.rdGlb off
    | 0x1 => s.rdBnc off
    | 0x2 => s.rdHst off
    | 0x3 => s.rdPrtCommon off
    | 0x4 => s.rdCht off
    | 0x5 => s.rdItk off
    | 0x6 => s.rdFrm off
    | 0x7 => s.rdPwr off
    | 0x8 => s.rdThm off
    | 0x9 => s.rdFlt off
    | 0xA => s.rdLds off
    | 0xB => s.rdLnk off
    | 0xC => s.rdAlm off
    | _ => 0

/-- What reading a register does: counters' low words latch their high words, THM_MAX is cleared, but for what
an event of the same F-cycle has put there (R13, R15, R410, R440, R540). -/
def State.readEffect (s : State) (page off : Nat) : State :=
  if page = 0 ∧ off = 0x28 then { s with clk := { s.clk with latch := BitVec.ofNat 32 (s.tick / 2 ^ 32) } }
  else if 0x10 ≤ page ∧ page < 0x18 ∧ off = 0x20 then
    s.modPart (page - 0x10) (fun q => { q with ticksLatch := BitVec.ofNat 32 (q.coreTicks / 2 ^ 32) })
  else if page = 7 ∧ 0x40 ≤ off ∧ off < 0x60 ∧ off % 8 = 0 then
    let i := (off - 0x40) / 8
    s.modPwr (fun p => { p with eLatch := setAt p.eLatch i (BitVec.ofNat 32 (p.energyNj i / 2 ^ 32)) })
  else if page = 8 ∧ off = 4 then s.modPwr (fun p => { p with thmMax := if p.thmOld.isSome then p.thmNow else -32768, thmOld := none })
  else s

/-- A read response queued. (DESIGN CHOICE, log 73) -/
def State.respond (s : State) (v : Nat) : State := { s with reads := s.reads ++ [BitVec.ofNat 64 v] }

/-- A register access of a read (R538): 1 B and 2 B reads return the bytes addressed; an 8 B access reads two registers. -/
def State.pageRead (s : State) (page off size : Nat) : State :=
  if size = 3 then
    let lo := s.regRead page off
    let hi := s.regRead page (off + 4)
    ((s.readEffect page off).readEffect page (off + 4)).respond (lo + 2 ^ 32 * hi)
  else
    let base := off / 4 * 4
    let v := s.regRead page base
    (s.readEffect page base).respond (v / 256 ^ (off % 4) % 256 ^ (2 ^ size))

/-- A host read at an address: refused, misaligned and absent ones return 0 (R328, R331, R505, R538).
(DESIGN CHOICE, log 73) -/
def State.hostRead (s : State) (mid : BitVec 8) (a size : Nat) : State :=
  let n := 2 ^ size
  if s.pw.preparing || s.pw.ack then s
  else if a % n ≠ 0 || !s.portServes a || !s.admits mid a then s.respond 0
  else
    match s.target a with
    | .mem p pl => s.memRead p pl n
    | .page pg off => s.pageRead pg off size
    | .ctl p off => s.pageRead (0x20 + p) off size
    | .none => s.respond 0

end Sys2Proof.Machine
end

