-- ==== Sys2Proof/Machine/RegWrite.lean ====
section
/-! DEFINITION. What a 4 B write to each register does, page by page (Tables 18.11 and 0.4); only ALM_CTRL and the 64-bit
registers are elsewhere. -/

namespace Sys2Proof.Machine

/-- A written value kept under a mask. -/
def kept (mask v : Nat) : Word := BitVec.ofNat 32 (v &&& mask)

/-- A W1C register after a write: each 1 clears its bit. -/
def w1c (w : Word) (v : Nat) : Word := w &&& ~~~(BitVec.ofNat 32 v)

/-- A flag under a W1C write of bit i. -/
def w1cBit (b : Bool) (i v : Nat) : Bool := b && !v.testBit i

/-- A message vector's register at offset o (Tables 10.9 and 10.11). -/
def Msi.wr (m : Msi) (o v : Nat) : Msi :=
  match o with
  | 0x0 => { m with addrLo := kept 0xFFFFFFFC v }
  | 0x4 => { m with addrHi := BitVec.ofNat 32 v }
  | 0x8 => { m with data := BitVec.ofNat 32 v }
  | 0xC => { m with enable := v.testBit 0 }
  | _ => m

/-! ## Control-stop pages -/

def State.wrHst (s : State) (off v : Nat) : State :=
  if 0x10 ≤ off ∧ off < 0x20 then s.modGrid (fun g => { g with gmsi := g.gmsi.wr (off - 0x10) v }) else s

/-- A wake rule's register (R408). -/
def WakeRule.wr (w : WakeRule) (o v : Nat) : WakeRule :=
  match o with
  | 0x00 => { w with ctrl := kept 0x7FF v ||| w1c (w.ctrl &&& 0x800#32) v }
  | 0x04 => { w with addr := kept 0x1FFFFC v }
  | 0x08 => { w with thresh := BitVec.ofNat 32 v }
  | 0x10 => { w with bellLo := BitVec.ofNat 32 v }
  | 0x14 => { w with bellHi := BitVec.ofNat 32 v }
  | _ => w

def State.wrPrtCommon (s : State) (off v : Nat) : State :=
  match slotOf off 0x40 32 8 with
  | some (n, o) => s.modGrid (fun g => { g with wakes := modAt g.wakes n (fun w => w.wr o v) })
  | none =>
    match off with
    | 0x00 => s.shareCommit
    | 0x04 => s.modGrid (fun g => { g with shareErr := w1cBit g.shareErr 0 v })
    | 0x08 => s.modGrid (fun g => { g with slack := BitVec.ofNat 32 v })
    | 0x0C => s.modGrid (fun g => { g with reportMsg := v.testBit 0 })
    | 0x10 => s.watchCtrl v
    | 0x14 => s.modGrid (fun g => { g with watchRefused := w1cBit g.watchRefused 2 v })
    | _ => s

def State.wrCht (s : State) (off v : Nat) : State :=
  match slotOf off 0x80 16 16 with
  | some (n, o) =>
    s.modCht (fun c => { c with inwin := modAt c.inwin n (fun (w : Nat × Nat × Nat) =>
      match o with
      | 0 => (v % 256, w.2.1, w.2.2)
      | 4 => (w.1, v % 2 ^ 28, w.2.2)
      | 8 => (w.1, w.2.1, v % 2 ^ 28)
      | _ => w) })
  | none =>
    match off with
    | 0x20 => s.modCht (fun c => { c with editIndex := v % 2 ^ 25 })
    | 0x24 => s.modCht (fun c => { c with editValue := BitVec.ofNat 32 v })
    | 0x28 => s.editGo v
    | 0x2C => s.modCht (fun c => { c with
        editDone := w1cBit c.editDone 1 v, editRefused := w1cBit c.editRefused 2 v, editOver := w1cBit c.editOver 3 v })
    | 0x30 => s.modCht (fun c => { c with invFirst := v % 2 ^ 25 })
    | 0x34 => s.modCht (fun c => { c with invCount := v % 2 ^ 25 })
    | 0x38 => s.modCht (fun c => { c with invSegs := v % 2 ^ 19 })
    | 0x3C => s.invGo v
    | 0x40 => s.modCht (fun c => { c with invDone := w1cBit c.invDone 4 v, invOver := w1cBit c.invOver 5 v })
    | 0x48 => s.modCht (fun c => { c with moveHome := c.moveHome / 2 ^ 32 * 2 ^ 32 + fld 31 16 v * 65536 })
    | 0x4C => s.modCht (fun c => { c with moveHome := c.moveHome % 2 ^ 32 + v % 65536 * 2 ^ 32 })
    | 0x50 => s.moveGo v
    | 0x54 => s.modCht (fun c => { c with moveDone := w1cBit c.moveDone 1 v, moveOver := w1cBit c.moveOver 2 v })
    | _ => s

/-- A session's configuration register; ignored while the session is enabled (R383). -/
def Session.wr (x : Session) (o v : Nat) : Session :=
  if x.cfg.getLsbD 4 then x
  else
    match o with
    | 0x00 => { x with sringLo := kept 0xFFFFFFC0 v }
    | 0x04 => { x with sringHi := kept 0xFFFF v }
    | 0x0C => { x with outLo := kept 0xFFFFF000 v }
    | 0x10 => { x with outHi := kept 0xFFFF v }
    | 0x14 => { x with outCfg := kept 0x1FFFF v }
    | 0x18 => { x with outShape := BitVec.ofNat 32 v }
    | 0x1C => { x with stride := kept 0xFFFFF v }
    | 0x20 => { x with scrLo := kept 0xFFFFF000 v }
    | 0x24 => { x with scrHi := kept 0xFFFFFFF v }
    | 0x28 => { x with budget := BitVec.ofNat 32 v }
    | 0x2C => { x with pad := kept 0x1FFFFF v }
    | _ => x

def State.wrItk (s : State) (off v : Nat) : State :=
  match slotOf off 0x100 0x80 8 with
  | none => s
  | some (p, o) =>
    if s.cfg.parts ≤ p then s
    else if 0x50 ≤ o ∧ o < 0x60 then s.modSes p (fun x => { x with msi := x.msi.wr (o - 0x50) v })
    else
      match o with
      | 0x08 => s.itkCfg p v
      | 0x34 => s.modSes p (fun x => { x with event := x.event &&& ((2 ^ 32 - 1) ^^^ (v % 2 ^ 32)) })
      | 0x60 => s.itkBell p v
      | 0x68 => s.itkFlush p
      | 0x6C => s.batchFree p v
      | _ => s.modSes p (fun x => x.wr o v)

/-- A stream's configuration register; ignored while the stream is enabled (R383). -/
def FStream.wr (f : FStream) (o v : Nat) : FStream :=
  if f.on then f
  else
    match o with
    | 0x04 => { f with inShape := BitVec.ofNat 32 v }
    | 0x08 => { f with outShape := BitVec.ofNat 32 v }
    | 0x0C => { f with stale := BitVec.ofNat 32 v }
    | 0x10 => { f with stageLo := kept 0xFFFFF000 v }
    | 0x14 => { f with stageHi := kept 0xFFFF v }
    | 0x18 => { f with outLo := kept 0xFFFFF000 v }
    | 0x1C => { f with outHi := kept 0xFFFF v }
    | 0x20 => { f with recLo := kept 0xFFFFFFC0 v }
    | 0x24 => { f with recHi := kept 0xFFFF v }
    | _ => f

def State.wrFrm (s : State) (off v : Nat) : State :=
  match slotOf off 0x100 0x40 6 with
  | none => s
  | some (n, o) =>
    match o with
    | 0x00 => s.frmCtrl n v
    | 0x28 => s.frmHead n v
    | 0x30 => s.frmFree n v
    | _ => s.modFst n (fun f => f.wr o v)

def State.wrPwr (s : State) (off v : Nat) : State :=
  match slotOf off 0x80 4 8 with
  | some (i, 0) => s.modPwr (fun p => { p with staged := setAt p.staged i (v % 2 ^ 11) })
  | _ =>
    match off with
    | 0x04 => s.modPwr (fun p => { p with ctrl := kept 0x1F v, k := if v.testBit 0 then p.k else 4096 })
    | 0x08 => s.capWrite v
    | 0x14 => s.modPwr (fun p => { p with event := w1c p.event v })
    | 0x28 => s.steerWrite v
    | 0x2C => s.pwrCommit
    | 0x100 => s.modPwr (fun p => { p with logLo := kept 0xFFFFFFE0 v })
    | 0x104 => s.modPwr (fun p => { p with logHi := kept 0xFFFF v })
    | 0x108 => s.modPwr (fun p =>
        let q := { p with logCfg := kept 0x1F v }
        if v.testBit 4 && !p.logCfg.getLsbD 4 then { q with logTail := 0, logHead := 0 } else q)
    | 0x110 => s.modPwr (fun p => { p with logHead := v % 2 ^ 13 })
    | _ => s

def State.wrThm (s : State) (off v : Nat) : State :=
  match off with
  | 0x08 => s.modPwr (fun p => { p with thmSoft := sext 16 (v % 65536) })
  | 0x10 => s.tripAck
  | _ => s

def State.wrFlt (s : State) (off v : Nat) : State :=
  let f := s.flt
  match off with
  | 0x00 => { s with flt := { f with cfg := kept 0xF0F v } }
  | 0x08 => { s with flt := { f with event := w1c f.event v } }
  | 0x10 => { s with flt := { f with logLo := kept 0xFFFFFFE0 v } }
  | 0x14 => { s with flt := { f with logHi := kept 0xFFFF v } }
  | 0x18 =>
    let g := { f with logCfg := kept 0x3F v }
    { s with flt := if v.testBit 4 && !f.logCfg.getLsbD 4 then { g with logTail := 0, logHead := 0, logSeq := 0 } else g }
  | 0x20 => { s with flt := { f with logHead := v % 2 ^ 13 } }
  | _ => s

def State.wrLds (s : State) (off v : Nat) : State :=
  if 0x10 ≤ off ∧ off < 0x30 then s.modLds (fun l => { l with nonce := setAt l.nonce ((off - 0x10) / 4) (BitVec.ofNat 32 v) })
  else if 0x100 ≤ off ∧ off < 0x140 then s.accWrite ((off - 0x100) / 4) v
  else if 0x300 ≤ off ∧ off < 0x380 then s.peerWrite ((off - 0x300) / 4) v
  else
    match off with
    | 0x08 => s.modLds (fun l => { l with event := w1c l.event v })
    | 0x30 => s.modLds (fun l => { l with rptLo := kept 0xFFFFFFC0 v })
    | 0x34 => s.modLds (fun l => { l with rptHi := kept 0xFFFF v })
    | 0x38 => s.reportRequest v
    | 0x48 => s.modLds (fun l => { l with keyLo := kept 0xFFFFFFC0 v })
    | 0x4C => s.modLds (fun l => { l with keyHi := kept 0xFFFF v })
    | 0x50 => (s.keyInstall v).keyClear v
    | 0x60 => s.scrubGo v
    | 0x180 => s.accLock v
    | _ => s

def State.wrLnk (s : State) (off v : Nat) : State :=
  match slotOf off 0x100 0x40 2 with
  | some (p, o) =>
    if s.cfg.links ≤ p then s
    else
      match o with
      | 0x00 => s.lnkCfg p v
      | 0x0C => s.modPort (2 * p) (fun q => { q with event := w1c q.event (v % 8) })
      | _ => s
  | none =>
    if 0x200 ≤ off ∧ off < 0x280 then s.lnkRoute ((off - 0x200) / 4) v
    else if 0x300 ≤ off ∧ off < 0x400 then
      s.modLnk (fun k => { k with hqb := setAt k.hqb ((off - 0x300) / 4) (kept 0x3FFFF v) })
    else if 0x400 ≤ off ∧ off < 0x480 then
      s.modLnk (fun k => { k with cjob := modAt k.cjob ((off - 0x400) / 8) (fun (e : Word × Word) =>
        if off % 8 = 0 then (BitVec.ofNat 32 v, e.2) else (e.1, kept 0xF v)) })
    else if off = 4 then s.modLnk (fun k => { k with node := kept 0xFFFF v })
    else s

def State.wrAlm (s : State) (off v : Nat) : State :=
  let a := s.alm
  match off with
  | 0x00 => { s with alm := { a with done := w1cBit a.done 6 v, overflow := w1cBit a.overflow 7 v } }
  | 0x20 => { s with alm := { a with srcLo := kept 0xFFFFFFC0 v } }
  | 0x24 => { s with alm := { a with srcHi := kept 0xFFFF v } }
  | 0x28 => { s with alm := { a with len := v % 2 ^ 23 } }
  | _ => s

/-! ## Partition pages -/

/-- A segment's register (Table 9.1). -/
def Seg.wr (g : Seg) (o v : Nat) : Seg :=
  match o with
  | 0 => { g with baseLo := kept 0xFFFF0000 v }
  | 4 => { g with baseHi := kept 0xFFFF v }
  | 8 => { g with limit := kept 0xFFFFFFF v }
  | _ => { g with attr := kept 0xFFFFFF9F v }

/-- A staged pair of shares: [10:0] and [26:16]. -/
def State.stage (s : State) (p i v : Nat) : State :=
  s.modPart p (fun q => { q with stage := setAt (setAt q.stage i (fld 10 0 v)) (i + 1) (fld 26 16 v) })

def State.wrPrt (s : State) (p off v : Nat) : State :=
  let segs := slotOf off 0x400 16 16
  let rings := slotOf off 0x600 16 8
  let vecs := slotOf off 0x6C0 16 4
  if s.cfg.parts ≤ p then s
  else
    match segs, rings, vecs with
    | some (n, o), _, _ => s.modPart p (fun q => { q with segs := modAt q.segs n (fun g => g.wr o v) })
    | _, some (r, o), _ =>
      let set := fun (f : Ring → Ring) => if (s.ring p r).cfg.getLsbD 4 then s else s.modRing p r f
      (match o with
       | 0 => set (fun q => { q with baseLo := kept 0xFFFFFF80 v })
       | 4 => set (fun q => { q with baseHi := kept 0xFFFF v })
       | 8 => s.ringCfg p r v
       | _ => s)
    | _, _, some (k, o) => s.modPart p (fun q => { q with msi := modAt q.msi k (fun m => m.wr o v) })
    | _, _, _ =>
      match off with
      | 0x00 => s.prtCtrl p v
      | 0x04 => s.prtCores p v
      | 0x08 => s.prtSs p v
      | 0x0C => s.modPart p (fun q => { q with cfgErr := w1cBit q.cfgErr 2 v })
      | 0x10 => s.stage p 0 v
      | 0x14 => s.stage p 2 v
      | 0x60 => s.modPart p (fun q => { q with stkeep := kept 0xFF v })
      | 0x500 => s.modPart p (fun q => { q with fringLo := kept 0xFFFFFFC0 v })
      | 0x504 => s.modPart p (fun q => { q with fringHi := kept 0xFFFF v })
      | 0x508 => s.fringCfg p v
      | 0x510 => s.fringHead p v
      | 0x680 => s.modPart p (fun q => { q with cringLo := kept 0xFFFFFFC0 v })
      | 0x684 => s.modPart p (fun q => { q with cringHi := kept 0xFFFF v })
      | 0x688 => s.cringCfg p v
      | _ => s

/-- HST_WIN_BASE (R330). -/
def State.winBase (s : State) (p v : Nat) : State := s.modPart p (fun q => { q with winStep := v % 2 ^ 11 })

def State.wrCtl (s : State) (p off v : Nat) : State :=
  if s.cfg.parts ≤ p then s
  else
    match slotOf off 0x40 16 8 with
    | some (r, 8) => s.modRing p r (fun q => { q with ahead := w1cBit q.ahead 5 v })
    | some _ => s
    | none =>
      match off with
      | 0x00 => s.dropBell p
      | 0x04 => s.dropBell p
      | 0x08 => s.winBase p v
      | 0x0C => s.unpin p (fld 2 0 v)
      | 0x10 => s.cringHead p v
      | _ => s

/-! ## CORE pages -/

def State.wrCore (s : State) (n off v : Nat) : State :=
  if s.cfg.cores ≤ n then s
  else
    match off with
    | 0x300 => s.modCore n (fun c => { c with fl := (c.fl.clearBy (BitVec.ofNat 32 v)).or c.flNow })
    | 0x604 => s.modCore n (fun c => { c with cnv := { c.cnv with degen := w1cBit c.cnv.degen 0 v || c.cnv.degenNow } })
    | _ => s

/-! ## The map -/

/-- A 4 B write to a register by page and offset; registers that software cannot write, and absent ones, drop it. A
W1C bit that an event has set in the same F-cycle stays set (R14). -/
def State.regWrite (s : State) (page off v : Nat) : State :=
  let v := s.unhit page off v
  if 0x10 ≤ page ∧ page < 0x18 then s.wrPrt (page - 0x10) off v
  else if 0x20 ≤ page ∧ page < 0x28 then s.wrCtl (page - 0x20) off v
  else if 0x100 ≤ page ∧ page < 0x120 then s.wrCore (page - 0x100) off v
  else
    match page with
    | 0x2 => s.wrHst off v
    | 0x3 => s.wrPrtCommon off v
    | 0x4 => s.wrCht off v
    | 0x5 => s.wrItk off v
    | 0x6 => s.wrFrm off v
    | 0x7 => s.wrPwr off v
    | 0x8 => s.wrThm off v
    | 0x9 => s.wrFlt off v
    | 0xA => s.wrLds off v
    | 0xB => s.wrLnk off v
    | 0xC => s.wrAlm off v
    | _ => s

end Sys2Proof.Machine
end

