-- ==== Sys2Proof/Machine/AlmanacUnit.lean ====
section
/-! DEFINITION. Start-up, the Almanac image, its checks and its sections, programming and activation, power-down (sections
17 and 18). -/

namespace Sys2Proof.Machine

def State.modAlm (s : State) (f : Almanac → Almanac) : State := { s with alm := f s.alm }

/-! ## The image (R508, R509) -/

/-- A section entry: type, offset, size, and its reserved fields. -/
structure AlmSect where
  type : Nat
  off : Nat
  size : Nat
  res : Nat
deriving DecidableEq, Repr

def almLen (b : List Byte) : Nat := leAt b 8 4
def almSeq (b : List Byte) : Nat := leAt b 0xC 4

def almSects (b : List Byte) : List AlmSect :=
  (List.range (min 16 (leAt b 6 2))).map (fun i =>
    let o := 0x100 + 16 * i
    ⟨leAt b o 2, leAt b (o + 4) 4, leAt b (o + 8) 4, leAt b (o + 2) 2 + leAt b (o + 12) 4⟩)

/-- Bytes of the section of a type; none when it is absent. -/
def almSect (b : List Byte) (type : Nat) : List Byte :=
  match (almSects b).find? (fun x => x.type = type) with
  | some x => slice b x.off x.size
  | none => []

/-- Check 1: magic, version, length, reserved fields. (DEDUCED, log 24) -/
def almHeaderOk (b : List Byte) : Bool :=
  leAt b 0 4 = 0x434E4D41 && leAt b 4 2 = 0x100 && 0x400 ≤ almLen b && almLen b ≤ 2 ^ 22 && almLen b % 16 = 0 &&
    leAt b 0x14 4 = 0 && (slice b 0xA8 0x58).all (fun x => x = 0#8)

/-- Two sections share a byte. -/
def AlmSect.meets (x y : AlmSect) : Bool := 0 < x.size && 0 < y.size && x.off < y.off + y.size && y.off < x.off + x.size

def noneMeet : List AlmSect → Bool
  | [] => true
  | x :: xs => xs.all (fun y => !x.meets y) && noneMeet xs

/-- Check 2: the section table, and firmware of at most 1 MiB. A power policy shorter than its fixed part is refused. -/
def almTableOk (b : List Byte) : Bool :=
  let l := almSects b
  let count := fun (t : Nat) => (l.filter (fun x => x.type = t)).length
  let n := leAt b 6 2
  1 ≤ n && n ≤ 16 &&
    l.all (fun x => 1 ≤ x.type && x.type ≤ 5 && x.res = 0 && x.off % 16 = 0 && 0x100 + 16 * n ≤ x.off &&
      x.off + x.size ≤ almLen b - 96) &&
    count 1 = 1 && count 3 = 1 && count 4 = 1 && count 5 = 1 && count 2 ≤ 1 && noneMeet l &&
    l.all (fun x => (x.type ≠ 1 || x.size ≤ 2 ^ 20) && (x.type ≠ 4 || 144 ≤ x.size))

/-- The digest the header must hold. (DEDUCED, log 25) -/
def almDigest (b : List Byte) : List Byte := sha384 (slice b 0 0x78 ++ slice b 0x100 (almLen b - 352))

/-! ## Interface versions (R513, R514) -/

/-- The partner's version of a group: its entry's, else the block's own. (DEDUCED, log 26) -/
def partnerVersion (ivt : List Byte) (g : Nat) : Nat :=
  match (List.range (ivt.length / 4)).find? (fun i => leAt ivt (4 * i) 1 = g) with
  | some i => leAt ivt (4 * i + 2) 2
  | none => ownVersion g

/-- The agreed version of a group; 0 where the major numbers differ. (DEDUCED, log 26) -/
def agreedVersion (ivt : List Byte) (g : Nat) : Nat :=
  let own := ownVersion g
  let p := partnerVersion ivt g
  if own / 256 = p / 256 then own / 256 * 256 + min (own % 256) (p % 256) else 0

def versionsOk (ivt : List Byte) : Bool := [0, 1, 5, 6].all (fun g => agreedVersion ivt g ≠ 0)

/-! ## Sections (R511, R512) -/

/-- Physical cores the overlay marks bad. -/
def overlayBad (b : List Byte) : List Nat := (List.range 34).filter (fun i => (leAt (almSect b 2) 0 8).testBit i)

/-- Register writes of 8 B each. -/
def regWrites (bs : List Byte) : List (Nat × Nat) := (List.range (bs.length / 8)).map (fun i => (leAt bs (8 * i) 4, leAt bs (8 * i + 4) 4))

/-- Writes of the power policy, then of the partition defaults. (DEDUCED, log 27) -/
def almWrites (b : List Byte) : List (Nat × Nat) := regWrites ((almSect b 4).drop 144) ++ regWrites (almSect b 3)

/-- A register that R511 lets the Almanac write: those marked "from the Almanac", ARR_STKEEP_CFG, and the access entries,
which R476 says the Almanac supplies. (DEDUCED, log 27) -/
def almAdmits (a : Nat) : Bool :=
  let pg := (a - 0x6000000) / 4096
  let off := a % 4096
  0x6000000 ≤ a && off % 4 = 0 &&
    (if 0x10 ≤ pg ∧ pg < 0x18 then [0, 4, 8, 0x10, 0x14, 0x18, 0x1C, 0x60].contains off
     else if pg = 4 then [0, 8, 0xC, 0x10, 0x14, 0x18].contains off
     else if pg = 7 then [4, 8, 0xC, 0x28, 0x60].contains off || (0x80 ≤ off && off < 0xA0)
     else if pg = 8 then off = 8
     else if pg = 0xA then (0x100 ≤ off && off < 0x140) || (0x300 ≤ off && off < 0x380)
     else if pg = 0xB then [4, 0x100, 0x140].contains off || (0x200 ≤ off && off < 0x280)
     else false)

/-- Default cap in 10 mW (Table 0.1). -/
def defaultCap : Model → Nat
  | .sd4 => 600
  | .sd8 => 1100
  | .sd16 => 2100
  | .sd32 => 4000

/-- Registers set from the Almanac at the defaults of Table 17.9. -/
def State.almDefaults (s : State) : State :=
  let n := s.cfg.cores
  let s := { s with parts := s.parts.map (fun (q : Part) =>
    { q with floor := 64, cores := 0, ssBase := 0, ssUnits := 0, stage := [0, 0, 0, 0], stkeep := 0x61 }) }
  let s := s.modPart 0 (fun q => { q with cores := BitVec.ofNat 32 (2 ^ n - 1), ssUnits := 16, stage := [1024, 1024, 1024, 1024] })
  let cap := defaultCap s.cfg
  let s := s.modPwr (fun p => { p with
    ctrl := 0, cap := cap, capNext := cap, capMax := cap, steer := 0, staged := [1024, 0, 0, 0, 0, 0, 0, 0], thmSoft := 0x640 })
  let s := s.modCht (fun c => { c with region := 0, nearBase := 0, nearFrames := 0, carve := true, chartNear := false })
  let s := s.modLnk (fun k => { k with node := 0, routes := List.replicate 32 0, ports := k.ports.map (fun q => { q with cfg := 0 }) })
  s.modLds (fun l => { l with peers := List.replicate 32 0 })

/-- One register write. Enables wait for the end, the active shares follow the staged ones, links train once ready. -/
def State.almApply (s : State) (w : Nat × Nat) : State :=
  let pg := (w.1 - 0x6000000) / 4096
  let off := w.1 % 4096
  let v := w.2
  if 0x10 ≤ pg ∧ pg < 0x18 then
    if off = 0 then s.modPart (pg - 0x10) (fun q => { q with floor := fld 14 8 v })
    else s.wrPrt (pg - 0x10) off v
  else if pg = 4 then
    match off with
    | 0x00 => s.modCht (fun c => { c with carve := v.testBit 9, chartNear := v.testBit 10 })
    | 0x08 => s.modCht (fun c => { c with region := c.region / 2 ^ 32 * 2 ^ 32 + fld 31 16 v * 65536 })
    | 0x0C => s.modCht (fun c => { c with region := c.region % 2 ^ 32 + v % 65536 * 2 ^ 32 })
    | 0x10 => s.modCht (fun c => { c with nearBase := c.nearBase / 2 ^ 32 * 2 ^ 32 + fld 31 16 v * 65536 })
    | 0x14 => s.modCht (fun c => { c with nearBase := c.nearBase % 2 ^ 32 + v % 65536 * 2 ^ 32 })
    | _ => s.modCht (fun c => { c with nearFrames := v % 2 ^ 21 })
  else if pg = 7 then
    match off with
    | 0x08 => s.modPwr (fun p => { p with capNext := v % 65536 })
    | 0x0C => s.modPwr (fun p => { p with capMax := v % 65536 })
    | 0x60 => s.modPwr (fun p => { p with trim := min 24 (v % 32) })
    | _ => s.wrPwr off v
  else if pg = 8 then s.wrThm off v
  else if pg = 0xA then s.wrLds off v
  else if off = 0x100 then s.modPort 0 (fun q => { q with cfg := kept 0x1F v })
  else if off = 0x140 then s.modPort 2 (fun q => { q with cfg := kept 0x1F v })
  else if off = 4 then s.modLnk (fun k => { k with node := kept 0xFFFF v })
  else s.modLnk (fun k => { k with routes := setAt k.routes ((off - 0x200) / 4) (BitVec.ofNat 32 v) })

/-- The power policy's fixed part: weights, voltages, trim. (DESIGN CHOICE, log 10) -/
def State.policy (s : State) (sec : List Byte) : State :=
  let words := fun (o : Nat) => (List.range 17).map (fun i => BitVec.ofNat 32 (leAt sec (o + 4 * i) 4))
  s.modPwr (fun p => { p with
    weights := words 0, weightsEco := words 68, vNom := leAt sec 136 2, vEco := leAt sec 138 2, trim := min 24 (leAt sec 140 1) })

/-- The values sections 3 and 4 leave in the registers. -/
def State.almRegs (s : State) (b : List Byte) : State :=
  let s := (s.almDefaults).policy (almSect b 4)
  let s := (almWrites b).foldl State.almApply s
  s.modPwr (fun p => { p with capNext := min p.capNext p.capMax, cap := min p.capNext p.capMax })

/-- Partitions the copy enables: by the last write of each PRT_CTRL, else partition 0. -/
def almEnables (b : List Byte) : List Nat :=
  (List.range 8).filter (fun p =>
    match (almWrites b).reverse.find? (fun w => w.1 = 0x6010000 + p * 4096) with
    | some w => w.2.testBit 0
    | none => p = 0)

/-- Check 8: admissible writes, the Chart region named, share sums. -/
def State.almValuesOk (s : State) (b : List Byte) : Bool :=
  let w := almWrites b
  let t := s.almRegs b
  w.all (fun x => almAdmits x.1) && w.any (fun x => x.1 = 0x6004008) && w.any (fun x => x.1 = 0x600400C) && t.sharesSum &&
    sumNat t.pwr.staged = 1024

/-- R509: the code of the first check that fails, 0 for a valid image. Bytes that did not come fail the check that reads
them; none at all is an unreadable NVM. (DEDUCED, log 24) (DEDUCED, log 25) -/
def State.almCheck (s : State) (b : List Byte) : Nat :=
  if b.isEmpty then 0x1108
  else if !almHeaderOk b then 0x1101
  else if !almTableOk b then 0x1107
  else if b.length < almLen b || almDigest b ≠ slice b 0x78 48 then 0x1103
  else if sha384 (slice b 0x18 96) ≠ s.alm.fuses.signer || !ecdsaVerify (slice b 0x18 96) (slice b 0x78 48) (slice b (almLen b - 96) 96) then
    0x1104
  else if leAt b 0x10 2 < s.alm.fuses.secVersion then 0x1105
  else if 0x302 < leAt b 0x12 2 || !versionsOk (almSect b 5) then 0x1106
  else if ((List.range s.cfg.phys).filter (fun x => !s.alm.fuses.bad.contains x && !(overlayBad b).contains x)).length < s.cfg.cores then
    0x110B
  else if !s.almValuesOk b then 0x1107
  else 0

/-! ## Remap (R28, R29) -/

/-- Logical core i to the i-th good physical core. (DEDUCED, log 28) -/
def State.remapAll (s : State) : State :=
  let good := (List.range s.cfg.phys).filter (fun x => !s.grid.bad.contains x)
  s.modGrid (fun g => { g with remap := (List.range 32).map (fun i =>
    if i < s.cfg.cores then (match good[i]? with
      | some x => ⟨x, 1, 0⟩
      | none => ⟨0, 2, 0⟩)
    else ⟨0, 0, 0⟩) })

/-- A retirement of the repair area, carried out again after a start. (DEDUCED, log 28) -/
def State.again (s : State) (phys : Nat) : State :=
  let c := s.logical phys
  let s := s.modGrid (fun g => { g with bad := phys :: g.bad })
  match c with
  | none => s
  | some c =>
    let used := ((List.range 32).filter (fun d => (s.grid.remap.getD d ⟨0, 0, 0⟩).state = 1)).map
      (fun d => (s.grid.remap.getD d ⟨0, 0, 0⟩).phys)
    match (List.range s.cfg.phys).find? (fun x => !s.grid.bad.contains x && !used.contains x) with
    | some x => s.modGrid (fun g => { g with remap := setAt g.remap c ⟨x, 1, 0⟩ })
    | none => s.modGrid (fun g => { g with remap := modAt g.remap c (fun r => { r with state := 2 }) })

/-- The remap of the fused-bad and overlaid cores and of the repair area's retirements, in their order. -/
def State.remapFrom (s : State) (bad : List Nat) (rep : Repair) : State :=
  let s := (s.modGrid (fun g => { g with bad := bad })).remapAll
  let s := rep.retired.reverse.foldl State.again s
  s.modGrid (fun g => { g with remap := (List.range 32).map (fun i =>
    let r := g.remap.getD i ⟨0, 0, 0⟩
    if r.state = 0 then r else { r with count := rep.counts.getD i 0 }) })

/-! ## Phases (R504, R505) -/

/-- POR_ASSERT: everything but the fuses' and the NVM's contents, the waiting commands and the count of free values is at
its reset value; the test port keeps its own. (DEDUCED, log 29) -/
def State.porAssert (s : State) : State :=
  { State.reset with
    cfg := s.cfg, pending := s.pending, free := s.free
    alm := { Almanac.reset with repair := { s.alm.repair with dirty := false } }
    tap := { s.tap with tdo := false } }

/-- POR_DEASSERT: the straps are sampled and fuse sensing begins. -/
def State.porDeassert (s : State) (nvMode : Bool) (nvSpeed : Nat) : State :=
  if s.alm.phase ≠ .held then s
  else s.modAlm (fun a => { a with phase := .fuses, nvMode := nvMode, nvSpeed := nvSpeed })

/-- FUSE_SENSE_DONE. (DESIGN CHOICE, log 6) -/
def State.fuseDone (s : State) (f : Fuses) : State :=
  if s.alm.phase ≠ .fuses then s
  else
    let s := s.modAlm (fun a => { a with phase := .pll, fuses := f })
    let s := s.modLds (fun l => { l with secret := f.secret, lifecycle := f.lifecycle, secVersion := f.secVersion })
    (s.modGrid (fun g => { g with bad := f.bad })).modPwr (fun p => { p with
      eco := (List.range 34).map (fun i => f.eco.getD i 11) })

/-- PLL_LOCK. -/
def State.pllLock (s : State) : State :=
  if s.alm.phase ≠ .pll then s else s.modAlm (fun a => { a with phase := .boot })

/-- BINNACLE_BOOT_DONE: remap, or halted with too few good cores. -/
def State.bootDone (s : State) : State :=
  if s.alm.phase ≠ .boot then s
  else
    let good := ((List.range s.cfg.phys).filter (fun x => !s.alm.fuses.bad.contains x)).length
    if good < s.cfg.cores then
      s.modAlm (fun a => { a with st := .halted, phase := .done, copyA := (0x110B, false), copyB := (0x110B, false) })
    else (s.remapFrom s.alm.fuses.bad .none).modAlm (fun a => { a with st := .reading, phase := .discover })

/-- NVM_DISCOVERY_DONE: the read mode; the repair area's valid set takes effect. -/
def State.discoveryDone (s : State) (mode : Nat) (addr4 : Bool) : State :=
  if s.alm.phase ≠ .discover then s
  else
    let r := s.alm.repair
    let s := s.modAlm (fun a => { a with phase := .copyA, mode := if a.nvMode then 4 else mode % 4, addr4 := addr4 && !a.nvMode })
    let s := s.remapFrom s.alm.fuses.bad r
    { s with flt := { s.flt with spareBank := r.spareBank, ssSpare := r.ssSpare, ssFailing := r.ssFailing } }

/-- The image in use. -/
def State.useImage (s : State) (copy : Nat) (b : List Byte) : State :=
  s.modAlm (fun a => { a with st := .applying, phase := .apply, copy := copy, seq := almSeq b, image := b })

/-- The larger of two sequence numbers, as a signed 32-bit difference. -/
def seqBefore (a b : Nat) : Bool := 0 < sext 32 ((b + 2 ^ 32 - a % 2 ^ 32) % 2 ^ 32)

/-- COPY_READ_DONE: a copy has been read and checked; after copy B the copy to use is chosen, or the host is awaited
(R509, R510, R515). -/
def State.copyDone (s : State) (b : List Byte) : State :=
  let st := s.almCheck b
  let read := !b.isEmpty
  match s.alm.phase with
  | .copyA =>
    s.modAlm (fun a => { a with phase := .copyB, copyA := (st, read), images := if st = 0 then [(0, b)] else [] })
  | .copyB =>
    let s := s.modAlm (fun a => { a with copyB := (st, read), images := if st = 0 then a.images ++ [(1, b)] else a.images })
    (match s.alm.images with
     | [(k, x)] => s.useImage k x
     | [(_, x), (_, y)] => if seqBefore (almSeq x) (almSeq y) then s.useImage 1 y else s.useImage 0 x
     | _ => s.modAlm (fun a => { a with st := .awaitHost, phase := .done }))
  | _ => s

/-- SECTIONS_APPLIED (R511, R512, R514): firmware, overlay, power policy, partition defaults; the shares become active
together, then the partitions are enabled in order. -/
def State.sectionsApplied (s : State) : State :=
  if s.alm.phase ≠ .apply then s
  else
    let b := s.alm.image
    let ivt := almSect b 5
    let s := s.modAlm (fun a => { a with
      phase := .clear, fwDigest := sha384 (almSect b 1)
      agreed := (List.range 7).map (fun g => if g = 4 then 0 else agreedVersion ivt g) })
    let s := s.remapFrom ((s.alm.fuses.bad ++ overlayBad b).eraseDups) s.alm.repair
    let s := s.almRegs b
    let noNear := !s.cht.carve && (!s.cfg.nearPort || s.alm.agreed.getD 2 0 = 0)
    let s := if noNear then s.modCht (fun c => { c with nearFrames := 0 }) else s
    let s := s.modPwr (fun p => { p with active := p.staged })
    let s := s.modPwr (fun p => { p with vNow := s.wantMv })
    (almEnables b).foldl State.partEnable s.shareCommit

/-- CHART_CLEAR_DONE: memories are zero and the device key is derived; the block is ready and its links train (R504).
(DEDUCED, log 30) -/
def State.chartCleared (s : State) : State :=
  if s.alm.phase ≠ .clear || s.lds.dpriv.isNone then s
  else
    let s := { s with
      cores := s.cores.map (fun (c : Core) => { c with tile := [], tileSeal := [] })
      store := [], storeSeal := [] }
    let s := s.modAlm (fun a => { a with st := .ready, phase := .done })
    ((List.range 2).foldl (fun s p =>
      let v := (s.lport (2 * p)).cfg.toNat
      (s.modPort (2 * p) (fun q => { q with cfg := 0 })).lnkCfg p v) s).pump

/-! ## Operations (R515, R516) -/

/-- An operation ends: its result, done, and a message when the block is ready. -/
def State.almEnd (s : State) (r : Nat) : State :=
  let s := (s.modAlm (fun a => { a with busy := false, done := true, result := r, op := none })).mark 0xC 0 0x40
  if s.ready then s.gmsi else s

/-- A go while an operation runs. -/
def State.almOver (s : State) : State := s.modAlm (fun a => { a with overflow := true })

/-- ALM_LOAD: a pushed image in the shared store, from byte 0 of SS0 on. (DEDUCED, log 65) -/
def State.almLoad (s : State) : State :=
  if s.alm.busy then s.almOver
  else if s.alm.st ≠ .awaitHost then s.almEnd 0x1109
  else
    let b := s.store.read 0 s.alm.len
    let st := s.almCheck b
    if st = 0 then (s.almEnd 0).useImage 2 b else s.almEnd (if b.isEmpty then 0x1101 else st)

/-- The image in system memory is read coherently. -/
def State.almRead (s : State) (op : AlmOp) : State :=
  let a := addrPair s.alm.srcLo s.alm.srcHi
  (s.modAlm (fun x => { x with busy := true, op := some op })).postRead .almanac true a s.alm.len none

/-- ALM_PROGRAM. (DEDUCED, log 65) -/
def State.almProgram (s : State) : State :=
  if s.alm.busy then s.almOver
  else if s.alm.st ≠ .ready then s.almEnd 0x1109
  else s.almRead (.program s.alm.len)

/-- Every partition is idle. -/
def State.allIdle (s : State) : Bool := (List.range 8).all (fun p => !s.hasJob p)

/-- ALM_ACTIVATE: refused unless every partition is idle. -/
def State.almActivate (s : State) : State :=
  if s.alm.busy then s.almOver
  else if s.alm.st ≠ .ready || !s.allIdle then s.almEnd 0x1109
  else (s.modAlm (fun a => { a with st := .activating })).almRead (.activate s.alm.len)

/-- ALM_CTRL. -/
def State.almCtrl (s : State) (v : Nat) : State :=
  if !v.testBit 31 then s
  else
    match fld 1 0 v with
    | 0 => s.almLoad
    | 1 => s.almProgram
    | 2 => s.almActivate
    | _ => s

/-- ALM_OPERATION_DONE: the image has been read and checked, and written to the NVM or started; `nvOk` says whether the
NVM read back what was written. -/
def State.almOpDone (s : State) (nvOk : Bool) : State :=
  if !(s.accsOf .almanac).all FabAcc.done then s
  else
    match s.alm.op with
    | none => s
    | some op =>
      let b := s.accsData .almanac
      let s := s.dropAccs .almanac
      let st := if b.isEmpty then 0x1101 else s.almCheck b
      let st := if st ≠ 0 then st else if seqBefore s.alm.seq (almSeq b) then 0 else 0x110A
      match op with
      | .program _ => s.almEnd (if st ≠ 0 then st else if nvOk then 0 else 0x1108)
      | .activate _ =>
        let s := s.modAlm (fun a => { a with st := .ready })
        if st ≠ 0 then s.almEnd st
        else ((s.modAlm (fun a => { a with fwDigest := sha384 (almSect b 1) })).modLds Lodestar.forget).almEnd 0

/-! ## Power-down (R533) -/

/-- PW_DOWN_REQ: a rise is answered with NACK at once, or the block prepares. (DEDUCED, log 31) -/
def State.downRequest (s : State) (level : Bool) : State :=
  let rise := level && !s.pw.downReq
  let s := { s with pw := { s.pw with downReq := level, nack := s.pw.nack && level } }
  if !rise || s.pw.preparing || s.pw.ack then s
  else if s.grid.jobs.isEmpty && s.grid.disp.isEmpty && !s.alm.busy then { s with pw := { s.pw with preparing := true } }
  else { s with pw := { s.pw with nack := true } }

/-- DOWN_READY: pending repair sets are written and every write is acknowledged; PW_DOWN_ACK rises. (DEDUCED, log 31) -/
def State.downReady (s : State) : State :=
  if !s.pw.preparing || s.fab.accs.any (fun a => a.write && !a.done) then s
  else
    { s with
      pw := { s.pw with preparing := false, ack := true }
      alm := { s.alm with repair := { s.alm.repair with dirty := false } } }

end Sys2Proof.Machine
end

