-- ==== Sys2Proof/Machine/PortUnit.lean ====
section
/-! DEFINITION. Responses on the fabric and near-memory channels and their errors (R521 to R524), the test port (R535). -/

namespace Sys2Proof.Machine

/-! ## Responses (R521, R522) -/

def State.modAcc (s : State) (no : Nat) (f : FabAcc → FabAcc) : State :=
  { s with fab := { s.fab with accs := s.fab.accs.map (fun (a : FabAcc) => if a.no = no then f a else a) } }

def State.dropAcc (s : State) (no : Nat) : State :=
  { s with fab := { s.fab with accs := s.fab.accs.filter (fun (a : FabAcc) => a.no ≠ no) } }

/-- What an access does when its last beat or its acknowledgement has come, beyond waiting for the command that takes it. -/
def State.accDone (s : State) (a : FabAcc) : State :=
  match a.owner with
  | .edit l => if a.write then s else (s.dropAcc a.no).editLine l a.got
  | .moveRead k => s.moveGot k a.got
  | .moveWrite k => s.moveAcked k
  | .faultRecord p => (s.dropAcc a.no).faultAcked p
  | .write _ _ _ => s.dropAcc a.no
  | .swapOut _ _ _ => s.dropAcc a.no
  | .record _ => s.recordWritten a.no
  | .errlog => s.dropAcc a.no
  | .logbook => s.dropAcc a.no
  | .void => s.dropAcc a.no
  | .sampleRecord p => (s.recordCame p).itkPump
  | .sampleData _ _ => s.itkPump
  | .intakeWrite _ _ => s.itkPump
  | .frameWrite _ _ => s.itkPump
  | .frameRecord n => (s.dropAcc a.no).frameRecorded n
  | .inbound _ id => s.inDone id
  | _ => s

/-- An access is over: its tag is free, its owner hears, and the channels grant what they can. -/
def State.finish (s : State) (a : FabAcc) (got : List Byte) : State :=
  let b := { a with got := got, done := true, tag := none }
  let s := s.carry .response (s.accStop a.near a.addr) (s.accFrom a.owner a.src) got.length
  ((s.modAcc a.no (fun _ => b)).accDone b).pump

/-! ## Errors (R524) -/

/-- How an error ends an access: made for a job, its data goes nowhere; issued again at once; an Intake access; a remote
requester's; or one for no job, retried once. -/
inductive ErrClass where
  | drop | reissue | intake | inbound | retry | void
deriving DecidableEq, Repr

def FabOwner.errClass : FabOwner → ErrClass
  | .stream _ _ _ => .drop
  | .write _ _ _ => .drop
  | .swapOut _ _ _ => .drop
  | .swapIn _ _ => .drop
  | .image _ _ _ => .drop
  | .table _ _ => .reissue
  | .header _ _ _ => .reissue
  | .entries _ _ => .reissue
  | .walk _ _ => .reissue
  | .desc _ _ _ => .reissue
  | .record _ => .reissue
  | .sampleRecord _ => .intake
  | .sampleData _ _ => .intake
  | .intakeWrite _ _ => .intake
  | .frameRecord _ => .intake
  | .frameWrite _ _ => .intake
  | .inbound _ _ => .inbound
  | .void => .void
  | _ => .retry

/-- Partitions whose jobs an access was made for. -/
def State.errParts (s : State) (a : FabAcc) : List Nat :=
  match a.owner with
  | .walk f line =>
    (((s.stop f).walks.filter (fun w => w.line = line)).flatMap Walk.waiters).filterMap (fun w => match w.eng with
      | .core _ => some w.part
      | _ => none)
  | _ => match a.part with
    | some p => [p]
    | none => []

/-- An Intake access refused (R359): the sample fails, or the batch or frame is marked. -/
def State.itkError (s : State) (o : FabOwner) : State :=
  match o with
  | .sampleData p l => (match s.lane l with
    | some x => if x.sess = p then s.setLane l (some { x with refused := some 0x0101 }) else s
    | none => s)
  | .intakeWrite p b => s.modSes p (fun z => z.modBatch b (fun b => { b with status := 0x0A08 }))
  | .frameWrite n no => s.modFst n (fun f => f.modFrame no (fun y => { y with status := 0x0B05 }))
  | _ => s

/-- The event: an error record of code 0x0101, and the reset of the partition of an access made for a job.
(DEDUCED, log 32) -/
def State.accError (s : State) (a : FabAcc) : State :=
  let stop := if a.near then 2 else s.fabStop a.addr
  let s := s.modAcc a.no (fun b => { b with got := [], again := some (s.tick + 100) })
  let s := s.errRecord 0 a.part 0x0101 ⟨9, stop, 0⟩ 0 0 a.addr
  let reset := fun (s : State) => (s.errParts a).eraseDups.foldl (fun s p => s.resetStart p false [] [] true) s
  match a.owner.errClass with
  | .drop => reset s
  | .reissue => reset s
  | .intake => s.itkError a.owner
  | _ => s

/-- A second error abandons the access: what it was for goes on without it. -/
def State.abandonAcc (s : State) (a : FabAcc) : State :=
  let s := { s with fab := { s.fab with errCnt := sat32 s.fab.errCnt 1 } }
  match a.owner with
  | .edit _ =>
    (s.dropAcc a.no).modCht (fun c => { c with
      edit := c.edit.map (fun (e : Edit) => { e with wrote := true, refused := true, left := 0 }) })
  | .moveRead k => (s.dropAcc a.no).moveAcked k
  | _ => s.finish a []

/-- The last beat or the acknowledgement of an access in error has come: its tag is free. (DEDUCED, log 32) -/
def State.errorEnd (s : State) (a : FabAcc) : State :=
  match a.owner.errClass with
  | .drop => (s.dropAcc a.no).pump
  | .void => (s.dropAcc a.no).pump
  | .reissue => (s.modAcc a.no (fun b => { b with tag := none, again := none })).pump
  | .intake => (match a.owner with
    | .sampleRecord p => ((s.dropAcc a.no).readRecord p).pump
    | _ => s.finish a [])
  | .inbound => (match s.lnk.inbound.find? (fun i => .inbound 0 i.id = a.owner) with
    | some i => ((s.dropAccs a.owner).inRefuse i).pump
    | none => (s.dropAcc a.no).pump)
  | .retry => if a.retried then s.abandonAcc a else (s.modAcc a.no (fun b => { b with tag := none })).pump

/-- FABRIC_READ_RESPONSE: a beat of 64 B for a tag on a channel. -/
def State.fabRead (s : State) (ch tag : Nat) (data : List Byte) (last err : Bool) : State :=
  match s.fab.accs.find? (fun a => a.chan = ch && a.tag = some tag && !a.write && !a.done) with
  | none => s
  | some a =>
    if a.again.isSome then (if last then s.errorEnd a else s)
    else if err then
      let s := s.accError a
      if last then s.errorEnd { a with got := [], again := some (s.tick + 100) } else s
    else
      let got := a.got ++ slice data 0 64
      if last then s.finish a (slice got (a.addr % 64) a.len) else s.modAcc a.no (fun b => { b with got := got })

/-- FABRIC_WRITE_ACK. -/
def State.fabAck (s : State) (ch tag : Nat) (err : Bool) : State :=
  match s.fab.accs.find? (fun a => a.chan = ch && a.tag = some tag && a.write && !a.done) with
  | none => s
  | some a =>
    if err then (s.accError a).errorEnd { a with got := [], again := some (s.tick + 100) }
    else s.finish a []

/-- FABRIC_RETRY: access number n, in error for 1 µs, is issued once more. -/
def State.fabRetry (s : State) (n : Nat) : State :=
  match s.fab.accs.find? (fun a => a.no = n) with
  | some a =>
    if a.tag.isNone && !a.retried && a.again.any (fun t => t ≤ s.tick) then
      (s.modAcc n (fun b => { b with again := none, retried := true })).pump
    else s
  | none => s

/-! ## Test port (R535) -/

def TapState.next (t : TapState) (tms : Bool) : TapState :=
  match t, tms with
  | .reset, true => .reset
  | .reset, false => .idle
  | .idle, false => .idle
  | .idle, true => .selectDr
  | .selectDr, true => .selectIr
  | .selectDr, false => .captureDr
  | .captureDr, false => .shiftDr
  | .captureDr, true => .exit1Dr
  | .shiftDr, false => .shiftDr
  | .shiftDr, true => .exit1Dr
  | .exit1Dr, false => .pauseDr
  | .exit1Dr, true => .updateDr
  | .pauseDr, false => .pauseDr
  | .pauseDr, true => .exit2Dr
  | .exit2Dr, false => .shiftDr
  | .exit2Dr, true => .updateDr
  | .updateDr, false => .idle
  | .updateDr, true => .selectDr
  | .selectIr, true => .reset
  | .selectIr, false => .captureIr
  | .captureIr, false => .shiftIr
  | .captureIr, true => .exit1Ir
  | .shiftIr, false => .shiftIr
  | .shiftIr, true => .exit1Ir
  | .exit1Ir, false => .pauseIr
  | .exit1Ir, true => .updateIr
  | .pauseIr, false => .pauseIr
  | .pauseIr, true => .exit2Ir
  | .exit2Ir, false => .shiftIr
  | .exit2Ir, true => .updateIr
  | .updateIr, false => .idle
  | .updateIr, true => .selectDr

/-- The instruction in force: IDCODE after reset, BYPASS for all ones. (PRESUMED, log 17) -/
def Tap.instr (t : Tap) : Nat :=
  match t.ir with
  | none => 3
  | some l => if l.all id then 0 else irName l

/-- Part numbers. -/
def partNumber : Model → Nat
  | .sd4 => 0x5D04
  | .sd8 => 0x5D08
  | .sd16 => 0x5D16
  | .sd32 => 0x5D32

def idcode (m : Model) (mfr : Nat) : Nat := 0x3 * 2 ^ 28 + partNumber m * 2 ^ 12 + mfr % 2 ^ 11 * 2 + 1

/-- What Capture-DR loads. -/
def Tap.capture (t : Tap) (m : Model) : List Bool :=
  match t.instr with
  | 1 => (List.range (boundaryExtra + 1)).map (fun i => boundarySample i t.edges)
  | 2 => (List.range (boundaryExtra + 1)).map (fun i => boundarySample i t.edges)
  | 3 => (List.range 32).map (fun i => (idcode m t.mfr).testBit i)
  | _ => [false]

/-- A rising edge of TST_TCK. -/
def Tap.rise (t : Tap) (m : Model) (tms tdi : Bool) : Tap :=
  let t := match t.st with
    | .captureDr => { t with dr := t.capture m }
    | .shiftDr => { t with dr := t.dr.drop 1 ++ [tdi] }
    | .captureIr => { t with irShift := true :: List.replicate (irExtra + 1) false }
    | .shiftIr => { t with irShift := t.irShift.drop 1 ++ [tdi] }
    | _ => t
  let n := t.st.next tms
  { t with st := n, edges := t.edges + 1, ir := if n = .reset then none else t.ir }

/-- A falling edge: updates, and TST_TDO. -/
def Tap.fall (t : Tap) : Tap :=
  match t.st with
  | .updateIr => { t with ir := some t.irShift, tdo := false }
  | .updateDr => if t.instr = 1 ∨ t.instr = 2 then { t with cells := t.dr, tdo := false } else { t with tdo := false }
  | .shiftDr => { t with tdo := t.dr.headD false }
  | .shiftIr => { t with tdo := t.irShift.headD false }
  | _ => { t with tdo := false }

/-- R474 confines the test port to boundary scan. (DESIGN CHOICE, log 18) -/
def State.scanLocked (s : State) : Bool :=
  s.lds.anyKey || !s.storeSeal.isEmpty || s.cores.toList.any (fun c => !c.tileSeal.isEmpty)

/-- An internal scan or memory-access instruction is in force and a data register state carries it out.
(DESIGN CHOICE, log 18) -/
def Tap.internal (t : Tap) : Bool :=
  decide (3 < t.instr) && (t.st = .captureDr || t.st = .shiftDr || t.st = .updateDr)

/-- TEST_PORT_TCK: an edge, with TST_TRST_N asserted or not. -/
def State.tck (s : State) (rise tms tdi trst : Bool) : State :=
  { s with tap :=
    if trst then { s.tap with st := .reset, ir := none, tdo := false }
    else if rise then s.tap.rise s.cfg tms tdi else s.tap.fall }

end Sys2Proof.Machine
end

