-- ==== Sys2Proof/Machine/Clock.lean ====
section
/-! DEFINITION. What the passing of one F-cycle does when no command waits: the clocks, the counters that count A-cycles
and ticks. -/

namespace Sys2Proof.Machine

/-- PLL cycles in a tick: 88, or 22 from the completion of watch entry to that of the wake (R7, R8, R407, R409). (DESIGN CHOICE,
log 77) -/
def State.tickLen (s : State) : Nat :=
  match s.grid.watch with
  | .watch => 22
  | .waking => 22
  | _ => 88

/-- A task waits at a waypoint, or a release holds a signalling command: one at the head of its queue, or one that waits in the
sequencer (R242, Table 7.3). -/
def Core.atWaypoint (c : Core) : Bool :=
  c.tasks.toList.any (fun k => match k.wait with
    | .wpt _ _ => true
    | .release => true
    | .releaseSlots _ => true
    | _ => false) ||
  (c.str.queue.head?.any (fun q => c.heldBy q.1)) ||
  (c.msg.queue.head?.any (fun q => c.heldBy q.1 && (match q.2 with
    | .recv _ _ _ => false
    | _ => true)))

/-- The next vector to form is the first of a bound operation's sweep, A-cycle 3 of the operation has come, and the line
set is not usable yet (R180, R192). -/
def Core.formationWaits (c : Core) : Bool :=
  match c.arr.ops.find? (fun x => x.op.conv && x.read < x.op.n), c.cnv.acts.find? (fun a => !a.formed) with
  | some x, some a => x.read = 0 && 3 ≤ x.since && (!a.toLoad.isEmpty || a.fresh ≠ 0)
  | _, _ => false

/-- The word the running task is to issue next has a reserved class or op: the core stops (R197, R199). A defined word reaches the
core as its instruction's command. (DESIGN CHOICE, log 50) -/
def Core.wordCheck (c : Core) : Core :=
  match c.issuer with
  | none => c
  | some t =>
    let pc := (c.task t).pc
    if c.img.codeSize / 8 ≤ pc then c
    else
      let w := c.wordAt pc
      if opDefined (fld 63 60 w) (fld 59 54 w) then c else c.stopAt t 0x0301

/-- An A-cycle of a core: the sequencer's count unless instructions issued took it ahead, and the counters of stalls, bubbles
and waits. `held` says whether the output writer was denied a bank in it (R148, R394).
(DEDUCED, log 70) -/
def Core.aCycle (c : Core) (held : Bool) : Core :=
  let q := c.seq
  let live := c.live && !q.final
  let q := if q.lead ≠ 0 then { q with lead := q.lead - 1 }
    else if q.started then
      { q with
        cyc := q.cyc + 1
        stallCnt := if live && q.running.isSome then sat32 q.stallCnt 1 else q.stallCnt
        idle := if c.str.moved then 0 else if live && c.idleCounts then q.idle + 1 else q.idle }
    else q
  let e := c.elm
  let busy := !e.acts.isEmpty
  { c with
    seq := { q with wptWait := if c.atWaypoint then sat32 q.wptWait 1 else q.wptWait }
    elm := { e with
      entered := false
      cnt := { e.cnt with
        bubble := if busy && !e.entered && !held then sat32 e.cnt.bubble 1 else e.cnt.bubble
        hold := if busy && held then sat32 e.cnt.hold 1 else e.cnt.hold
        stateWait := if e.wait.isSome then sat32 e.cnt.stateWait 1 else e.cnt.stateWait } }
    arr := { c.arr with ops := c.arr.ops.map (fun x => { x with since := min 3 (x.since + 1) }) }
    cnv := { c.cnv with
      acts := c.cnv.acts.map (fun a => { a with fresh := a.fresh - 1 })
      waitCnt := if c.formationWaits then sat32 c.cnv.waitCnt 1 else c.cnv.waitCnt }
    str := { c.str with moved := false } }

/-- Eight PLL cycles of a core's A-clock divider (R7, R411); what events set in the last F-cycle can be cleared (R14). -/
def State.coreClock (s : State) (c : Nat) : State :=
  let q := s.core c
  let s := if q.flNow = .none ∧ !q.cnv.degenNow then s
    else s.modCore c (fun q => { q with flNow := .none, cnv := { q.cnv with degenNow := false } })
  let d := max 8 (s.pwr.cores.getD c PwrCore.reset).div
  let n := s.clk.adiv.getD c 0 + 8
  if n < d then { s with clk := { s.clk with adiv := setAt s.clk.adiv c n } }
  else
    let s := { s with clk := { s.clk with adiv := setAt s.clk.adiv c (n - d) } }
    let held := s.bankWaits c .writer
    ((s.modCore c (fun q => q.aCycle held)).bankCycle c).onCore c Core.wordCheck

/-- A tick: the counter, the core-ticks of R396, one PLL cycle of slew every 8 ticks (R496). -/
def State.tickOver (s : State) : State :=
  let t := (s.clk.tick + 1) % 2 ^ 64
  let held := fun (p : Nat) => sumNat ((s.grid.jobs.filter (fun j => j.part = p && j.holds)).map (fun j => j.coreList.length))
  let s := (List.range 8).foldl (fun (s : State) p =>
    if held p = 0 then s else s.modPart p (fun q => { q with coreTicks := (q.coreTicks + held p) % 2 ^ 64 })) s
  let s : State := { s with clk := { s.clk with tick := t } }
  if t % 8 ≠ 0 ∨ s.lnk.slew = 0 then s
  else if 0 < s.lnk.slew then
    { s with clk := { s.clk with sub := s.clk.sub + 1 }, lnk := { s.lnk with slew := s.lnk.slew - 1 } }
  else if s.clk.sub = 0 then s
  else { s with clk := { s.clk with sub := s.clk.sub - 1 }, lnk := { s.lnk with slew := s.lnk.slew + 1 } }

/-- The clocks run: the PLL has locked (Table 17.1). -/
def State.clocked (s : State) : Bool :=
  s.alm.phase ≠ .held && s.alm.phase ≠ .fuses && s.alm.phase ≠ .pll

/-- One F-cycle passes. (DESIGN CHOICE, log 2) (DESIGN CHOICE, log 3) -/
def State.fCycle (s : State) : State :=
  if !s.clocked then s
  else
    let n := s.clk.sub + 8
    let len := s.tickLen
    let s := { s with clk := { s.clk with fcyc := s.clk.fcyc + 1, sub := if n < len then n else n - len }
                      fresh := [], pwr := { s.pwr with thmOld := none }, flt := { s.flt with ueNow := [] } }
    let s := (List.range s.cfg.cores).foldl State.coreClock s
    let s := if n < len then s else s.tickOver
    let s := { s.sliceCycle with noc := s.noc.cycle }
    ((s.itkPump.inPump).inAnswer).ceilingTurn

end Sys2Proof.Machine
end

