-- ==== Sys2Proof/Machine/HostPort.lean ====
section
/-! DEFINITION. A write at the host slave port by address (R326 to R331, R505, R538 to R542). -/

namespace Sys2Proof.Machine

/-- A 4 B register write by page and offset, with the registers whose write starts start-up work. -/
def State.pageWord (s : State) (page off v : Nat) : State :=
  if page = 0xC ∧ off = 0x2C then s.almCtrl v else s.regWrite page off v

/-- An accepted, admitted write to a register page: a doorbell and CHT_REPLAY take 8 B; elsewhere an 8 B write is two
4 B writes, the lower first, and 1 B and 2 B writes are dropped (R538). -/
def State.pageWrite (s : State) (page off size : Nat) (d : DWord) : State :=
  if 0x20 ≤ page ∧ page < 0x28 ∧ off < 8 then
    if s.cfg.parts ≤ page - 0x20 then s else s.doorbell (page - 0x20) size d
  else if 0x10 ≤ page ∧ page < 0x18 ∧ 0x518 ≤ off ∧ off < 0x520 then
    if size = 3 ∧ page - 0x10 < s.cfg.parts then s.replayWrite (page - 0x10) d else s
  else if size = 3 then
    (s.pageWord page off (d.toNat % 2 ^ 32)).pageWord page (off + 4) (d.toNat / 2 ^ 32)
  else if size = 2 then s.pageWord page off (d.toNat % 2 ^ 32)
  else s

/-- A host write at any address. -/
def State.hostWrite (s : State) (mid : BitVec 8) (a size : Nat) (d : DWord) : State :=
  match s.target a with
  | .mem _ _ => s.memWrite mid a size d.toNat
  | .none => s.memWrite mid a size d.toNat
  | .page pg off =>
    if !s.portOpen || a % 2 ^ size ≠ 0 || !s.portServes a then s
    else if !s.admits mid a then s.dropAddr a
    else s.pageWrite pg off size d
  | .ctl p off =>
    if !s.portOpen || a % 2 ^ size ≠ 0 || (!s.portServes a && 8 ≤ off) then s
    else if !s.admits mid a then s.dropAddr a
    else s.pageWrite (0x20 + p) off size d

/-- The 8 B access that covers a register of the full aperture: both registers of its pair are written.
(DEDUCED, log 20) -/
def State.wide (s : State) (a : HostAcc) (page off : Nat) (narrow : State) : State :=
  if a.size = 3#2 then
    if a.full then s.hostWrite a.mid (0x6000000 + 4096 * page + off / 8 * 8) 3 a.data else s
  else narrow

/-- The same of a control page, through either aperture. (DEDUCED, log 20) -/
def State.wideCtl (s : State) (a : HostAcc) (p off : Nat) (narrow : State) : State :=
  if a.size = 3#2 then
    s.hostWrite a.mid ((if a.full then 0x6020000 + 4096 * p else 0x8100000 + 0x200000 * p) + off / 8 * 8) 3 a.data
  else narrow

/-- A write to HST_DOORBELL: once admitted, a doorbell whatever its size (R341, R342). -/
def State.bell (s : State) (p : Nat) (a : HostAcc) : State :=
  if s.cfg.parts ≤ p || !s.portOpen then s
  else if !s.ctlAdmits p a then s.dropWin p
  else s.doorbell p a.size.toNat a.data

/-- A write to CHT_REPLAY: 8 B through the full aperture (R316). -/
def State.replayAcc (s : State) (p : Nat) (a : HostAcc) : State :=
  if s.cfg.parts ≤ p || !s.pagesOpen then s
  else if !(a.full && s.admitsFull a.mid) then s.dropWin p
  else if a.size = 3#2 then s.replayWrite p a.data
  else s

/-- A read of a register with an effect, at page and offset of the full aperture. -/
def State.regAcc (s : State) (a : HostAcc) (page off : Nat) : State :=
  if a.full then s.hostRead a.mid (0x6000000 + 4096 * page + off) a.size.toNat
  else if s.pw.preparing || s.pw.ack then s
  else s.respond 0

end Sys2Proof.Machine
end

