-- ==== Sys2Proof/Machine/EventOps.lean ====
section
/-! DEFINITION. Operations some commands put together from several units: instructions with an effect outside their core,
writes with a condition on their data, duties of control core 0. -/

namespace Sys2Proof.Machine

/-- The instruction a core is to issue now takes effect: its guard is true (R198), and no mb.recv owes a register it reads (R201). -/
def Core.guarded (c : Core) (f : Fields) (reads : List (BitVec 5)) : Bool :=
  match c.issuer with
  | some t => (c.task t).pred f.pg != f.pn && !reads.any (c.recvOwes t)
  | none => false

/-- csrw; a write of the phase marker also ends the running phase and begins the marker's (R224, R425).
(DEDUCED, log 47) -/
def State.csrwMark (s : State) (c : Nat) (f : Fields) : State :=
  let q := s.core c
  let s' := s.onCore c (fun q => q.csrw f)
  if (s'.core c).seq.stop.isNone && q.guarded f [f.ra] then s'.phaseMark c (s'.core c).seq.phase else s'

/-- hq.put: the packet or cell goes out when the instruction issues (R279, R498). -/
def State.hqPutOp (s : State) (c : Nat) (f : Fields) : State :=
  let q := s.core c
  let s' := s.onCore c (fun q => q.hqPut f (s.hqAssigned c))
  if q.guarded f [f.ra, pairReg f.ra] then s'.hqGo c q.issuer else s'

/-- A queue a get or a test may name: assigned to the job and not bound to another instance (R277, R498). -/
def State.hqLocal (s : State) (c q : Nat) : Bool := s.hqAssigned c q && (s.binding (s.partOf c) q).isNone

def State.hqGetOp (s : State) (c : Nat) (f : Fields) : State :=
  let q := s.core c
  let s' := s.onCore c (fun q => q.hqGet f (s.hqLocal c))
  if q.guarded f [] then s'.hqGo c q.issuer else s'

/-- bar.wait; a wait at a chain barrier may begin a ramp (R255, R427). -/
def State.barWaitOp (s : State) (c : Nat) (f : Fields) : State :=
  let q := s.core c
  let s' := s.onCore c (fun q => q.barWait f ((s.jobOf c).any (fun j => j.multi.isSome)))
  if q.guarded f [] then s'.rampCheck c else s'

/-- The final waypoint retires; it also ends the running phase (R41, R425). -/
def State.finalEnd (s : State) (c : Nat) : State :=
  let s' := s.finalRetire c
  if (s'.core c).seq.final && !(s.core c).seq.final then s'.phaseEnd c else s'

/-- A gap A-cycle of the arrays (R127): the A-cycle of R104 where it falls in a gap and no operation could issue. -/
def Core.gapCycle (c : Core) : Core :=
  let issues := match c.arr.front with
    | none => false
    | some x => !(c.arr.goes c.arr.throttle.2 x.1 x.2).isEmpty
  if c.arr.inGap && !issues then c.arrayCycle else c

/-- No vector enters an element pipe while a trip throttles (R437). -/
def Core.entryUnlessTrip (c : Core) : Core := if c.arr.trip then c else c.elementEntry

/-- What only a control core does waits while that control core restarts (R443). -/
def State.duty (s : State) (d : Nat) (f : State → State) : State := if s.dutyOk d then f s else s

/-- The address lies in a register page. (DEDUCED, log 68) -/
def State.isPage (s : State) (a : Nat) : Bool :=
  match s.target a with
  | .page _ _ => true
  | .ctl _ _ => true
  | _ => false

/-- Replies to a walk let the Intake and the link path go on. -/
def State.sidesOn (s : State) : State := s.itkPump.inPump

/-- A write takes effect only when its data says so. -/
def whenBit (n : Nat) (v : Nat) (f : State → Nat → State) (s : State) : State := if v.testBit n then f s v else s

/-- Watch-mode entry completes; nodes that only the links reached are lost (R407, R500). -/
def State.watchEnd (s : State) : State :=
  if s.grid.watch ≠ .entering then s
  else
    let before := (List.range 256).filter s.reachable
    let s := s.watchEntered
    let lost := before.filter (fun n => !s.reachable n)
    if lost.isEmpty then s else s.nodesLost lost none

/-- An Intake session's registers and a stream's in the full aperture. (DEDUCED, log 68) -/
def sesOff (p o : Nat) : Nat := 0x100 + 0x80 * p + o
def frmOff (n o : Nat) : Nat := 0x100 + 0x40 * n + o

end Sys2Proof.Machine
end

