-- ==== Sys2Proof/Machine/ChartEvents.lean ====
section
/-! DEFINITION. Events and commands of the Chart unit: walks, faults, replay, edits, page moves, invalidations. -/

namespace Sys2Proof.Machine

/-- A Chart walk request reaches a walker stop and joins, queues or is answered with retry (R310). -/
def execWalkRequest (e : Engine) (s : State) : Host.Outcome State Fault Refusal :=
  .next (s.walkRequest e)

/-- 64 F-cycles after a retry reply the engine sends its walk request again (R310). -/
def execWalkRequestResend (e : Engine) (s : State) : Host.Outcome State Fault Refusal :=
  .next (s.walkResend e)

/-- A free walker takes the oldest queued line and issues its read (R310). -/
def execWalkerTake (f : Fin 2) (s : State) : Host.Outcome State Fault Refusal :=
  .next (s.walkerTake f)

/-- A Chart line returns, is checked, and faults create or join pending entries (R311). -/
def execChartLineReturn (f : Fin 2) (line : Nat) (s : State) : Host.Outcome State Fault Refusal :=
  .next (s.lineReturn f line)

/-- A fill reply fills the engine's Chart cache and the waiting request issues (R311). -/
def execWalkFillReply (e : Engine) (s : State) : Host.Outcome State Fault Refusal :=
  .next ((s.walkFill e).sidesOn)

/-- A halt reply reaches a faulting engine, which stalls on the fault (R313). -/
def execWalkHaltReply (e : Engine) (s : State) : Host.Outcome State Fault Refusal :=
  .next ((s.walkHalt e State.endJob).sidesOn)

/-- A retry reply reaches an engine whose walk request found the queue full (R310). -/
def execWalkRetryReply (e : Engine) (s : State) : Host.Outcome State Fault Refusal :=
  .next (s.walkRetry e)

/-- A fault record packet reaches the ring writer at the control stop (R314). -/
def execFaultRecordPacket (f : Fin 2) (s : State) : Host.Outcome State Fault Refusal :=
  .next (s.faultPacket f)

/-- The ring writer writes a fault record into the partition's fault ring when it has room (R315). -/
def execFaultRecordWrite (p : Fin 8) (s : State) : Host.Outcome State Fault Refusal :=
  .next (s.faultWrite p)

/-- A replay write releases a pending fault entry for re-walk or abort (R316). -/
def execChtReplay (p : Fin 8) (a : HostAcc) (s : State) : Host.Outcome State Fault Refusal :=
  .next (s.replayAcc p a)

/-- A release reaches the walker, which re-reads the line or refuses the waiters (R316). -/
def execReplayRelease (f : Fin 2) (s : State) : Host.Outcome State Fault Refusal :=
  .next (s.replayRelease f)

/-- An edit go writes a value into consecutive Chart entries or refuses the range (R318). (DEDUCED, log 38) -/
def execChartEdit (a : HostAcc) (s : State) : Host.Outcome State Fault Refusal :=
  .next (s.wide a 4 0x28 (s.fullWrite a (fun s v => if v.testBit 17 then s else s.editGo v)))

/-- A read go copies a Chart entry into CHT_EDIT_VALUE (R318). (DEDUCED, log 38) -/
def execChartRead (a : HostAcc) (s : State) : Host.Outcome State Fault Refusal :=
  .next (s.wide a 4 0x28 (s.fullWrite a (fun s v => if v.testBit 17 then s.editGo v else s)))

/-- An edit or read completes and sets done (R318). -/
def execChartEditDone (s : State) : Host.Outcome State Fault Refusal :=
  .next (s.editDone)

/-- A move go copies a 64 KiB page between its home and a near frame (R318). -/
def execPageMove (a : HostAcc) (s : State) : Host.Outcome State Fault Refusal :=
  .next (s.wide a 4 0x50 (s.fullWrite a (fun s v => s.moveGo v)))

/-- The last write of a page move is acknowledged and done is set (R318). -/
def execPageMoveDone (s : State) : Host.Outcome State Fault Refusal :=
  .next (s.moveDone)

/-- An invalidation go starts sending a Chart range and segment mask to every engine (R319). -/
def execInvalidation (a : HostAcc) (s : State) : Host.Outcome State Fault Refusal :=
  .next (s.wide a 4 0x3C (s.fullWrite a (fun s v => s.invGo v)))

/-- An invalidation reaches an engine, which drops lines, reloads segments and marks walks (R319). -/
def execInvalidationReachEngine (e : Engine) (s : State) : Host.Outcome State Fault Refusal :=
  .next (s.invReach e)

/-- An engine acknowledges an invalidation; the last acknowledgement completes it (R319). -/
def execInvalidationAck (e : Engine) (s : State) : Host.Outcome State Fault Refusal :=
  .next (s.invAck e)

/-- A write to CHT_FRING_CFG enables or disables the fault ring, aborting pending entries on disable (R315). -/
def execFaultRingCfgWrite (p : Fin 8) (a : HostAcc) (s : State) : Host.Outcome State Fault Refusal :=
  .next (s.wide a (0x10 + p) 0x508 (s.partWrite p a (fun s v => s.fringCfg p v)))

/-- A write to CHT_FRING_HEAD frees ring space for waiting records (R315). -/
def execFaultRingHeadWrite (p : Fin 8) (a : HostAcc) (s : State) : Host.Outcome State Fault Refusal :=
  .next (s.wide a (0x10 + p) 0x510 (s.partWrite p a (fun s v => s.fringHead p v)))

end Sys2Proof.Machine
end

