-- ==== Sys2Proof/Machine/CoreEvents.lean ====
section
/-! DEFINITION. Events in a core's sequencer, array unit, element unit and convolution engine. -/

namespace Sys2Proof.Machine

/-- A waiting task becomes ready in the A-cycle after its wait condition ceases (R219). -/
def execTaskReady (c : Fin 32) (t : Fin 4) (s : State) : Host.Outcome State Fault Refusal :=
  .next ((s.onCore c (fun q => q.taskReady t)).rampCheck c)

/-- An instruction-buffer line fill completes and the held task resumes (R204). -/
def execInstructionBufferMiss (c : Fin 32) (s : State) : Host.Outcome State Fault Refusal :=
  .next (s.onBank c .fetch (fun s => s.onCore c (fun q => q.ibMiss)))

/-- 2^26 A-cycles without progress stop the core with status 0x0309 (R223). -/
def execCoreHang (c : Fin 32) (s : State) : Host.Outcome State Fault Refusal :=
  .next (s.onCore c (fun q => q.hang))

/-- A start packet reaches a core, which starts task 0 with its start registers (R196). -/
def execStartPacket (c : Fin 32) (s : State) : Host.Outcome State Fault Refusal :=
  .next (s.startPacket c)

/-- The array unit takes the command at its queue head and checks it in the stated order (R94). -/
def execArrayQueueTake (c : Fin 32) (s : State) : Host.Outcome State Fault Refusal :=
  .next (s.onCore c (fun q => q.arrayTake))

/-- A stationary load's last row is written and the slot becomes valid and usable (R96). -/
def execSlotLoadComplete (c : Fin 32) (s : State) : Host.Outcome State Fault Refusal :=
  .next (s.onCore c (fun q => q.slotLoaded))

/-- The array unit issues the tile-memory read of the next streamed vector when fewer than 27 are ahead (R102). -/
def execStreamedVectorRead (c : Fin 32) (s : State) : Host.Outcome State Fault Refusal :=
  .next (s.onBank c .feeder (fun s => s.onCore c (fun q => q.streamRead)))

/-- A returned vector is broadcast into the row feeders of every masked array once all have room (R102). -/
def execBroadcastWrite (c : Fin 32) (s : State) : Host.Outcome State Fault Refusal :=
  .next (s.onCore c (fun q => q.broadcast))

/-- In each A-cycle of an operation in issue each masked array issues or freezes (R104). -/
def execArrayIssueCycle (c : Fin 32) (s : State) : Host.Outcome State Fault Refusal :=
  .next (s.onCore c (fun q => q.arrayCycle))

/-- A file column reads a finished entry toward the element pipe, applying any row scale (R114). -/
def execDrainRead (c : Fin 32) (s : State) : Host.Outcome State Fault Refusal :=
  .next (s.onCore c (fun q => q.drainRead))

/-- During a gap the arrays issue a dummy cycle at the configured density (R127). -/
def execStationKeepingDummy (c : Fin 32) (s : State) : Host.Outcome State Fault Refusal :=
  .next (s.onCore c (fun q => q.gapCycle))

/-- The element unit takes the command at its queue head and checks it in the stated order (R153). -/
def execElementQueueTake (c : Fin 32) (s : State) : Host.Outcome State Fault Refusal :=
  .next (s.onCore c (fun q => q.elementTake))

/-- A configuration load completes and applies to later commands (R151). -/
def execConfigLoadComplete (c : Fin 32) (s : State) : Host.Outcome State Fault Refusal :=
  .next (s.onCore c (fun q => q.configLoaded))

/-- A function table load completes and the table counts as loaded (R149). -/
def execTableLoadComplete (c : Fin 32) (s : State) : Host.Outcome State Fault Refusal :=
  .next (s.onCore c (fun q => q.tableLoaded))

/-- A vector enters stage 0 once its inputs are held and lane-register gaps are met (R144). -/
def execElementVectorEntry (c : Fin 32) (s : State) : Host.Outcome State Fault Refusal :=
  .next (s.onBank c .writer (fun s => s.onBank c .pipe (fun s => s.onCore c (fun q => q.entryUnlessTrip))))

/-- The output writer converts a vector and writes it to tile memory when granted a bank (R155). -/
def execOutputWriterWrite (c : Fin 32) (s : State) : Host.Outcome State Fault Refusal :=
  .next (s.onBank c .writer (fun s => s.onCore c (fun q => q.outputWrite)))

/-- A waiting chunk runs once its handle is resident at its generation (R160). -/
def execChunkResume (c : Fin 32) (s : State) : Host.Outcome State Fault Refusal :=
  .next (s.onCore c (fun q => q.chunkResume))

/-- The state file write-back retires and waiting swaps or binds may proceed (R162). -/
def execStateWritebackDone (c : Fin 32) (s : State) : Host.Outcome State Fault Refusal :=
  .next (s.onCore c (fun q => q.writebackDone))

/-- A state swap-out makes the handle absent, or a swap-in makes it resident (R163). The bytes named are those the swap-in's reads
brought, none of a swap-out. (DESIGN CHOICE, log 64) -/
def execSwapComplete (c : Fin 32) (h : Fin 16) (data : List Byte) (s : State) : Host.Outcome State Fault Refusal :=
  .next (if (s.ownerTake (.swapIn c h)).1 = data then s.swapEnd c h.val else s)

/-- The convolution engine takes a window or global-average command and checks it (R178). -/
def execConvQueueTake (c : Fin 32) (s : State) : Host.Outcome State Fault Refusal :=
  .next (s.onCore c (fun q => q.convTake))

/-- A line load read of one plane-row is issued into a free line slot (R174). -/
def execLineLoadRead (c : Fin 32) (s : State) : Host.Outcome State Fault Refusal :=
  .next (s.onBank c .lines (fun s => s.onCore c (fun q => q.lineRead)))

/-- The engine forms the next window vector of a sweep for the bound operation (R180). -/
def execVectorFormation (c : Fin 32) (s : State) : Host.Outcome State Fault Refusal :=
  .next (s.onCore c (fun q => q.formVector))

/-- A global average writes its last mean and finishes (R190). -/
def execGlobalAverageFinish (c : Fin 32) (s : State) : Host.Outcome State Fault Refusal :=
  .next (s.onCore c (fun q => q.gavgFinish))

end Sys2Proof.Machine
end

