-- ==== Sys2Proof/Machine/FaultEvents.lean ====
section
/-! DEFINITION. Errors, soundings, resets and restarts (section 14). -/

namespace Sys2Proof.Machine

/-- A check detects an error, which is logged and sounded and may start a reset (R444). -/
def execErrorDetected (e : ErrSite) (detail : Word) (s : State) : Host.Outcome State Fault Refusal :=
  .next (s.errorDetected e detail.toNat)

/-- A sounding ends and classifies the fault as transient or lasting (R446). -/
def execSoundingComplete (u : SoundUnit) (mismatch : Bool) (s : State) : Host.Outcome State Fault Refusal :=
  .next (s.soundingComplete ⟨u.kind, u.idx, u.sub⟩ mismatch)

/-- At every tick that is a multiple of 2^32 transient counts halve (R446). -/
def execTransientCountHalve (s : State) : Host.Outcome State Fault Refusal :=
  .next (s.halveTransients)

/-- All writes and packets of the partition are drained, so sounding and clearing begin (R451). -/
def execPartitionResetDrained (p : Fin 8) (s : State) : Host.Outcome State Fault Refusal :=
  .next (s.resetDrained p)

/-- Sounding, clearing and retirement end and the reset completes (R451). -/
def execPartitionResetComplete (p : Fin 8) (s : State) : Host.Outcome State Fault Refusal :=
  .next (s.resetComplete p)

/-- A control core's watchdog expires and that control core restarts (R443). -/
def execWatchdogExpiry (c : Fin 4) (s : State) : Host.Outcome State Fault Refusal :=
  .next (s.watchdog c)

/-- A control-core restart completes and its duty resumes (R443). -/
def execControlCoreRestartDone (c : Fin 4) (s : State) : Host.Outcome State Fault Refusal :=
  .next (s.ctlRestarted c)

end Sys2Proof.Machine
end

