-- ==== Sys2Proof/Machine/HostCommands.lean ====
section
/-! DEFINITION. Host windows, register writes and reads with an effect (sections 10 and 18). -/

namespace Sys2Proof.Machine

/-- A host window or full-aperture write to on-chip memory is accepted, checked and sent to its bank (R329). -/
def execWindowWrite (mid : BitVec 8) (addr : BitVec 28) (size : BitVec 2) (data : DWord) (s : State) : Host.Outcome State Fault Refusal :=
  .next (s.memWrite mid addr.toNat size.toNat data.toNat)

/-- A host window or full-aperture read of on-chip memory returns its data (R329). -/
def execWindowRead (mid : BitVec 8) (addr : BitVec 28) (size : BitVec 2) (s : State) : Host.Outcome State Fault Refusal :=
  .next (s.hostRead mid addr.toNat size.toNat)

/-- A window write retires at its bank, releasing starts that waited for it (R47). -/
def execWindowWriteRetire (n : Nat) (s : State) : Host.Outcome State Fault Refusal :=
  .next (s.winGranted n)

/-- A write to a register with no behaviour of its own takes effect under its access code (R542). -/
def execRegisterWrite (mid : BitVec 8) (addr : BitVec 28) (size : BitVec 2) (data : DWord) (s : State) : Host.Outcome State Fault Refusal :=
  .next (if s.isPage addr.toNat then s.hostWrite mid addr.toNat size.toNat data else s)

/-- A read returns the highest temperature reading and clears it (R13). -/
def execThmMaxRead (a : HostAcc) (s : State) : Host.Outcome State Fault Refusal :=
  .next (s.regAcc a 8 4)

/-- A read returns the tick counter's low word and latches its high word (R540). -/
def execGlbTickLoRead (a : HostAcc) (s : State) : Host.Outcome State Fault Refusal :=
  .next (s.regAcc a 0 0x28)

/-- A read returns the low core-tick word and latches the high word (R410). -/
def execPrtCoreTicksLoRead (p : Fin 8) (a : HostAcc) (s : State) : Host.Outcome State Fault Refusal :=
  .next (s.regAcc a (0x10 + p) 0x20)

/-- A read of an energy register's low word latches its high word (R440). -/
def execEnergyLoRead (k : Fin 4) (a : HostAcc) (s : State) : Host.Outcome State Fault Refusal :=
  .next (s.regAcc a 7 (0x40 + 8 * k.val))

end Sys2Proof.Machine
end

