-- ==== Sys2Proof/Machine/IntakeEvents.lean ====
section
/-! DEFINITION. The Intake: sessions, lanes, batches, frame streams (section 11). -/

namespace Sys2Proof.Machine

/-- A write of tail T to a session's sample ring bell publishes sample records (R363). -/
def execItkBell (p : Fin 8) (a : HostAcc) (s : State) : Host.Outcome State Fault Refusal :=
  .next (s.wide a 5 (sesOff p 0x60) (s.fullWrite a (fun s v => s.itkBell p v)))

/-- A decode lane frees and takes a pending video frame or the next sample (R360). -/
def execIntakeLaneFree (l : Fin 4) (s : State) : Host.Outcome State Fault Refusal :=
  .next (s.laneTake l)

/-- Every 1 µs a non-current sample record is read again, up to 64 times, then sample_ahead is set (R364). -/
def execSampleRecordReread (p : Fin 8) (s : State) : Host.Outcome State Fault Refusal :=
  .next (s.recordReread p)

/-- A lane finishes a sample, resolving its slot as decoded, concealed or failed (R369). -/
def execSampleResolve (l : Fin 4) (s : State) : Host.Outcome State Fault Refusal :=
  .next (s.sampleResolve l)

/-- A sample unresolved at its budget is aborted and its slot resolves late (R376). -/
def execSampleBudgetAbort (l : Fin 4) (s : State) : Host.Outcome State Fault Refusal :=
  .next (s.budgetAbort l)

/-- A batch whose slots resolved and writes were acknowledged is prepared in sequence (R370). -/
def execBatchPrepared (p : Fin 8) (s : State) : Host.Outcome State Fault Refusal :=
  .next (s.batchPrepared p)

/-- A write frees the oldest prepared batch's buffer (R371). -/
def execItkBatchFree (p : Fin 8) (a : HostAcc) (s : State) : Host.Outcome State Fault Refusal :=
  .next (s.wide a 5 (sesOff p 0x6C) (s.fullWrite a (fun s v => s.batchFree p v)))

/-- A write closes the open batch, resolving its untaken slots as empty (R372). -/
def execItkFlush (p : Fin 8) (a : HostAcc) (s : State) : Host.Outcome State Fault Refusal :=
  .next (s.wide a 5 (sesOff p 0x68) (s.fullWrite a (fun s _ => s.itkFlush p)))

/-- A write enables or disables a session, checking the buffer stride on enable (R383). -/
def execItkSessionCfgWrite (p : Fin 8) (a : HostAcc) (s : State) : Host.Outcome State Fault Refusal :=
  .next (s.wide a 5 (sesOff p 0x08) (s.fullWrite a (fun s v => s.itkCfg p v)))

/-- A video start of frame takes the lowest free slot or drops the frame (R377). -/
def execStartOfFrame (n : Fin 4) (ts : DWord) (fnum : Word) (s : State) : Host.Outcome State Fault Refusal :=
  .next (s.frameStart n ts.toNat fnum)

/-- A video beat's pixels enter the stream's line buffer toward staging (R528). -/
def execVideoBeat (n : Fin 4) (d : DWord) (s : State) : Host.Outcome State Fault Refusal :=
  .next (s.videoBeat n d)

/-- A line ends and its length is fixed by repetition or truncation (R378). -/
def execEndOfLine (n : Fin 4) (s : State) : Host.Outcome State Fault Refusal :=
  .next (s.endOfLine n)

/-- A frame ends, its line count is fixed, and it becomes pending or is dropped when empty (R378). -/
def execEndOfFrame (n : Fin 4) (s : State) : Host.Outcome State Fault Refusal :=
  .next (s.endOfFrame n)

/-- An audio block start takes a slot for the audio stream (R377). (DEDUCED, log 57) -/
def execAudioBlockStart (n : Fin 2) (ts : DWord) (fnum : Word) (s : State) : Host.Outcome State Fault Refusal :=
  .next (s.frameStart (4 + n.val) ts.toNat fnum)

/-- Two audio samples enter the audio stream's staging (R528). -/
def execAudioBeat (n : Fin 2) (d : Word) (s : State) : Host.Outcome State Fault Refusal :=
  .next (s.beat (4 + n.val) (toLe 4 d.toNat))

/-- An audio block ends and is dispatched without a lane (R378). -/
def execAudioBlockEnd (n : Fin 2) (s : State) : Host.Outcome State Fault Refusal :=
  .next ((s.endOfLine (4 + n.val)).endOfFrame (4 + n.val))

/-- A statistics beat is attached to its frame or discarded (R381). -/
def execStatisticsBeat (n : Fin 4) (kind : Bool) (fnum : Word) (data : DWord) (first : Bool) (s : State) : Host.Outcome State Fault Refusal :=
  .next (s.statsBeat n (b2n kind) fnum data first)

/-- A frame record is written once the frame's tensor and statistics writes are acknowledged (R382). -/
def execFrameRecordWrite (n : Fin 6) (s : State) : Host.Outcome State Fault Refusal :=
  .next (s.frameRecord n)

/-- A write frees a recorded frame's slot (R382). -/
def execFrmFree (n : Fin 6) (a : HostAcc) (s : State) : Host.Outcome State Fault Refusal :=
  .next (s.wide a 6 (frmOff n 0x30) (s.fullWrite a (fun s v => s.frmFree n v)))

/-- A write configures or enables a frame stream (R383). -/
def execFrmCtrlWrite (n : Fin 6) (a : HostAcc) (s : State) : Host.Outcome State Fault Refusal :=
  .next (s.wide a 6 (frmOff n 0) (s.fullWrite a (fun s v => s.frmCtrl n v)))

/-- A host write to FRM_Sn_REC_HEAD advances a stream's frame record ring head and frees room for frame records waiting on a full ring (R382). -/
def execFrmRecHeadWrite (n : Fin 6) (a : HostAcc) (s : State) : Host.Outcome State Fault Refusal :=
  .next (s.wide a 6 (frmOff n 0x28) (s.fullWrite a (fun s v => s.frmHead n v)))

end Sys2Proof.Machine
end

