-- ==== Sys2Proof/Machine/JobEvents.lean ====
section
/-! DEFINITION. The path of a job: doorbells, dispatch, images, completion, rings (sections 1 and 10). -/

namespace Sys2Proof.Machine

/-- A doorbell arrives, is stamped, and starts a hot run, updates or appends a dispatch entry, or is dropped (R341). -/
def execDoorbell (p : Fin 8) (a : HostAcc) (s : State) : Host.Outcome State Fault Refusal :=
  .next (s.bell p a)

/-- The hot-start logic starts a run of a pinned job once earlier window writes have retired (R45). -/
def execHotRunStart (p : Fin 8) (r : Fin 8) (s : State) : Host.Outcome State Fault Refusal :=
  .next (s.hotStart p r)

/-- Control core 0 takes the next dispatch queue entry and fetches its ring's next descriptor (R36). -/
def execDispatchTake (s : State) : Host.Outcome State Fault Refusal :=
  .next (s.duty 0 State.dispatchTake)

/-- A fetched descriptor is checked for currency and admitted or refused (R37). -/
def execDescriptorFetchReturn (p : Fin 8) (r : Fin 8) (s : State) : Host.Outcome State Fault Refusal :=
  .next (s.duty 0 (fun s => s.fetchReturn p r))

/-- Every 1 µs a non-current descriptor is read again, up to 64 times, then doorbell_ahead is set (R344). -/
def execDescriptorReread (p : Fin 8) (r : Fin 8) (s : State) : Host.Outcome State Fault Refusal :=
  .next (s.duty 0 (fun s => s.reread p r))

/-- An image header and section table are read and checked (R226). The Chart entries and bytes named are those that the reads for the
job have brought. (DESIGN CHOICE, log 64) -/
def execImageHeaderReturn (p : Fin 8) (r : Fin 8) (entries : List Word) (data : List Byte) (s : State) : Host.Outcome State Fault Refusal :=
  .next (s.duty 0 (fun s => if s.binBrought p r = (entries, data) then s.headerReturn p r else s))

/-- An image load completes and its digest is checked before the cores start (R227). The bytes named are those its reads brought.
(DESIGN CHOICE, log 64) -/
def execImageLoadDone (c : Fin 32) (data : List Byte) (s : State) : Host.Outcome State Fault Refusal :=
  .next (s.duty 0 (fun s => if s.loadBrought c = data then s.loadDone c else s))

/-- A core's completion notice reaches the control stop; the last one leads to the record write (R42). -/
def execCompletionNotice (c : Fin 32) (s : State) : Host.Outcome State Fault Refusal :=
  .next (s.duty 0 (fun s => s.notice c))

/-- What follows the fabric's acknowledgement of a completion record: its ring's next run, release or parking (R43). -/
def execCompletionRecordAck (p : Fin 8) (s : State) : Host.Outcome State Fault Refusal :=
  .next (s.recordAck p State.logbook)

/-- A vector's outstanding message is acknowledged and any deferred message is sent (R355). -/
def execInterruptMessageAck (v : MsgVec) (s : State) : Host.Outcome State Fault Refusal :=
  .next (s.msiAck v)

/-- A write names a hot ring whose pinned job ends after its pending runs (R348). -/
def execHstUnpin (p : Fin 8) (a : HostAcc) (s : State) : Host.Outcome State Fault Refusal :=
  .next (s.wideCtl a p 0x0C (s.ctlWrite p a (fun s v => s.unpin p (fld 2 0 v))))

/-- A write moves the partition window base for later accesses (R330). -/
def execHstWinBaseWrite (p : Fin 8) (a : HostAcc) (s : State) : Host.Outcome State Fault Refusal :=
  .next (s.wideCtl a p 0x08 (s.ctlWrite p a (fun s v => s.winBase p v)))

/-- A write advances the completion ring head, freeing room for waiting records (R350). -/
def execHstCringHeadWrite (p : Fin 8) (a : HostAcc) (s : State) : Host.Outcome State Fault Refusal :=
  .next (s.wideCtl a p 0x10 (s.ctlWrite p a (fun s v => s.cringHead p v)))

/-- A write enables or disables the completion ring, ignored while the partition is busy (R350). -/
def execHstCringCfgWrite (p : Fin 8) (a : HostAcc) (s : State) : Host.Outcome State Fault Refusal :=
  .next (s.wide a (0x10 + p) 0x688 (s.partWrite p a (fun s v => s.cringCfg p v)))

/-- A write configures or enables a submission ring, resetting its positions and stamp (R335). -/
def execHstRingCfgWrite (p : Fin 8) (r : Fin 8) (a : HostAcc) (s : State) : Host.Outcome State Fault Refusal :=
  .next (s.wide a (0x10 + p) (0x608 + 16 * r.val) (s.partWrite p a (fun s v => s.ringCfg p r v)))

end Sys2Proof.Machine
end

