-- ==== Sys2Proof/Machine/LinkEvents.lean ====
section
/-! DEFINITION. Links, other instances and the common time (section 16). -/

namespace Sys2Proof.Machine

/-- A handshake message is received and keys are derived or the peer refused (R478). -/
def execLinkHandshake (l : Fin 4) (key : List Byte) (eph : List Byte) (sig : List Byte) (start : Nat) (s : State) : Host.Outcome State Fault Refusal :=
  .next (s.handshake l key eph sig start)

/-- A frame counter reaching 2^47 starts a new handshake (R479). -/
def execRekeyTrigger (l : Fin 4) (s : State) : Host.Outcome State Fault Refusal :=
  .next (s.rekey l)

/-- A counter reaching 2^48 − 2^32 without new keys stops the direction and takes the link down (R479). -/
def execCounterEnd (l : Fin 4) (s : State) : Host.Outcome State Fault Refusal :=
  .next (s.counterEnd l)

/-- Every lane of a link reports SerDes lock and training begins (R489). -/
def execLaneLock (l : Fin 4) (s : State) : Host.Outcome State Fault Refusal :=
  .next (s.laneLock l)

/-- A lane losing lock on an up link starts a retrain (R529). -/
def execLaneLockLoss (l : Fin 4) (lane : Fin 8) (s : State) : Host.Outcome State Fault Refusal :=
  .next (s.laneLoss l lane)

/-- A training set is received and the link advances or fails training (R489). -/
def execTrainingSet (l : Fin 4) (node : BitVec 8) (major : BitVec 8) (minor : BitVec 8) (slow : Bool) (width : Nat) (pass : BitVec 8) (date : Bool) (s : State) : Host.Outcome State Fault Refusal :=
  .next (s.trainingSet l node.toNat major.toNat minor.toNat slow width pass.toNat date)

/-- 1 ms after a failure the link restarts training (R489). -/
def execTrainingRetry (l : Fin 4) (s : State) : Host.Outcome State Fault Refusal :=
  .next (s.trainRetry l)

/-- A frame slot begins and a data, idle or control frame is sent (R488). -/
def execFrameSlot (l : Fin 4) (s : State) : Host.Outcome State Fault Refusal :=
  .next (s.frameSlot l)

/-- A data frame is checked and accepted, forwarded in transit, or rejected for replay (R492). -/
def execDataFrameReceive (l : Fin 4) (bs : List Byte) (s : State) : Host.Outcome State Fault Refusal :=
  .next (s.frameReceive l bs)

/-- An acknowledgement frees acknowledged frames from the replay buffer (R492). -/
def execLinkAck (l : Fin 4) (seq : Nat) (s : State) : Host.Outcome State Fault Refusal :=
  .next (s.linkAck l seq)

/-- A negative acknowledgement makes the sender resend from the named frame (R492). -/
def execLinkNack (l : Fin 4) (seq : Nat) (s : State) : Host.Outcome State Fault Refusal :=
  .next (s.linkNack l seq)

/-- A credit return restores send credits of a class (R491). -/
def execLinkCreditReturn (l : Fin 4) (cls : Fin 4) (n : Nat) (s : State) : Host.Outcome State Fault Refusal :=
  .next (s.linkCredit l cls n)

/-- A link lane sounding ends and the link retrains at ×4 or goes down (R493). -/
def execLinkSoundingComplete (l : Fin 4) (failed : BitVec 8) (s : State) : Host.Outcome State Fault Refusal :=
  .next (s.linkSounded l failed.toNat)

/-- Every 10 µs an instance sends a timestamped request toward the time master (R496). -/
def execTimeExchange (l : Fin 4) (s : State) : Host.Outcome State Fault Refusal :=
  .next (s.timeExchange l)

/-- A time reply gives the offset, and the tick counter slews toward the master (R496). -/
def execTimeReply (l : Fin 4) (t2 : DWord) (t3 : DWord) (hops : BitVec 8) (s : State) : Host.Outcome State Fault Refusal :=
  .next (s.timeReply l t2.toNat t3.toNat hops.toNat)

/-- A remote read request cell is served through the inbound window (R497). -/
def execRemoteReadRequest (l : Fin 5) (len : Nat) (s : State) : Host.Outcome State Fault Refusal :=
  .next (s.remoteRead l len)

/-- Remote read response frames return data to the requester (R497). -/
def execRemoteReadResponse (l : Fin 5) (s : State) : Host.Outcome State Fault Refusal :=
  .next (s.remoteData l)

/-- Remote write frames are performed through the inbound window and acknowledged (R497). -/
def execRemoteWrite (l : Fin 5) (last : Bool) (s : State) : Host.Outcome State Fault Refusal :=
  .next (s.remoteWrite l last)

/-- A write acknowledgement cell retires a remote write (R497). -/
def execRemoteWriteAck (l : Fin 5) (tag : Half) (s : State) : Host.Outcome State Fault Refusal :=
  .next (s.remoteAck l tag.toNat)

/-- An error cell for a refused remote access stops the sending core with 0x0806 (R497). -/
def execRemoteErrorCell (l : Fin 5) (tag : Half) (s : State) : Host.Outcome State Fault Refusal :=
  .next (s.remoteError l tag.toNat)

/-- A handle cell for a bound queue is delivered to the remote queue unit or the core (R498). -/
def execHandleCell (l : Fin 5) (m : HandleMsg) (s : State) : Host.Outcome State Fault Refusal :=
  .next (s.handleCell l m)

/-- A member's local chain-barrier completion reaches the root (R499). -/
def execChainBarrierArrivalCell (l : Fin 5) (cj : Half) (bar : BitVec 8) (ph : Half) (s : State) : Host.Outcome State Fault Refusal :=
  .next (s.chainArriveCell l cj.toNat bar.toNat ph)

/-- A chain-wide completion reaches a member, which delivers it to its cores (R499). -/
def execChainBarrierCompletionCell (l : Fin 5) (cj : Half) (bar : BitVec 8) (s : State) : Host.Outcome State Fault Refusal :=
  .next (s.chainDoneCell l cj.toNat bar.toNat)

/-- A divider proposal from another instance sets the job's common divider and effective tick (R429). -/
def execDividerProposalCell (l : Fin 5) (cj : Half) (div : Nat) (tick : DWord) (s : State) : Host.Outcome State Fault Refusal :=
  .next (s.dividerCell l cj.toNat div tick.toNat)

/-- A down notice ends multi-instance jobs that count a lost node (R500). -/
def execDownNotice (l : Fin 5) (nodes : List Nat) (s : State) : Host.Outcome State Fault Refusal :=
  .next (s.downNotice l nodes)

/-- A restart cell resets the job's partition and replays the job (R501). -/
def execRestartCell (l : Fin 5) (cj : Half) (n : Nat) (s : State) : Host.Outcome State Fault Refusal :=
  .next (s.restartCell l cj.toNat n)

end Sys2Proof.Machine
end

