-- ==== Sys2Proof/Machine/LodestarEvents.lean ====
section
/-! DEFINITION. The Lodestar: reports, keys, scrubs, access tables, the device key (section 15). -/

namespace Sys2Proof.Machine

/-- A report go queues the nonce and address for an attestation report (R464). -/
def execReportRequest (a : HostAcc) (s : State) : Host.Outcome State Fault Refusal :=
  .next (s.wide a 0xA 0x38 (s.fullWrite a (fun s v => s.reportRequest v)))

/-- The Lodestar takes a one-tick snapshot and signs the report when no hold applies (R467). -/
def execReportSnapshot (s : State) : Host.Outcome State Fault Refusal :=
  .next (s.reportSnapshot)

/-- All report writes are acknowledged; LDS_RPT_SEQ increments and rpt_done is set (R468). -/
def execReportWritten (s : State) : Host.Outcome State Fault Refusal :=
  .next (s.reportWritten)

/-- An install go reads and unwraps a key blob into a key slot (R469). -/
def execKeyInstall (a : HostAcc) (s : State) : Host.Outcome State Fault Refusal :=
  .next (s.wide a 0xA 0x50 (s.fullWrite a (fun s v => s.keyInstall v)))

/-- An install completes and writes its result to LDS_KEY_RESULT (R470). -/
def execKeyInstallDone (s : State) : Host.Outcome State Fault Refusal :=
  .next (s.keyDone)

/-- A clear empties a key slot under the idle condition (R470). -/
def execKeyClear (a : HostAcc) (s : State) : Host.Outcome State Fault Refusal :=
  .next (s.wide a 0xA 0x50 (s.fullWrite a (fun s v => s.keyClear v)))

/-- A scrub go starts clearing a partition, resetting it first if it is busy (R481). -/
def execScrubGo (a : HostAcc) (s : State) : Host.Outcome State Fault Refusal :=
  .next (s.wide a 0xA 0x60 (s.fullWrite a (fun s v => s.scrubGo v)))

/-- A scrub completes: the epoch increments, scrub clears and the message is sent (R484). -/
def execScrubComplete (p : Fin 8) (s : State) : Host.Outcome State Fault Refusal :=
  .next (s.scrubComplete p)

/-- Writing lock makes the access tables and peer entries immutable until reset (R476). -/
def execLdsAccLockWrite (a : HostAcc) (s : State) : Host.Outcome State Fault Refusal :=
  .next (s.wide a 0xA 0x180 (s.fullWrite a (fun s v => s.accLock v)))

/-- The Lodestar finishes deriving the device key (R462). -/
def execDeviceKeyDerived (s : State) : Host.Outcome State Fault Refusal :=
  .next (s.deviceKey)

end Sys2Proof.Machine
end

