-- ==== Sys2Proof/Machine/MessageEvents.lean ====
section
/-! DEFINITION. Events of mailboxes, barriers, waypoints, handle queues and completions on the mesh. -/

namespace Sys2Proof.Machine

/-- The message unit takes an mb.send, using a credit or requesting credits (R247). -/
def execMbSendTake (c : Fin 32) (s : State) : Host.Outcome State Fault Refusal :=
  .next (s.mbSendTake c)

/-- A credit request reaches a receiver, which grants from its pool or lists the request (R247). -/
def execCreditRequest (src : Fin 32) (dst : Fin 32) (s : State) : Host.Outcome State Fault Refusal :=
  .next (s.creditRequest src dst)

/-- A credit grant reaches the sender and releases the held mb.send (R247). -/
def execCreditGrant (src : Fin 32) (dst : Fin 32) (s : State) : Host.Outcome State Fault Refusal :=
  .next (s.creditGrant src dst)

/-- Unused credits returned by a sender reach the receiver's pool (R247). -/
def execCreditReturn (src : Fin 32) (dst : Fin 32) (s : State) : Host.Outcome State Fault Refusal :=
  .next (s.creditReturn src dst)

/-- A mailbox message occupies an entry of its receiver's mailbox (R250). -/
def execMessageArrival (src : Fin 32) (dst : Fin 32) (s : State) : Host.Outcome State Fault Refusal :=
  .next (s.messageArrival src dst)

/-- The message unit copies a claimed message to tile memory and frees its entry (R251). -/
def execMbRecvTake (c : Fin 32) (s : State) : Host.Outcome State Fault Refusal :=
  .next (s.mbRecvTake c)

/-- The message unit takes a bar.arrive, increments the arrival count and sends an arrival (R255). -/
def execBarArriveTake (c : Fin 32) (s : State) : Host.Outcome State Fault Refusal :=
  .next (s.barArriveTake c)

/-- An arrival reaches the barrier unit, which completes the phase on the last one (R256). -/
def execBarrierArrival (c : Fin 32) (b : Fin 256) (s : State) : Host.Outcome State Fault Refusal :=
  .next (s.barrierCome c b)

/-- A completion packet reaches a participant and increments its completion count (R256). -/
def execBarrierCompletion (c : Fin 32) (b : Fin 256) (s : State) : Host.Outcome State Fault Refusal :=
  .next (s.barrierDone c b)

/-- A waypoint's prior set has finished and been performed and its task may continue (R240). -/
def execWaypointSatisfied (c : Fin 32) (t : Fin 4) (s : State) : Host.Outcome State Fault Refusal :=
  .next (s.wptSatisfied c t)

/-- A release's condition holds and the signalling commands it held proceed (R242). -/
def execReleaseConditionMet (c : Fin 32) (t : Fin 4) (s : State) : Host.Outcome State Fault Refusal :=
  .next (s.releaseMet c t)

/-- The final waypoint retires once all writes are acknowledged and the core sends its completion notice (R41). -/
def execFinalWaypointRetire (c : Fin 32) (s : State) : Host.Outcome State Fault Refusal :=
  .next (s.finalEnd c)

/-- A put packet reaches the handle queue unit, which appends it or refuses it (R279). -/
def execHqPutPacket (c : Fin 32) (t : Fin 4) (s : State) : Host.Outcome State Fault Refusal :=
  .next (s.hqPutArrive c t)

/-- A get request reaches the handle queue unit, which replies with the oldest handle or lists it (R280). -/
def execHqGetRequest (c : Fin 32) (t : Fin 4) (s : State) : Host.Outcome State Fault Refusal :=
  .next (s.hqGetArrive c t)

/-- An accepted or refused reply to a put reaches the core (R279). -/
def execHqPutReply (c : Fin 32) (t : Fin 4) (s : State) : Host.Outcome State Fault Refusal :=
  .next (s.hqPutReply c t)

/-- A get reply writes the handle to the register pair (R280). -/
def execHqGetReply (c : Fin 32) (t : Fin 4) (s : State) : Host.Outcome State Fault Refusal :=
  .next (s.hqGetReply c t)

/-- A space notice reaches a refused core, whose put is issued again (R279). -/
def execHqSpaceNotice (c : Fin 32) (t : Fin 4) (s : State) : Host.Outcome State Fault Refusal :=
  .next (s.hqSpaceNotice c t)

end Sys2Proof.Machine
end

