-- ==== Sys2Proof/Machine/PartitionEvents.lean ====
section
/-! DEFINITION. Partitions, shares, reports and watch mode (section 12). -/

namespace Sys2Proof.Machine

/-- Setting enable in PRT_CTRL enables the partition if its make-up is valid (R388). (DEDUCED, log 39) -/
def execPartitionEnable (p : Fin 8) (a : HostAcc) (s : State) : Host.Outcome State Fault Refusal :=
  .next (s.wide a (0x10 + p) 0 (s.partWrite p a (fun s v => whenBit 0 v (fun s v => s.prtCtrl p v) s)))

/-- Writing reset in PRT_CTRL starts a reset that abandons the partition's jobs (R450). (DEDUCED, log 39) -/
def execPartitionResetRequest (p : Fin 8) (a : HostAcc) (s : State) : Host.Outcome State Fault Refusal :=
  .next (s.wide a (0x10 + p) 0 (s.partWrite p a (fun s v => whenBit 1 v (fun s v => s.prtCtrl p v) s)))

/-- A commit makes all staged shares active together if each resource sums to 1,024 (R391). -/
def execPrtShareCommit (a : HostAcc) (s : State) : Host.Outcome State Fault Refusal :=
  .next (s.wide a 3 0 (s.fullWrite a (fun s _ => s.shareCommit)))

/-- At each 1 ms report window the partition report registers are latched (R405). -/
def execReportWindowClose (s : State) : Host.Outcome State Fault Refusal :=
  .next (s.reportClose)

/-- A write requests watch mode for one partition, refused unless the conditions hold (R406). -/
def execWatchEnter (a : HostAcc) (s : State) : Host.Outcome State Fault Refusal :=
  .next (s.wide a 3 0x10 (s.fullWrite a (fun s v => whenBit 8 v State.watchCtrl s)))

/-- Watch-mode entry completes with other cores off and the PLL at 2.2 GHz (R407). -/
def execWatchEntryComplete (s : State) : Host.Outcome State Fault Refusal :=
  .next (s.watchEnd)

/-- A write of exit starts a wake from watch mode (R409). -/
def execWatchExit (a : HostAcc) (s : State) : Host.Outcome State Fault Refusal :=
  .next (s.wide a 3 0x10 (s.fullWrite a (fun s v => whenBit 9 v State.watchCtrl s)))

/-- The wake completes and waiting doorbells are taken (R409). -/
def execWakeComplete (s : State) : Host.Outcome State Fault Refusal :=
  .next (s.wakeDone)

end Sys2Proof.Machine
end

