-- ==== Sys2Proof/Machine/PortEvents.lean ====
section
/-! DEFINITION. The fabric and near-memory ports and the test port (section 18). -/

namespace Sys2Proof.Machine

/-- A read response beat arrives on a fabric or near-memory channel (R522). -/
def execFabricReadResponse (ch : Nat) (tag : Nat) (data : List Byte) (last : Bool) (err : Bool) (s : State) : Host.Outcome State Fault Refusal :=
  .next (s.fabRead ch tag data last err)

/-- A write acknowledgement arrives on a fabric or near-memory channel (R522). -/
def execFabricWriteAck (ch : Nat) (tag : Nat) (err : Bool) (s : State) : Host.Outcome State Fault Refusal :=
  .next (s.fabAck ch tag err)

/-- 1 µs after an error an access made for no job is retried once (R524). -/
def execFabricRetry (n : Nat) (s : State) : Host.Outcome State Fault Refusal :=
  .next (s.fabRetry n)

/-- An edge of the test clock advances the test port; an internal scan instruction that R474 does not lock stops the model: the spec does not say what it does (R535). -/
def execTestPortTck (rise : Bool) (tms : Bool) (tdi : Bool) (trst : Bool) (s : State) : Host.Outcome State Fault Refusal :=
  if !trst && !s.scanLocked && s.tap.internal then .fault .internalScan else .next (s.tck rise tms tdi trst)

end Sys2Proof.Machine
end

