-- ==== Sys2Proof/Machine/PowerEvents.lean ====
section
/-! DEFINITION. Power, energy and heat (section 13). -/

namespace Sys2Proof.Machine

/-- At each 2 µs interval the controller sets the power target, budgets and core limits (R420). -/
def execPowerIntervalClose (acts : List Activity) (other : Activity) (itk : Nat) (s : State) : Host.Outcome State Fault Refusal :=
  .next (s.intervalClose acts other itk)

/-- At each 1 ms boundary k is updated and memory and link ceilings move (R418). -/
def execOneMsBoundary (s : State) : Host.Outcome State Fault Refusal :=
  .next (s.oneMs)

/-- The block moves between nominal and economy points (R412). -/
def execOperatingPointChange (s : State) : Host.Outcome State Fault Refusal :=
  .next (s.pointChange)

/-- The regulator acknowledges a voltage request and the dividers change (R412). -/
def execPwVreqAck (s : State) : Host.Outcome State Fault Refusal :=
  .next (s.vreqAck)

/-- A margin monitor's slack code adjusts the voltage trim (R413). -/
def execMarginReport (c : Fin 32) (code : BitVec 8) (s : State) : Host.Outcome State Fault Refusal :=
  .next (s.marginReport c code.toNat)

/-- A rail current sample contributes to measured power (R418). -/
def execCurrentSample (rail : Fin 4) (data : Half) (s : State) : Host.Outcome State Fault Refusal :=
  .next (s.currentSample rail data.toNat)

/-- 100 µs without a current sample returns control to reckoned power and sets tm_lost (R418). -/
def execTelemetryLost (s : State) : Host.Outcome State Fault Refusal :=
  .next (s.telemetryLost)

/-- A temperature sample updates readings and may trip or release the trip (R437). -/
def execTemperatureSample (sensor : Fin 64) (t : Half) (s : State) : Host.Outcome State Fault Refusal :=
  .next (s.reading sensor t.toInt s.tick)

/-- A sensor silent for 1 ms counts as reading 118 °C (R531). -/
def execSensorSilent (sensor : Fin 64) (s : State) : Host.Outcome State Fault Refusal :=
  .next (s.sensorSilent sensor)

/-- A write acknowledges an asserted trip (R438). -/
def execThmTripAck (a : HostAcc) (s : State) : Host.Outcome State Fault Refusal :=
  .next (s.wide a 8 0x10 (s.fullWrite a (fun s _ => s.tripAck)))

/-- A write sets the cap, limited to PWR_CAP_MAX, from the next interval (R419). -/
def execPwrCapWrite (a : HostAcc) (s : State) : Host.Outcome State Fault Refusal :=
  .next (s.wide a 7 0x08 (s.fullWrite a (fun s v => s.capWrite v)))

/-- A commit makes staged power shares active if they sum to 1,024 (R424). -/
def execPwrShareCommit (a : HostAcc) (s : State) : Host.Outcome State Fault Refusal :=
  .next (s.wide a 7 0x2C (s.fullWrite a (fun s _ => s.pwrCommit)))

/-- At the effective tick every instance applies the common divider of the job (R429). -/
def execDividerApply (cj : Half) (s : State) : Host.Outcome State Fault Refusal :=
  .next (s.dividerApply cj.toNat)

end Sys2Proof.Machine
end

