-- ==== Sys2Proof/Machine/Scalar.lean ====
section
/-! DEFINITION. Scalar, memory and control instructions (Tables 6.4 and 6.5). -/

namespace Sys2Proof.Machine

/-- Scalar add of s[ra] and b into s[rd], wrapping modulo 2^32 (R200). -/
def execAdd (c : Fin 32) (f : Fields) (s : State) : Host.Outcome State Fault Refusal :=
  .next (s.onCore c (fun q => q.alu f 1 (fun a b => a + b)))

/-- Scalar subtract of b from s[ra] into s[rd], wrapping modulo 2^32 (R200). -/
def execSub (c : Fin 32) (f : Fields) (s : State) : Host.Outcome State Fault Refusal :=
  .next (s.onCore c (fun q => q.alu f 1 (fun a b => a - b)))

/-- Bitwise AND of s[ra] and b into s[rd] (R200). -/
def execAnd (c : Fin 32) (f : Fields) (s : State) : Host.Outcome State Fault Refusal :=
  .next (s.onCore c (fun q => q.alu f 1 (fun a b => a &&& b)))

/-- Bitwise OR of s[ra] and b into s[rd] (R200). -/
def execOr (c : Fin 32) (f : Fields) (s : State) : Host.Outcome State Fault Refusal :=
  .next (s.onCore c (fun q => q.alu f 1 (fun a b => a ||| b)))

/-- Bitwise XOR of s[ra] and b into s[rd] (R200). -/
def execXor (c : Fin 32) (f : Fields) (s : State) : Host.Outcome State Fault Refusal :=
  .next (s.onCore c (fun q => q.alu f 1 (fun a b => a ^^^ b)))

/-- Shift s[ra] left by b mod 32 into s[rd] (R200). -/
def execShl (c : Fin 32) (f : Fields) (s : State) : Host.Outcome State Fault Refusal :=
  .next (s.onCore c (fun q => q.alu f 1 (fun a b => a <<< (b.toNat % 32))))

/-- Logical right shift of s[ra] by b mod 32, filling with zeros (R200). -/
def execShr (c : Fin 32) (f : Fields) (s : State) : Host.Outcome State Fault Refusal :=
  .next (s.onCore c (fun q => q.alu f 1 (fun a b => a >>> (b.toNat % 32))))

/-- Arithmetic right shift of s[ra] by b mod 32, filling with the sign (R200). -/
def execSra (c : Fin 32) (f : Fields) (s : State) : Host.Outcome State Fault Refusal :=
  .next (s.onCore c (fun q => q.alu f 1 (fun a b => a.sshiftRight (b.toNat % 32))))

/-- Low 32 bits of s[ra] times b into s[rd], usable three A-cycles later (R200). -/
def execMul (c : Fin 32) (f : Fields) (s : State) : Host.Outcome State Fault Refusal :=
  .next (s.onCore c (fun q => q.alu f 3 (fun a b => a * b)))

/-- High 32 bits of the unsigned product of s[ra] and b into s[rd] (R200). -/
def execMulhu (c : Fin 32) (f : Fields) (s : State) : Host.Outcome State Fault Refusal :=
  .next (s.onCore c (fun q => q.alu f 3 (fun a b => BitVec.ofNat 32 (a.toNat * b.toNat / 2 ^ 32))))

/-- Signed minimum of s[ra] and b into s[rd] (R200). -/
def execMin (c : Fin 32) (f : Fields) (s : State) : Host.Outcome State Fault Refusal :=
  .next (s.onCore c (fun q => q.alu f 1 (fun a b => if a.slt b then a else b)))

/-- Signed maximum of s[ra] and b into s[rd] (R200). -/
def execMax (c : Fin 32) (f : Fields) (s : State) : Host.Outcome State Fault Refusal :=
  .next (s.onCore c (fun q => q.alu f 1 (fun a b => if a.slt b then b else a)))

/-- Unsigned minimum of s[ra] and b into s[rd] (R200). -/
def execMinu (c : Fin 32) (f : Fields) (s : State) : Host.Outcome State Fault Refusal :=
  .next (s.onCore c (fun q => q.alu f 1 (fun a b => if a.ult b then a else b)))

/-- Unsigned maximum of s[ra] and b into s[rd] (R200). -/
def execMaxu (c : Fin 32) (f : Fields) (s : State) : Host.Outcome State Fault Refusal :=
  .next (s.onCore c (fun q => q.alu f 1 (fun a b => if a.ult b then b else a)))

/-- Sets s[rd] to b (R200). -/
def execMov (c : Fin 32) (f : Fields) (s : State) : Host.Outcome State Fault Refusal :=
  .next (s.onCore c (fun q => q.mov f))

/-- Sets predicate p[rd[2:0]] when s[ra] equals b (R200). -/
def execCeq (c : Fin 32) (f : Fields) (s : State) : Host.Outcome State Fault Refusal :=
  .next (s.onCore c (fun q => q.compare f (fun a b => a == b)))

/-- Sets predicate p[rd[2:0]] when s[ra] differs from b (R200). -/
def execCne (c : Fin 32) (f : Fields) (s : State) : Host.Outcome State Fault Refusal :=
  .next (s.onCore c (fun q => q.compare f (fun a b => a != b)))

/-- Sets predicate p[rd[2:0]] when s[ra] is signed less than b (R200). -/
def execClt (c : Fin 32) (f : Fields) (s : State) : Host.Outcome State Fault Refusal :=
  .next (s.onCore c (fun q => q.compare f (fun a b => a.slt b)))

/-- Sets predicate p[rd[2:0]] when s[ra] is signed greater than or equal to b (R200). -/
def execCge (c : Fin 32) (f : Fields) (s : State) : Host.Outcome State Fault Refusal :=
  .next (s.onCore c (fun q => q.compare f (fun a b => !a.slt b)))

/-- Sets predicate p[rd[2:0]] when s[ra] is unsigned less than b (R200). -/
def execCltu (c : Fin 32) (f : Fields) (s : State) : Host.Outcome State Fault Refusal :=
  .next (s.onCore c (fun q => q.compare f (fun a b => a.ult b)))

/-- Sets predicate p[rd[2:0]] when s[ra] is unsigned greater than or equal to b (R200). -/
def execCgeu (c : Fin 32) (f : Fields) (s : State) : Host.Outcome State Fault Refusal :=
  .next (s.onCore c (fun q => q.compare f (fun a b => !a.ult b)))

/-- Predicate AND of two predicates, the second optionally inverted (R200). -/
def execPand (c : Fin 32) (f : Fields) (s : State) : Host.Outcome State Fault Refusal :=
  .next (s.onCore c (fun q => q.predOp f (fun x y => x && y)))

/-- Predicate OR of two predicates, the second optionally inverted (R200). -/
def execPor (c : Fin 32) (f : Fields) (s : State) : Host.Outcome State Fault Refusal :=
  .next (s.onCore c (fun q => q.predOp f (fun x y => x || y)))

/-- Predicate XOR of two predicates, the second optionally inverted (R200). -/
def execPxor (c : Fin 32) (f : Fields) (s : State) : Host.Outcome State Fault Refusal :=
  .next (s.onCore c (fun q => q.predOp f (fun x y => x != y)))

/-- Reads a program CSR into s[rd], latching the high word when a 64-bit counter's low word is read (R224). -/
def execCsrr (c : Fin 32) (f : Fields) (s : State) : Host.Outcome State Fault Refusal :=
  .next (s.onCore c (fun q => q.csrr f c.val s.tick))

/-- A program CSR is written; a write of the phase marker also ends the phase for the phase tables (R224, R431). -/
def execCsrw (c : Fin 32) (f : Fields) (s : State) : Host.Outcome State Fault Refusal :=
  .next (s.csrwMark c f)

/-- Loads a 32-bit tile-memory word into s[rd], usable eight A-cycles later (R200). -/
def execLd (c : Fin 32) (f : Fields) (s : State) : Host.Outcome State Fault Refusal :=
  .next (s.onCore c (fun q => q.ld f))

/-- Stores s[rb] to a 32-bit tile-memory word, retiring four A-cycles after issue (R200). -/
def execSt (c : Fin 32) (f : Fields) (s : State) : Host.Outcome State Fault Refusal :=
  .next (s.onCore c (fun q => q.st f))

/-- Relative branch, popping loop levels whose body the target leaves (R203). -/
def execBr (c : Fin 32) (f : Fields) (s : State) : Host.Outcome State Fault Refusal :=
  .next (s.onCore c (fun q => q.br f))

/-- Register-relative jump, popping loop levels whose body the target leaves (R203). -/
def execJmp (c : Fin 32) (f : Fields) (s : State) : Host.Outcome State Fault Refusal :=
  .next (s.onCore c (fun q => q.jmp f))

/-- Pushes a loop level with a count and body length, or skips the body when the count is 0 (R202). -/
def execLoop (c : Fin 32) (f : Fields) (s : State) : Host.Outcome State Fault Refusal :=
  .next (s.onCore c (fun q => q.loop f))

/-- Occupies its issue cycle with no effect (R198). -/
def execNop (c : Fin 32) (f : Fields) (s : State) : Host.Outcome State Fault Refusal :=
  .next (s.onCore c (fun q => q.nop f))

end Sys2Proof.Machine
end

