-- ==== Sys2Proof/Machine/StartEvents.lean ====
section
/-! DEFINITION. Block reset, start-up, the Almanac and power-down (sections 17 and 18). -/

namespace Sys2Proof.Machine

/-- Assertion of RST_POR_N resets the block (R534). -/
def execPorAssert (s : State) : Host.Outcome State Fault Refusal :=
  .next (s.porAssert)

/-- Deassertion of RST_POR_N starts the start-up phases (R504). -/
def execPorDeassert (nvMode : Bool) (nvSpeed : BitVec 2) (s : State) : Host.Outcome State Fault Refusal :=
  .next (s.porDeassert nvMode nvSpeed.toNat)

/-- Fuse sensing ends and the PLL lock begins (R504). -/
def execFuseSenseDone (f : Fuses) (s : State) : Host.Outcome State Fault Refusal :=
  .next (s.fuseDone f)

/-- The Meridian PLL locks and clocks are released (R504). -/
def execPllLock (s : State) : Host.Outcome State Fault Refusal :=
  .next (s.pllLock)

/-- ROM boot and remap end, or the block halts with too few good cores (R504). -/
def execBinnacleBootDone (s : State) : Host.Outcome State Fault Refusal :=
  .next (s.bootDone)

/-- NVM discovery selects the read mode (R506). -/
def execNvmDiscoveryDone (mode : BitVec 4) (addr4 : Bool) (s : State) : Host.Outcome State Fault Refusal :=
  .next (s.discoveryDone mode.toNat addr4)

/-- An Almanac copy is read and checked, and the copy to use is chosen (R509). -/
def execCopyReadDone (data : List Byte) (s : State) : Host.Outcome State Fault Refusal :=
  .next (s.copyDone data)

/-- Firmware starts and the sections, defaults and commits are applied (R511). -/
def execSectionsApplied (s : State) : Host.Outcome State Fault Refusal :=
  .next (s.sectionsApplied)

/-- The Chart region and memories are cleared and the block becomes ready (R504). -/
def execChartClearDone (s : State) : Host.Outcome State Fault Refusal :=
  .next (s.chartCleared)

/-- A load go checks a pushed image in await-host and continues start-up (R515). -/
def execAlmLoad (a : HostAcc) (s : State) : Host.Outcome State Fault Refusal :=
  .next (s.wide a 0xC 0x2C (s.almWrite a (fun s v => if fld 1 0 v = 0 then s.almCtrl v else s)))

/-- A program go checks an image and writes it to the copy not in use (R516). -/
def execAlmProgram (a : HostAcc) (s : State) : Host.Outcome State Fault Refusal :=
  .next (s.wide a 0xC 0x2C (s.almWrite a (fun s v => if fld 1 0 v = 1 then s.almCtrl v else s)))

/-- An activate go replaces the running firmware when every partition is idle (R516). -/
def execAlmActivate (a : HostAcc) (s : State) : Host.Outcome State Fault Refusal :=
  .next (s.wide a 0xC 0x2C (s.almWrite a (fun s v => if fld 1 0 v = 2 then s.almCtrl v else s)))

/-- A program or activation ends, setting done and ALM_RESULT (R516). -/
def execAlmOperationDone (nvOk : Bool) (s : State) : Host.Outcome State Fault Refusal :=
  .next (s.almOpDone nvOk)

/-- A power-down request is answered with NACK or the block prepares for down-ready (R533). -/
def execPwDownReq (level : Bool) (s : State) : Host.Outcome State Fault Refusal :=
  .next (s.downRequest level)

/-- After pending writes are acknowledged PW_DOWN_ACK rises and PW_MODE reads 3 (R533). -/
def execDownReady (s : State) : Host.Outcome State Fault Refusal :=
  .next (s.downReady)

end Sys2Proof.Machine
end

