-- ==== Sys2Proof/Machine/StreamEvents.lean ====
section
/-! DEFINITION. Events of the stream engines. -/

namespace Sys2Proof.Machine

/-- The stream engine takes a str.go for an idle slot, reads and checks its descriptor list (R262). -/
def execStrGoTake (c : Fin 32) (s : State) : Host.Outcome State Fault Refusal :=
  .next (s.strTake c)

/-- The next descriptor of a list starts after the previous one finishes, with its start checks (R262). -/
def execDescriptorStart (c : Fin 32) (k : Fin 6) (s : State) : Host.Outcome State Fault Refusal :=
  .next (s.descStart c k)

/-- A buf.release at the stream queue head empties a landed half and increments its generation (R275). -/
def execBufReleaseTake (c : Fin 32) (s : State) : Host.Outcome State Fault Refusal :=
  .next (s.bufReleaseTake c)

/-- A slot waiting on a landed destination half proceeds once the half is empty at its generation (R273). -/
def execHalfWaitEnd (c : Fin 32) (k : Fin 6) (s : State) : Host.Outcome State Fault Refusal :=
  .next (s.halfWaitEnd c k)

/-- A slot issues its next request of up to 1 KiB within the outstanding limits (R269). -/
def execStreamRequestIssue (c : Fin 32) (s : State) : Host.Outcome State Fault Refusal :=
  .next (s.strRequest c)

/-- Read data returns to a stream slot and is written to its destination (R269). -/
def execStreamReadReturn (c : Fin 32) (k : Fin 6) (n : Nat) (s : State) : Host.Outcome State Fault Refusal :=
  .next (s.onBank c .streamRead (fun s => s.onBank c .streamWrite (fun s => s.strReturn c k n)))

/-- A transfer finishes when all requests are issued, reads returned and writes performed at core scope (R270). -/
def execTransferFinished (c : Fin 32) (k : Fin 6) (s : State) : Host.Outcome State Fault Refusal :=
  .next (s.transferFinished c k)

/-- A forwarded chain packet is written by the active chain receive and forwarded to the successor (R286). -/
def execChainForwardPacket (c : Fin 32) (k : Fin 8) (s : State) : Host.Outcome State Fault Refusal :=
  .next (s.chainArrive c k)

end Sys2Proof.Machine
end

