-- ==== Sys2Proof/Machine/UnitCommands.lean ====
section
/-! DEFINITION. Unit commands, streams, handle queues, messages, barriers, waypoints and tasks (Tables 6.6 to 6.11). -/

namespace Sys2Proof.Machine

/-- Dispatches an array operation, copying its parameter block into the array queue (R211). -/
def execArrOp (c : Fin 32) (f : Fields) (s : State) : Host.Outcome State Fault Refusal :=
  .next (s.onCore c (fun q => q.arrOp f))

/-- Dispatches a stationary load into the array queue (R96). -/
def execArrLoad (c : Fin 32) (f : Fields) (s : State) : Host.Outcome State Fault Refusal :=
  .next (s.onCore c (fun q => q.arrLoad f))

/-- Dispatches an element command with its parameter block into the element queue (R152). -/
def execElpCmd (c : Fin 32) (f : Fields) (s : State) : Host.Outcome State Fault Refusal :=
  .next (s.onCore c (fun q => q.elpCmd f))

/-- Dispatches a load of one of the four element-pipe configurations (R151). -/
def execElpCfg (c : Fin 32) (f : Fields) (s : State) : Host.Outcome State Fault Refusal :=
  .next (s.onCore c (fun q => q.elpLoad f 64 .cfg))

/-- Dispatches a load of one of the four function tables (R149). -/
def execElpTable (c : Fin 32) (f : Fields) (s : State) : Host.Outcome State Fault Refusal :=
  .next (s.onCore c (fun q => q.elpLoad f 3104 .table))

/-- Dispatches a bind of a state handle, setting its fields and making it resident (R159). -/
def execElpBind (c : Fin 32) (f : Fields) (s : State) : Host.Outcome State Fault Refusal :=
  .next (s.onCore c (fun q => q.elpBind f))

/-- Dispatches a swap-out of a state handle to its home engine address (R163). -/
def execElpSwapout (c : Fin 32) (f : Fields) (s : State) : Host.Outcome State Fault Refusal :=
  .next (s.onCore c (fun q => q.elpSwap f .swapOut))

/-- Dispatches a swap-in of a state handle from its home engine address (R163). -/
def execElpSwapin (c : Fin 32) (f : Fields) (s : State) : Host.Outcome State Fault Refusal :=
  .next (s.onCore c (fun q => q.elpSwap f .swapIn))

/-- Dispatches a window command to the convolution engine queue (R177). -/
def execCnvWin (c : Fin 32) (f : Fields) (s : State) : Host.Outcome State Fault Refusal :=
  .next (s.onCore c (fun q => q.cnvWin f))

/-- Dispatches a global-average command to the convolution engine queue (R190). -/
def execCnvGavg (c : Fin 32) (f : Fields) (s : State) : Host.Outcome State Fault Refusal :=
  .next (s.onCore c (fun q => q.cnvGavg f))

/-- Dispatches a descriptor list for a stream slot into the stream queue (R262). -/
def execStrGo (c : Fin 32) (f : Fields) (s : State) : Host.Outcome State Fault Refusal :=
  .next (s.onCore c (fun q => q.strGo f))

/-- Waits until the named stream slot has finished (R217). -/
def execStrWait (c : Fin 32) (f : Fields) (s : State) : Host.Outcome State Fault Refusal :=
  .next (s.onCore c (fun q => q.strWait f))

/-- Sets a predicate while the named stream slot is busy (R214). -/
def execStrTest (c : Fin 32) (f : Fields) (s : State) : Host.Outcome State Fault Refusal :=
  .next (s.onCore c (fun q => q.strTest f))

/-- Waits until the named half of the core's buffer has landed (R274). -/
def execBufAwait (c : Fin 32) (f : Fields) (s : State) : Host.Outcome State Fault Refusal :=
  .next (s.onCore c (fun q => q.bufAwait f))

/-- Dispatches a release of a landed buffer half into the stream queue (R275). -/
def execBufRelease (c : Fin 32) (f : Fields) (s : State) : Host.Outcome State Fault Refusal :=
  .next (s.onCore c (fun q => q.bufRelease f))

/-- Injects a put packet carrying a handle to a handle queue and waits for the reply (R279). -/
def execHqPut (c : Fin 32) (f : Fields) (s : State) : Host.Outcome State Fault Refusal :=
  .next (s.hqPutOp c f)

/-- Injects a get request to a handle queue and waits for the handle (R280). -/
def execHqGet (c : Fin 32) (f : Fields) (s : State) : Host.Outcome State Fault Refusal :=
  .next (s.hqGetOp c f)

/-- Sets a predicate when the named handle queue holds a handle (R214). -/
def execHqTest (c : Fin 32) (f : Fields) (s : State) : Host.Outcome State Fault Refusal :=
  .next (s.onCore c (fun q => q.hqTest f (s.hqLocal c) (s.hqHolds c)))

/-- Dispatches a 64 B mailbox message to a logical core of the job (R246). -/
def execMbSend (c : Fin 32) (f : Fields) (s : State) : Host.Outcome State Fault Refusal :=
  .next (s.onCore c (fun q => q.mbSend f))

/-- Claims the earliest unclaimed mailbox entry and dispatches its copy into tile memory (R251). -/
def execMbRecv (c : Fin 32) (f : Fields) (s : State) : Host.Outcome State Fault Refusal :=
  .next (s.onCore c (fun q => q.mbRecv f))

/-- Sets a predicate when the mailbox holds an unclaimed message (R251). -/
def execMbTest (c : Fin 32) (f : Fields) (s : State) : Host.Outcome State Fault Refusal :=
  .next (s.onCore c (fun q => q.mbTest f))

/-- Dispatches an arrival at a barrier into the message queue (R255). -/
def execBarArrive (c : Fin 32) (f : Fields) (s : State) : Host.Outcome State Fault Refusal :=
  .next (s.onCore c (fun q => q.barArrive f))

/-- Waits while the core's arrivals at a barrier exceed its completions (R255). -/
def execBarWait (c : Fin 32) (f : Fields) (s : State) : Host.Outcome State Fault Refusal :=
  .next (s.barWaitOp c f)

/-- Issues a full, acquire or release waypoint over the named units and scope (R240). -/
def execWpt (c : Fin 32) (f : Fields) (s : State) : Host.Outcome State Fault Refusal :=
  .next (s.onCore c (fun q => q.wpt f (s.performed c)))

/-- Task 0 waits until tasks 1 to 3 are idle and then for the final waypoint (R222). -/
def execWptFinal (c : Fin 32) (f : Fields) (s : State) : Host.Outcome State Fault Refusal :=
  .next (s.onCore c (fun q => q.wptFinal f))

/-- Makes an idle task ready at an entry with copies of s0 to s3 (R215). -/
def execTaskDecl (c : Fin 32) (f : Fields) (s : State) : Host.Outcome State Fault Refusal :=
  .next (s.onCore c (fun q => q.taskDecl f))

/-- Makes the running task ready and switches if another task is ready (R220). -/
def execTaskYield (c : Fin 32) (f : Fields) (s : State) : Host.Outcome State Fault Refusal :=
  .next (s.onCore c (fun q => q.taskYield f))

/-- Makes the running task idle (R216). -/
def execTaskEnd (c : Fin 32) (f : Fields) (s : State) : Host.Outcome State Fault Refusal :=
  .next (s.onCore c (fun q => q.taskEnd f))

end Sys2Proof.Machine
end

