-- ==== Sys2Proof/Machine/Dispatch.lean ====
section
/-! DEFINITION. Each command sent to its meaning, one arm per constructor. -/

namespace Sys2Proof.Machine

/-- The effect of a command on everything but the queue. -/
def exec (i : Instr) (s : State) : Host.Outcome State Fault Refusal :=
  match i with
  | .add c f => Sys2Proof.Machine.execAdd c f s
  | .sub c f => Sys2Proof.Machine.execSub c f s
  | .and c f => Sys2Proof.Machine.execAnd c f s
  | .or c f => Sys2Proof.Machine.execOr c f s
  | .xor c f => Sys2Proof.Machine.execXor c f s
  | .shl c f => Sys2Proof.Machine.execShl c f s
  | .shr c f => Sys2Proof.Machine.execShr c f s
  | .sra c f => Sys2Proof.Machine.execSra c f s
  | .mul c f => Sys2Proof.Machine.execMul c f s
  | .mulhu c f => Sys2Proof.Machine.execMulhu c f s
  | .min c f => Sys2Proof.Machine.execMin c f s
  | .max c f => Sys2Proof.Machine.execMax c f s
  | .minu c f => Sys2Proof.Machine.execMinu c f s
  | .maxu c f => Sys2Proof.Machine.execMaxu c f s
  | .mov c f => Sys2Proof.Machine.execMov c f s
  | .ceq c f => Sys2Proof.Machine.execCeq c f s
  | .cne c f => Sys2Proof.Machine.execCne c f s
  | .clt c f => Sys2Proof.Machine.execClt c f s
  | .cge c f => Sys2Proof.Machine.execCge c f s
  | .cltu c f => Sys2Proof.Machine.execCltu c f s
  | .cgeu c f => Sys2Proof.Machine.execCgeu c f s
  | .pand c f => Sys2Proof.Machine.execPand c f s
  | .por c f => Sys2Proof.Machine.execPor c f s
  | .pxor c f => Sys2Proof.Machine.execPxor c f s
  | .csrr c f => Sys2Proof.Machine.execCsrr c f s
  | .csrw c f => Sys2Proof.Machine.execCsrw c f s
  | .ld c f => Sys2Proof.Machine.execLd c f s
  | .st c f => Sys2Proof.Machine.execSt c f s
  | .br c f => Sys2Proof.Machine.execBr c f s
  | .jmp c f => Sys2Proof.Machine.execJmp c f s
  | .loop c f => Sys2Proof.Machine.execLoop c f s
  | .nop c f => Sys2Proof.Machine.execNop c f s
  | .arrOp c f => Sys2Proof.Machine.execArrOp c f s
  | .arrLoad c f => Sys2Proof.Machine.execArrLoad c f s
  | .elpCmd c f => Sys2Proof.Machine.execElpCmd c f s
  | .elpCfg c f => Sys2Proof.Machine.execElpCfg c f s
  | .elpTable c f => Sys2Proof.Machine.execElpTable c f s
  | .elpBind c f => Sys2Proof.Machine.execElpBind c f s
  | .elpSwapout c f => Sys2Proof.Machine.execElpSwapout c f s
  | .elpSwapin c f => Sys2Proof.Machine.execElpSwapin c f s
  | .cnvWin c f => Sys2Proof.Machine.execCnvWin c f s
  | .cnvGavg c f => Sys2Proof.Machine.execCnvGavg c f s
  | .strGo c f => Sys2Proof.Machine.execStrGo c f s
  | .strWait c f => Sys2Proof.Machine.execStrWait c f s
  | .strTest c f => Sys2Proof.Machine.execStrTest c f s
  | .bufAwait c f => Sys2Proof.Machine.execBufAwait c f s
  | .bufRelease c f => Sys2Proof.Machine.execBufRelease c f s
  | .hqPut c f => Sys2Proof.Machine.execHqPut c f s
  | .hqGet c f => Sys2Proof.Machine.execHqGet c f s
  | .hqTest c f => Sys2Proof.Machine.execHqTest c f s
  | .mbSend c f => Sys2Proof.Machine.execMbSend c f s
  | .mbRecv c f => Sys2Proof.Machine.execMbRecv c f s
  | .mbTest c f => Sys2Proof.Machine.execMbTest c f s
  | .barArrive c f => Sys2Proof.Machine.execBarArrive c f s
  | .barWait c f => Sys2Proof.Machine.execBarWait c f s
  | .wpt c f => Sys2Proof.Machine.execWpt c f s
  | .wptFinal c f => Sys2Proof.Machine.execWptFinal c f s
  | .taskDecl c f => Sys2Proof.Machine.execTaskDecl c f s
  | .taskYield c f => Sys2Proof.Machine.execTaskYield c f s
  | .taskEnd c f => Sys2Proof.Machine.execTaskEnd c f s
  | .taskReady c t => Sys2Proof.Machine.execTaskReady c t s
  | .instructionBufferMiss c => Sys2Proof.Machine.execInstructionBufferMiss c s
  | .coreHang c => Sys2Proof.Machine.execCoreHang c s
  | .startPacket c => Sys2Proof.Machine.execStartPacket c s
  | .arrayQueueTake c => Sys2Proof.Machine.execArrayQueueTake c s
  | .slotLoadComplete c => Sys2Proof.Machine.execSlotLoadComplete c s
  | .streamedVectorRead c => Sys2Proof.Machine.execStreamedVectorRead c s
  | .broadcastWrite c => Sys2Proof.Machine.execBroadcastWrite c s
  | .arrayIssueCycle c => Sys2Proof.Machine.execArrayIssueCycle c s
  | .drainRead c => Sys2Proof.Machine.execDrainRead c s
  | .stationKeepingDummy c => Sys2Proof.Machine.execStationKeepingDummy c s
  | .elementQueueTake c => Sys2Proof.Machine.execElementQueueTake c s
  | .configLoadComplete c => Sys2Proof.Machine.execConfigLoadComplete c s
  | .tableLoadComplete c => Sys2Proof.Machine.execTableLoadComplete c s
  | .elementVectorEntry c => Sys2Proof.Machine.execElementVectorEntry c s
  | .outputWriterWrite c => Sys2Proof.Machine.execOutputWriterWrite c s
  | .chunkResume c => Sys2Proof.Machine.execChunkResume c s
  | .stateWritebackDone c => Sys2Proof.Machine.execStateWritebackDone c s
  | .swapComplete c h data => Sys2Proof.Machine.execSwapComplete c h data s
  | .convQueueTake c => Sys2Proof.Machine.execConvQueueTake c s
  | .lineLoadRead c => Sys2Proof.Machine.execLineLoadRead c s
  | .vectorFormation c => Sys2Proof.Machine.execVectorFormation c s
  | .globalAverageFinish c => Sys2Proof.Machine.execGlobalAverageFinish c s
  | .mbSendTake c => Sys2Proof.Machine.execMbSendTake c s
  | .creditRequest src dst => Sys2Proof.Machine.execCreditRequest src dst s
  | .creditGrant src dst => Sys2Proof.Machine.execCreditGrant src dst s
  | .creditReturn src dst => Sys2Proof.Machine.execCreditReturn src dst s
  | .messageArrival src dst => Sys2Proof.Machine.execMessageArrival src dst s
  | .mbRecvTake c => Sys2Proof.Machine.execMbRecvTake c s
  | .barArriveTake c => Sys2Proof.Machine.execBarArriveTake c s
  | .barrierArrival c b => Sys2Proof.Machine.execBarrierArrival c b s
  | .barrierCompletion c b => Sys2Proof.Machine.execBarrierCompletion c b s
  | .waypointSatisfied c t => Sys2Proof.Machine.execWaypointSatisfied c t s
  | .releaseConditionMet c t => Sys2Proof.Machine.execReleaseConditionMet c t s
  | .finalWaypointRetire c => Sys2Proof.Machine.execFinalWaypointRetire c s
  | .strGoTake c => Sys2Proof.Machine.execStrGoTake c s
  | .descriptorStart c k => Sys2Proof.Machine.execDescriptorStart c k s
  | .bufReleaseTake c => Sys2Proof.Machine.execBufReleaseTake c s
  | .halfWaitEnd c k => Sys2Proof.Machine.execHalfWaitEnd c k s
  | .streamRequestIssue c => Sys2Proof.Machine.execStreamRequestIssue c s
  | .streamReadReturn c k n => Sys2Proof.Machine.execStreamReadReturn c k n s
  | .transferFinished c k => Sys2Proof.Machine.execTransferFinished c k s
  | .hqPutPacket c t => Sys2Proof.Machine.execHqPutPacket c t s
  | .hqGetRequest c t => Sys2Proof.Machine.execHqGetRequest c t s
  | .hqPutReply c t => Sys2Proof.Machine.execHqPutReply c t s
  | .hqGetReply c t => Sys2Proof.Machine.execHqGetReply c t s
  | .hqSpaceNotice c t => Sys2Proof.Machine.execHqSpaceNotice c t s
  | .chainForwardPacket c k => Sys2Proof.Machine.execChainForwardPacket c k s
  | .walkRequest e => Sys2Proof.Machine.execWalkRequest e s
  | .walkRequestResend e => Sys2Proof.Machine.execWalkRequestResend e s
  | .walkerTake f => Sys2Proof.Machine.execWalkerTake f s
  | .chartLineReturn f line => Sys2Proof.Machine.execChartLineReturn f line s
  | .walkFillReply e => Sys2Proof.Machine.execWalkFillReply e s
  | .walkHaltReply e => Sys2Proof.Machine.execWalkHaltReply e s
  | .walkRetryReply e => Sys2Proof.Machine.execWalkRetryReply e s
  | .faultRecordPacket f => Sys2Proof.Machine.execFaultRecordPacket f s
  | .faultRecordWrite p => Sys2Proof.Machine.execFaultRecordWrite p s
  | .chtReplay p a => Sys2Proof.Machine.execChtReplay p a s
  | .replayRelease f => Sys2Proof.Machine.execReplayRelease f s
  | .chartEdit a => Sys2Proof.Machine.execChartEdit a s
  | .chartRead a => Sys2Proof.Machine.execChartRead a s
  | .chartEditDone => Sys2Proof.Machine.execChartEditDone s
  | .pageMove a => Sys2Proof.Machine.execPageMove a s
  | .pageMoveDone => Sys2Proof.Machine.execPageMoveDone s
  | .invalidation a => Sys2Proof.Machine.execInvalidation a s
  | .invalidationReachEngine e => Sys2Proof.Machine.execInvalidationReachEngine e s
  | .invalidationAck e => Sys2Proof.Machine.execInvalidationAck e s
  | .faultRingCfgWrite p a => Sys2Proof.Machine.execFaultRingCfgWrite p a s
  | .faultRingHeadWrite p a => Sys2Proof.Machine.execFaultRingHeadWrite p a s
  | .doorbell p a => Sys2Proof.Machine.execDoorbell p a s
  | .hotRunStart p r => Sys2Proof.Machine.execHotRunStart p r s
  | .dispatchTake => Sys2Proof.Machine.execDispatchTake s
  | .descriptorFetchReturn p r => Sys2Proof.Machine.execDescriptorFetchReturn p r s
  | .descriptorReread p r => Sys2Proof.Machine.execDescriptorReread p r s
  | .imageHeaderReturn p r entries data => Sys2Proof.Machine.execImageHeaderReturn p r entries data s
  | .imageLoadDone c data => Sys2Proof.Machine.execImageLoadDone c data s
  | .completionNotice c => Sys2Proof.Machine.execCompletionNotice c s
  | .completionRecordAck p => Sys2Proof.Machine.execCompletionRecordAck p s
  | .interruptMessageAck v => Sys2Proof.Machine.execInterruptMessageAck v s
  | .hstUnpin p a => Sys2Proof.Machine.execHstUnpin p a s
  | .hstWinBaseWrite p a => Sys2Proof.Machine.execHstWinBaseWrite p a s
  | .hstCringHeadWrite p a => Sys2Proof.Machine.execHstCringHeadWrite p a s
  | .hstCringCfgWrite p a => Sys2Proof.Machine.execHstCringCfgWrite p a s
  | .hstRingCfgWrite p r a => Sys2Proof.Machine.execHstRingCfgWrite p r a s
  | .windowWrite mid addr size data => Sys2Proof.Machine.execWindowWrite mid addr size data s
  | .windowRead mid addr size => Sys2Proof.Machine.execWindowRead mid addr size s
  | .windowWriteRetire n => Sys2Proof.Machine.execWindowWriteRetire n s
  | .registerWrite mid addr size data => Sys2Proof.Machine.execRegisterWrite mid addr size data s
  | .thmMaxRead a => Sys2Proof.Machine.execThmMaxRead a s
  | .glbTickLoRead a => Sys2Proof.Machine.execGlbTickLoRead a s
  | .prtCoreTicksLoRead p a => Sys2Proof.Machine.execPrtCoreTicksLoRead p a s
  | .energyLoRead k a => Sys2Proof.Machine.execEnergyLoRead k a s
  | .itkBell p a => Sys2Proof.Machine.execItkBell p a s
  | .intakeLaneFree l => Sys2Proof.Machine.execIntakeLaneFree l s
  | .sampleRecordReread p => Sys2Proof.Machine.execSampleRecordReread p s
  | .sampleResolve l => Sys2Proof.Machine.execSampleResolve l s
  | .sampleBudgetAbort l => Sys2Proof.Machine.execSampleBudgetAbort l s
  | .batchPrepared p => Sys2Proof.Machine.execBatchPrepared p s
  | .itkBatchFree p a => Sys2Proof.Machine.execItkBatchFree p a s
  | .itkFlush p a => Sys2Proof.Machine.execItkFlush p a s
  | .itkSessionCfgWrite p a => Sys2Proof.Machine.execItkSessionCfgWrite p a s
  | .startOfFrame n ts fnum => Sys2Proof.Machine.execStartOfFrame n ts fnum s
  | .videoBeat n d => Sys2Proof.Machine.execVideoBeat n d s
  | .endOfLine n => Sys2Proof.Machine.execEndOfLine n s
  | .endOfFrame n => Sys2Proof.Machine.execEndOfFrame n s
  | .audioBlockStart n ts fnum => Sys2Proof.Machine.execAudioBlockStart n ts fnum s
  | .audioBeat n d => Sys2Proof.Machine.execAudioBeat n d s
  | .audioBlockEnd n => Sys2Proof.Machine.execAudioBlockEnd n s
  | .statisticsBeat n kind fnum data first => Sys2Proof.Machine.execStatisticsBeat n kind fnum data first s
  | .frameRecordWrite n => Sys2Proof.Machine.execFrameRecordWrite n s
  | .frmFree n a => Sys2Proof.Machine.execFrmFree n a s
  | .frmCtrlWrite n a => Sys2Proof.Machine.execFrmCtrlWrite n a s
  | .partitionEnable p a => Sys2Proof.Machine.execPartitionEnable p a s
  | .partitionResetRequest p a => Sys2Proof.Machine.execPartitionResetRequest p a s
  | .prtShareCommit a => Sys2Proof.Machine.execPrtShareCommit a s
  | .reportWindowClose => Sys2Proof.Machine.execReportWindowClose s
  | .watchEnter a => Sys2Proof.Machine.execWatchEnter a s
  | .watchEntryComplete => Sys2Proof.Machine.execWatchEntryComplete s
  | .watchExit a => Sys2Proof.Machine.execWatchExit a s
  | .wakeComplete => Sys2Proof.Machine.execWakeComplete s
  | .powerIntervalClose acts other itk => Sys2Proof.Machine.execPowerIntervalClose acts other itk s
  | .oneMsBoundary => Sys2Proof.Machine.execOneMsBoundary s
  | .operatingPointChange => Sys2Proof.Machine.execOperatingPointChange s
  | .pwVreqAck => Sys2Proof.Machine.execPwVreqAck s
  | .marginReport c code => Sys2Proof.Machine.execMarginReport c code s
  | .currentSample rail data => Sys2Proof.Machine.execCurrentSample rail data s
  | .telemetryLost => Sys2Proof.Machine.execTelemetryLost s
  | .temperatureSample sensor t => Sys2Proof.Machine.execTemperatureSample sensor t s
  | .sensorSilent sensor => Sys2Proof.Machine.execSensorSilent sensor s
  | .thmTripAck a => Sys2Proof.Machine.execThmTripAck a s
  | .pwrCapWrite a => Sys2Proof.Machine.execPwrCapWrite a s
  | .pwrShareCommit a => Sys2Proof.Machine.execPwrShareCommit a s
  | .dividerApply cj => Sys2Proof.Machine.execDividerApply cj s
  | .errorDetected e detail => Sys2Proof.Machine.execErrorDetected e detail s
  | .soundingComplete u mismatch => Sys2Proof.Machine.execSoundingComplete u mismatch s
  | .transientCountHalve => Sys2Proof.Machine.execTransientCountHalve s
  | .partitionResetDrained p => Sys2Proof.Machine.execPartitionResetDrained p s
  | .partitionResetComplete p => Sys2Proof.Machine.execPartitionResetComplete p s
  | .watchdogExpiry c => Sys2Proof.Machine.execWatchdogExpiry c s
  | .controlCoreRestartDone c => Sys2Proof.Machine.execControlCoreRestartDone c s
  | .reportRequest a => Sys2Proof.Machine.execReportRequest a s
  | .reportSnapshot => Sys2Proof.Machine.execReportSnapshot s
  | .reportWritten => Sys2Proof.Machine.execReportWritten s
  | .keyInstall a => Sys2Proof.Machine.execKeyInstall a s
  | .keyInstallDone => Sys2Proof.Machine.execKeyInstallDone s
  | .keyClear a => Sys2Proof.Machine.execKeyClear a s
  | .scrubGo a => Sys2Proof.Machine.execScrubGo a s
  | .scrubComplete p => Sys2Proof.Machine.execScrubComplete p s
  | .ldsAccLockWrite a => Sys2Proof.Machine.execLdsAccLockWrite a s
  | .linkHandshake l key eph sig start => Sys2Proof.Machine.execLinkHandshake l key eph sig start s
  | .rekeyTrigger l => Sys2Proof.Machine.execRekeyTrigger l s
  | .counterEnd l => Sys2Proof.Machine.execCounterEnd l s
  | .laneLock l => Sys2Proof.Machine.execLaneLock l s
  | .laneLockLoss l lane => Sys2Proof.Machine.execLaneLockLoss l lane s
  | .trainingSet l node major minor slow width pass date => Sys2Proof.Machine.execTrainingSet l node major minor slow width pass date s
  | .trainingRetry l => Sys2Proof.Machine.execTrainingRetry l s
  | .frameSlot l => Sys2Proof.Machine.execFrameSlot l s
  | .dataFrameReceive l bs => Sys2Proof.Machine.execDataFrameReceive l bs s
  | .linkAck l seq => Sys2Proof.Machine.execLinkAck l seq s
  | .linkNack l seq => Sys2Proof.Machine.execLinkNack l seq s
  | .linkCreditReturn l cls n => Sys2Proof.Machine.execLinkCreditReturn l cls n s
  | .linkSoundingComplete l failed => Sys2Proof.Machine.execLinkSoundingComplete l failed s
  | .timeExchange l => Sys2Proof.Machine.execTimeExchange l s
  | .timeReply l t2 t3 hops => Sys2Proof.Machine.execTimeReply l t2 t3 hops s
  | .remoteReadRequest l len => Sys2Proof.Machine.execRemoteReadRequest l len s
  | .remoteReadResponse l => Sys2Proof.Machine.execRemoteReadResponse l s
  | .remoteWrite l last => Sys2Proof.Machine.execRemoteWrite l last s
  | .remoteWriteAck l tag => Sys2Proof.Machine.execRemoteWriteAck l tag s
  | .remoteErrorCell l tag => Sys2Proof.Machine.execRemoteErrorCell l tag s
  | .handleCell l m => Sys2Proof.Machine.execHandleCell l m s
  | .chainBarrierArrivalCell l cj bar ph => Sys2Proof.Machine.execChainBarrierArrivalCell l cj bar ph s
  | .chainBarrierCompletionCell l cj bar => Sys2Proof.Machine.execChainBarrierCompletionCell l cj bar s
  | .dividerProposalCell l cj div tick => Sys2Proof.Machine.execDividerProposalCell l cj div tick s
  | .downNotice l nodes => Sys2Proof.Machine.execDownNotice l nodes s
  | .restartCell l cj n => Sys2Proof.Machine.execRestartCell l cj n s
  | .porAssert => Sys2Proof.Machine.execPorAssert s
  | .porDeassert nvMode nvSpeed => Sys2Proof.Machine.execPorDeassert nvMode nvSpeed s
  | .fuseSenseDone f => Sys2Proof.Machine.execFuseSenseDone f s
  | .pllLock => Sys2Proof.Machine.execPllLock s
  | .binnacleBootDone => Sys2Proof.Machine.execBinnacleBootDone s
  | .nvmDiscoveryDone mode addr4 => Sys2Proof.Machine.execNvmDiscoveryDone mode addr4 s
  | .copyReadDone data => Sys2Proof.Machine.execCopyReadDone data s
  | .sectionsApplied => Sys2Proof.Machine.execSectionsApplied s
  | .chartClearDone => Sys2Proof.Machine.execChartClearDone s
  | .deviceKeyDerived => Sys2Proof.Machine.execDeviceKeyDerived s
  | .almLoad a => Sys2Proof.Machine.execAlmLoad a s
  | .almProgram a => Sys2Proof.Machine.execAlmProgram a s
  | .almActivate a => Sys2Proof.Machine.execAlmActivate a s
  | .almOperationDone nvOk => Sys2Proof.Machine.execAlmOperationDone nvOk s
  | .pwDownReq level => Sys2Proof.Machine.execPwDownReq level s
  | .downReady => Sys2Proof.Machine.execDownReady s
  | .fabricReadResponse ch tag data last err => Sys2Proof.Machine.execFabricReadResponse ch tag data last err s
  | .fabricWriteAck ch tag err => Sys2Proof.Machine.execFabricWriteAck ch tag err s
  | .fabricRetry n => Sys2Proof.Machine.execFabricRetry n s
  | .frmRecHeadWrite n a => Sys2Proof.Machine.execFrmRecHeadWrite n a s
  | .testPortTck rise tms tdi trst => Sys2Proof.Machine.execTestPortTck rise tms tdi trst s

end Sys2Proof.Machine
end

