-- ==== Sys2Proof/Machine/Step.lean ====
section
/-! DEFINITION. One step: the command at the front of the queue, or one F-cycle when none waits. -/

namespace Sys2Proof.Machine

/-- The command at the front acts with the queue's rest; on an empty queue one F-cycle passes, which leaves a block whose
clocks do not run as it is (R7, R504). (DESIGN CHOICE, log 2) (DESIGN CHOICE, log 49) -/
def step (s : State) : Host.Outcome State Fault Refusal :=
  match s.pending with
  | [] => .next s.fCycle
  | i :: rest => exec i { s with pending := rest }

/-- The command a word spells, put at the front of the queue; no word spells one. (DEDUCED, log 4) -/
def State.withFetchWord (s : State) (nbits w : Nat) : State :=
  match decodeTableWord nbits w with
  | some i => { s with pending := i :: s.pending }
  | none => s

end Sys2Proof.Machine
end

