-- ==== Sys2Proof/Safety.lean ====
section
/-! DEFINITION. What every state that a run reaches keeps, when an instruction issues, and what a command leaves unchanged:
the terms the statements use. -/

namespace Sys2Proof

open Machine

/-- The on-chip memories hold their canonical form. -/
def memOk (s : State) : Bool := s.store.wf && s.cores.toList.all (fun c => c.tile.wf)

/-- A step ends in a next state. -/
def goesOn (s : State) : Prop := ∃ t, step s = .next t

/-- Command i ends in a next state of which P holds. -/
def Does (i : Instr) (s : State) (P : State → Prop) : Prop := ∃ u, exec i s = .next u ∧ P u

/-- The host port takes this access now as a 4 B write of `v` to a register of the full aperture (R326, R476, R505, R538). -/
abbrev TakesFull (s : State) (a : HostAcc) (v : Nat) : Prop :=
  s.pagesOpen = true ∧ a.full = true ∧ s.admitsFull a.mid = true ∧ a.size = 2#2 ∧ a.data.toNat % 2 ^ 32 = v

/-- The same for a register of partition p's control page, through its own aperture or the full one (R357). -/
abbrev TakesCtl (s : State) (p : Fin 8) (a : HostAcc) (v : Nat) : Prop :=
  s.pagesOpen = true ∧ s.ctlAdmits p a = true ∧ a.size = 2#2 ∧ a.data.toNat % 2 ^ 32 = v

/-- Between s and u a fabric or memory stop has accepted this access as its next one (R521). -/
def Accesses (s u : State) (o : FabOwner) (write near : Bool) (addr len : Nat) (data : List Byte) : Prop :=
  ∃ y ∈ u.fab.accs, y.no = s.fab.next ∧ y.owner = o ∧ y.write = write ∧ y.near = near ∧ y.addr = addr ∧ y.len = len ∧
    y.data = data

/-! ## Core instructions -/

/-- Task t of a core issues an instruction with these fields now: it runs on a core that issues, its pc lies in the code
section, its guard is true (R198), and the registers it reads are usable, none of them owed by an mb.recv (R201). -/
abbrev Issues (q : Core) (t : Fin 4) (f : Fields) (reads : List (BitVec 5)) : Prop :=
  q.issuer = some t ∧ (q.task t).pc < q.img.codeSize / 8 ∧ (q.task t).pred f.pg ≠ f.pn ∧
    (∀ n ∈ reads, (q.task t).usable n ≤ q.seq.cyc) ∧ ∀ n ∈ reads, q.recvOwes t n = false

/-- Only core c may differ: every other core, every partition, the shared store, every port, every unit outside the cores
and the queue of commands are as before. -/
def OnlyCore (s u : State) (c : Fin 32) : Prop :=
  u = { s with cores := u.cores } ∧ ∀ d : Fin 32, d ≠ c → u.core d = s.core d

/-- Of the sequencer only its cycle and event counts may differ. -/
def SeqKept (a b : Seq) : Prop :=
  b = { a with cyc := b.cyc, lead := b.lead, issueCnt := b.issueCnt, stallCnt := b.stallCnt, idle := b.idle }

/-- What a core instruction of task t leaves unchanged: the units, tile memory, generators, flags and records of its core, the
other tasks, and of its own task all but the pc, the loop stack, the scalar registers rd and the predicates pd. -/
def TaskFrame (q r : Core) (t : Fin 4) (rd : List (BitVec 5)) (pd : List (BitVec 3)) : Prop :=
  r = { q with tasks := r.tasks, seq := r.seq } ∧ SeqKept q.seq r.seq ∧ (∀ v, v ≠ t → r.task v = q.task v) ∧
    (∀ n, n ∉ rd → (r.task t).reg n = (q.task t).reg n) ∧ (∀ n, n ∉ pd → (r.task t).pred n = (q.task t).pred n) ∧
    (r.task t).st = (q.task t).st ∧ (r.task t).wait = (q.task t).wait ∧ (r.task t).rels = (q.task t).rels

/-- The pc after an instruction that does not branch (R202). -/
def NextPc (q r : Core) (t : Fin 4) : Prop :=
  (r.task t).pc = (nextPc (q.task t).pc (q.task t).loops).1 ∧
    (r.task t).loops = (nextPc (q.task t).pc (q.task t).loops).2

/-- The tag of the unit command task t dispatches now: its task, pc and dispatch number. -/
def tagOf (q : Core) (t : Fin 4) : QTag := ⟨t, (q.task t).pc, q.seq.nextId⟩

/-- Task t has dispatched a unit command: the core is `new`, the pc moves on, and no register, predicate or other task
changes. -/
def Dispatches (q r : Core) (t : Fin 4) (new : Core) : Prop :=
  r = { new with tasks := r.tasks, seq := r.seq } ∧ r.seq.nextId = q.seq.nextId + 1 ∧ NextPc q r t ∧
    (∀ v, v ≠ t → r.task v = q.task v) ∧ (∀ n, (r.task t).reg n = (q.task t).reg n) ∧
    ∀ n, (r.task t).pred n = (q.task t).pred n

/-- Task t has come to wait (R217): its instruction has not issued, its pc, registers and predicates are as before, no unit and
no memory of the core changes. -/
def Waits (q r : Core) (t : Fin 4) (w : Wait) : Prop :=
  r = { q with tasks := r.tasks, seq := r.seq } ∧ (r.task t).st = .waiting ∧ (r.task t).wait = w ∧
    (r.task t).pc = (q.task t).pc ∧ (r.task t).loops = (q.task t).loops ∧ (∀ n, (r.task t).reg n = (q.task t).reg n) ∧
    ∀ n, (r.task t).pred n = (q.task t).pred n

end Sys2Proof
end

