-- ==== Sys2Proof/Certificates/Slice0/Obligations.lean ====
section
/-! DEFINITION. The statements for the provers. -/

open Sys2Proof Sys2Proof.Machine

/-! ## The queue -/

/-- A step runs the command at the front of the queue with the queue's rest. -/
def Obligations.StepRunsTheFrontCommand : Prop :=
  ∀ (s : State) (i : Instr) (rest : List Instr), s.pending = i :: rest → step s = exec i { s with pending := rest }

/-- On an empty queue a step lets one F-cycle pass (the model's choice, log 2): eight PLL cycles of the 8.8 GHz clock, a tick
of 88 of them in normal running (R7). While the clocks do not run, before the PLL has locked, the block stays as it is. -/
def Obligations.EmptyQueueLetsOneFCyclePass : Prop :=
  ∀ s : State, s.pending = [] →
    step s = .next s.fCycle ∧ (s.clocked = false → step s = .next s) ∧
    (s.clocked = true → s.fCycle.clk.fcyc = s.clk.fcyc + 1)

/-! ## Scalar instructions (Tables 6.4 and 6.5) -/

/-- The two-operand instructions with the value each gives s[rd] and the A-cycles until it is usable (Tables 6.4, 6.5). -/
def scalarOps : List ((Fin 32 → Fields → Instr) × (Word → Word → Word) × Nat) :=
  [(.add, fun a b => a + b, 1), (.sub, fun a b => a - b, 1), (.and, fun a b => a &&& b, 1), (.or, fun a b => a ||| b, 1),
   (.xor, fun a b => a ^^^ b, 1), (.shl, fun a b => a <<< (b.toNat % 32), 1), (.shr, fun a b => a >>> (b.toNat % 32), 1),
   (.sra, fun a b => a.sshiftRight (b.toNat % 32), 1), (.mul, fun a b => BitVec.ofNat 32 (a.toNat * b.toNat), 3),
   (.mulhu, fun a b => BitVec.ofNat 32 (a.toNat * b.toNat / 2 ^ 32), 3),
   (.min, fun a b => if a.toInt < b.toInt then a else b, 1), (.max, fun a b => if a.toInt < b.toInt then b else a, 1),
   (.minu, fun a b => if a.toNat < b.toNat then a else b, 1), (.maxu, fun a b => if a.toNat < b.toNat then b else a, 1)]

/-- Every two-operand scalar instruction writes its value to s[rd], usable after its latency, moves the pc on, and leaves
everything else of the block unchanged; mov writes b. -/
def Obligations.ScalarArithmeticWritesRd : Prop :=
  (∀ e ∈ scalarOps, ∀ (s : State) (c : Fin 32) (t : Fin 4) (f : Fields),
    Issues (s.core c) t f (f.ra :: f.bReads) → f.bOk = true → f.x.toNat ≤ 1 →
    Does (e.1 c f) s (fun u => OnlyCore s u c ∧ TaskFrame (s.core c) (u.core c) t [f.rd] [] ∧ NextPc (s.core c) (u.core c) t ∧
      ((u.core c).task t).reg f.rd = e.2.1 (((s.core c).task t).reg f.ra) (f.b ((s.core c).task t)) ∧
      ((u.core c).task t).usable f.rd = (s.core c).seq.cyc + e.2.2)) ∧
  (∀ (s : State) (c : Fin 32) (t : Fin 4) (f : Fields),
    Issues (s.core c) t f f.bReads → f.bOk = true → f.x.toNat ≤ 1 → f.ra = 0#5 →
    Does (.mov c f) s (fun u => OnlyCore s u c ∧ TaskFrame (s.core c) (u.core c) t [f.rd] [] ∧ NextPc (s.core c) (u.core c) t ∧
      ((u.core c).task t).reg f.rd = f.b ((s.core c).task t)))

/-- The compares with the relation each tests (Table 6.4). -/
def compareOps : List ((Fin 32 → Fields → Instr) × (Word → Word → Bool)) :=
  [(.ceq, fun a b => decide (a = b)), (.cne, fun a b => decide (a ≠ b)), (.clt, fun a b => decide (a.toInt < b.toInt)),
   (.cge, fun a b => decide (b.toInt ≤ a.toInt)), (.cltu, fun a b => decide (a.toNat < b.toNat)),
   (.cgeu, fun a b => decide (b.toNat ≤ a.toNat))]

/-- A compare sets p[rd[2:0]] to its relation and changes nothing else but the pc; p0 stays 1. -/
def Obligations.ComparesSetThePredicate : Prop :=
  ∀ e ∈ compareOps, ∀ (s : State) (c : Fin 32) (t : Fin 4) (f : Fields),
    Issues (s.core c) t f (f.ra :: f.bReads) → f.bOk = true → f.x.toNat ≤ 1 → f.rd.toNat < 8 →
    Does (e.1 c f) s (fun u => OnlyCore s u c ∧ TaskFrame (s.core c) (u.core c) t [] [f.pd] ∧ NextPc (s.core c) (u.core c) t ∧
      ((u.core c).task t).pred f.pd =
        (decide (f.pd = 0#3) || e.2 (((s.core c).task t).reg f.ra) (f.b ((s.core c).task t))))

/-- The predicate instructions with their operations (Table 6.4). -/
def predicateOps : List ((Fin 32 → Fields → Instr) × (Bool → Bool → Bool)) :=
  [(.pand, fun x y => x && y), (.por, fun x y => x || y), (.pxor, fun x y => x != y)]

/-- pand, por and pxor: p[rd[2:0]] = p[ra[2:0]] op q, where q is p[rb[2:0]], inverted when x[1] = 1. -/
def Obligations.PredicateInstructionsCombine : Prop :=
  ∀ e ∈ predicateOps, ∀ (s : State) (c : Fin 32) (t : Fin 4) (f : Fields),
    Issues (s.core c) t f [] → f.imm = 0#32 → (f.x = 0#3 ∨ f.x = 2#3) → f.rd.toNat < 8 → f.ra.toNat < 8 → f.rb.toNat < 8 →
    Does (e.1 c f) s (fun u => OnlyCore s u c ∧ TaskFrame (s.core c) (u.core c) t [] [f.pd] ∧ NextPc (s.core c) (u.core c) t ∧
      ((u.core c).task t).pred f.pd = (decide (f.pd = 0#3) ||
        e.2 (((s.core c).task t).pred (f.ra.setWidth 3)) (((s.core c).task t).pred (f.rb.setWidth 3) != f.x.getLsbD 1)))

/-- ld: the little-endian 32-bit word at tile address s[ra] + imm goes to s[rd], usable 8 A-cycles later; no byte of memory
changes. st: the four bytes at that address become s[rb]; every other byte of tile memory, and every other core, stays. -/
def Obligations.LoadsAndStoresMoveOneWord : Prop :=
  (∀ (s : State) (c : Fin 32) (t : Fin 4) (f : Fields), Issues (s.core c) t f [f.ra] → f.rb = 0#5 → f.x = 0#3 →
    (f.addr ((s.core c).task t)).toNat % 4 = 0 → (f.addr ((s.core c).task t)).toNat < 2 ^ 21 →
    Does (.ld c f) s (fun u => OnlyCore s u c ∧ TaskFrame (s.core c) (u.core c) t [f.rd] [] ∧
      NextPc (s.core c) (u.core c) t ∧
      ((u.core c).task t).reg f.rd = BitVec.ofNat 32 (ofLe ((s.core c).tile.read (f.addr ((s.core c).task t)).toNat 4)) ∧
      ((u.core c).task t).usable f.rd = (s.core c).seq.cyc + 8)) ∧
  (∀ (s : State) (c : Fin 32) (t : Fin 4) (f : Fields), Issues (s.core c) t f [f.ra, f.rb] → f.rd = 0#5 → f.x = 0#3 →
    (f.addr ((s.core c).task t)).toNat % 4 = 0 → (f.addr ((s.core c).task t)).toNat < 2 ^ 21 →
    ((s.core c).task t).rels = [] → (s.core c).protects (f.addr ((s.core c).task t)).toNat 4 = false →
    (s.core c).tile.wf = true →
    Does (.st c f) s (fun u => OnlyCore s u c ∧ NextPc (s.core c) (u.core c) t ∧
      (∀ n, ((u.core c).task t).reg n = ((s.core c).task t).reg n) ∧ (∀ v, v ≠ t → (u.core c).task v = (s.core c).task v) ∧
      u.core c = { s.core c with tasks := (u.core c).tasks, seq := (u.core c).seq, tile := (u.core c).tile } ∧
      (∀ k : Fin 4, (u.core c).tile.byte ((f.addr ((s.core c).task t)).toNat + k) =
        ((((s.core c).task t).reg f.rb) >>> (8 * k.val)).setWidth 8) ∧
      (∀ a, (a < (f.addr ((s.core c).task t)).toNat ∨ (f.addr ((s.core c).task t)).toNat + 4 ≤ a) →
        (u.core c).tile.byte a = (s.core c).tile.byte a)))

/-! ## Program registers and control (R202, R203, R224) -/

/-- The values of the program CSRs that csrr reads (Table 6.12), `t` the reading task. -/
def csrValues (s : State) (c : Fin 32) (t : Fin 4) : List (Nat × Word) :=
  let q := s.core c
  let w := BitVec.ofNat 32
  let level := fun (n : Nat) => match (q.task t).loops[n]? with
    | some l => w l.index
    | none => 0#32
  [(0x000, w c), (0x001, w q.seq.rank), (0x002, w q.seq.ncores), (0x003, q.seq.invocation), (0x004, w t), (0x008, w q.seq.cyc),
   (0x009, q.seq.cycLatch), (0x00A, w s.clk.tick), (0x00B, q.seq.tickLatch), (0x010, w q.qdepth), (0x011, w q.tstate),
   (0x012, q.fl.toWord), (0x020, level 0), (0x021, level 1), (0x022, level 2), (0x023, level 3), (0x030, q.seq.phase.setWidth 32)]

/-- csrr writes the CSR that imm names to s[rd]; the low word of a counter latches its high word; csrw to 0x030 sets the phase
marker to the low half of s[ra]. Neither changes a byte of tile memory or another core. -/
def Obligations.CsrInstructionsReadAndWrite : Prop :=
  (∀ (s : State) (c : Fin 32) (t : Fin 4) (f : Fields) (e : Nat × Word), e ∈ csrValues s c t → f.imm = BitVec.ofNat 32 e.1 →
    Issues (s.core c) t f [] → f.ra = 0#5 → f.rb = 0#5 → f.x = 0#3 →
    Does (.csrr c f) s (fun u => OnlyCore s u c ∧ NextPc (s.core c) (u.core c) t ∧ ((u.core c).task t).reg f.rd = e.2 ∧
      (∀ n, n ≠ f.rd → ((u.core c).task t).reg n = ((s.core c).task t).reg n) ∧
      (∀ n, ((u.core c).task t).pred n = ((s.core c).task t).pred n) ∧ (u.core c).tile = (s.core c).tile ∧
      (e.1 = 0x008 → (u.core c).seq.cycLatch = BitVec.ofNat 32 ((s.core c).seq.cyc / 2 ^ 32)) ∧
      (e.1 = 0x00A → (u.core c).seq.tickLatch = BitVec.ofNat 32 (s.clk.tick / 2 ^ 32)))) ∧
  (∀ (s : State) (c : Fin 32) (t : Fin 4) (f : Fields), Issues (s.core c) t f [f.ra] → f.imm = 0x030#32 → f.rd = 0#5 →
    f.rb = 0#5 → f.x = 0#3 →
    Does (.csrw c f) s (fun u => (u.core c).seq.phase = (((s.core c).task t).reg f.ra).setWidth 16 ∧
      NextPc (s.core c) (u.core c) t ∧ (∀ n, ((u.core c).task t).reg n = ((s.core c).task t).reg n) ∧
      (∀ n, ((u.core c).task t).pred n = ((s.core c).task t).pred n) ∧ (u.core c).tile = (s.core c).tile ∧
      (∀ d : Fin 32, d ≠ c → u.core d = s.core d) ∧ u.store = s.store ∧ u.pending = s.pending))

/-- A taken branch: br goes to pc + imm, jmp to s[ra] + imm, both modulo 2^32; the levels whose body the target leaves are
popped, innermost first, until one holds the target; 3 A-cycles pass; nothing else changes. -/
def Obligations.BranchesGoToTheirTarget : Prop :=
  (∀ (s : State) (c : Fin 32) (t : Fin 4) (f : Fields), Issues (s.core c) t f [] → f.rd = 0#5 → f.ra = 0#5 → f.rb = 0#5 →
    f.x = 0#3 →
    Does (.br c f) s (fun u => OnlyCore s u c ∧ TaskFrame (s.core c) (u.core c) t [] [] ∧
      ((u.core c).task t).pc = (((s.core c).task t).pc + f.imm.toNat) % 2 ^ 32 ∧
      ((u.core c).task t).loops = ((s.core c).task t).loops.dropWhile (fun l =>
        !(decide (l.first ≤ ((u.core c).task t).pc) && decide (((u.core c).task t).pc ≤ l.last))) ∧
      (u.core c).seq.cyc = (s.core c).seq.cyc + 3)) ∧
  (∀ (s : State) (c : Fin 32) (t : Fin 4) (f : Fields), Issues (s.core c) t f [f.ra] → f.rd = 0#5 → f.rb = 0#5 → f.x = 0#3 →
    Does (.jmp c f) s (fun u => OnlyCore s u c ∧ TaskFrame (s.core c) (u.core c) t [] [] ∧
      ((u.core c).task t).pc = (((s.core c).task t).reg f.ra + f.imm).toNat ∧
      ((u.core c).task t).loops = ((s.core c).task t).loops.dropWhile (fun l =>
        !(decide (l.first ≤ ((u.core c).task t).pc) && decide (((u.core c).task t).pc ≤ l.last))) ∧
      (u.core c).seq.cyc = (s.core c).seq.cyc + 3))

/-- The count a loop instruction names: imm[15:0] with x[0] = 1, else s[ra] (R202). -/
def loopCount (f : Fields) (k : Task) : Nat := if f.x0 then f.imm.toNat % 2 ^ 16 else (k.reg f.ra).toNat

/-- loop at pc L with body length n = imm[31:16] and count c: with c = 0 execution goes on at L + n + 1; otherwise it goes on at
L + 1 with a level pushed for the body L + 1 to L + n. nop at the last instruction of a body goes round while passes are left,
and pops the level after the last one. -/
def Obligations.LoopsRunTheirBody : Prop :=
  (∀ (s : State) (c : Fin 32) (t : Fin 4) (f : Fields), Issues (s.core c) t f (if f.x0 then [] else [f.ra]) → loopBad f = none →
    (∀ l ∈ ((s.core c).task t).loops.head?, ((s.core c).task t).pc + f.imm.toNat / 2 ^ 16 < l.last) →
    ((s.core c).task t).loops.length < 4 →
    Does (.loop c f) s (fun u => OnlyCore s u c ∧ TaskFrame (s.core c) (u.core c) t [] [] ∧
      (loopCount f ((s.core c).task t) = 0 →
        ((u.core c).task t).pc = ((s.core c).task t).pc + f.imm.toNat / 2 ^ 16 + 1 ∧
        ((u.core c).task t).loops = ((s.core c).task t).loops) ∧
      (loopCount f ((s.core c).task t) ≠ 0 →
        ((u.core c).task t).pc = ((s.core c).task t).pc + 1 ∧
        ((u.core c).task t).loops = ⟨((s.core c).task t).pc + 1, ((s.core c).task t).pc + f.imm.toNat / 2 ^ 16,
          loopCount f ((s.core c).task t), 0⟩ :: ((s.core c).task t).loops))) ∧
  (∀ (s : State) (c : Fin 32) (t : Fin 4) (f : Fields), Issues (s.core c) t f [] → f.rd = 0#5 → f.ra = 0#5 → f.rb = 0#5 →
    f.x = 0#3 → f.imm = 0#32 →
    Does (.nop c f) s (fun u => OnlyCore s u c ∧ TaskFrame (s.core c) (u.core c) t [] [] ∧
      (((s.core c).task t).loops = [] → ((u.core c).task t).pc = ((s.core c).task t).pc + 1) ∧
      (∀ l r, ((s.core c).task t).loops = l :: r →
        (((s.core c).task t).pc ≠ l.last → ((u.core c).task t).pc = ((s.core c).task t).pc + 1 ∧
          ((u.core c).task t).loops = l :: r) ∧
        (((s.core c).task t).pc = l.last → l.index + 1 < l.count → ((u.core c).task t).pc = l.first ∧
          ((u.core c).task t).loops = { l with index := l.index + 1 } :: r) ∧
        (((s.core c).task t).pc = l.last → l.count ≤ l.index + 1 → r = [] →
          ((u.core c).task t).pc = l.last + 1 ∧ ((u.core c).task t).loops = []))))

/-- Every core instruction with its class and operation's constructor. -/
def coreInstrs : List (Fin 32 → Fields → Instr) :=
  [.add, .sub, .and, .or, .xor, .shl, .shr, .sra, .mul, .mulhu, .min, .max, .minu, .maxu, .mov, .ceq, .cne, .clt, .cge, .cltu,
   .cgeu, .pand, .por, .pxor, .csrr, .csrw, .ld, .st, .br, .jmp, .loop, .nop] ++
  [.arrOp, .arrLoad, .elpCmd, .elpCfg, .elpTable, .elpBind, .elpSwapout, .elpSwapin, .cnvWin, .cnvGavg, .strGo, .strWait,
   .strTest, .bufAwait, .bufRelease, .hqPut, .hqGet, .hqTest, .mbSend, .mbRecv, .mbTest, .barArrive, .barWait, .wpt, .wptFinal,
   .taskDecl, .taskYield, .taskEnd]

/-- An instruction whose guard is false takes its issue cycle and no more, whether the registers it names are usable or not (R198):
the core stops on an illegal word (R199), or the pc moves on in its task, and of the whole block only that pc, its loop stack and the
sequencer's cycle and event counts change: nothing is dispatched, nothing waits, no register or predicate changes. With pg = 0 and
pn = 0 no guard is false: p0 reads 1 in every task. -/
def Obligations.FalseGuardHasNoEffect : Prop :=
  (∀ k : Task, k.pred 0#3 = true) ∧ ∀ i ∈ coreInstrs, ∀ (s : State) (c : Fin 32) (t : Fin 4) (f : Fields), (s.core c).issuer = some t →
    ((s.core c).task t).pc < (s.core c).img.codeSize / 8 → ((s.core c).task t).pred f.pg = f.pn →
    Does (i c f) s (fun u => ((u.core c).seq.stop = some 0x0301 ∨ (u.core c).seq.stop = some 0x0304) ∨
      (OnlyCore s u c ∧ TaskFrame (s.core c) (u.core c) t [] [] ∧ NextPc (s.core c) (u.core c) t ∧
        (u.core c).seq.cyc = (s.core c).seq.cyc + 1))

/-- A pc outside the code section stops the core with status 0x0302 whatever the instruction and its guard, and records the pc
and the task (R203, R232). -/
def Obligations.PcOutsideTheCodeStopsTheCore : Prop :=
  ∀ i ∈ coreInstrs, ∀ (s : State) (c : Fin 32) (t : Fin 4) (f : Fields), (s.core c).issuer = some t →
    (s.core c).img.codeSize / 8 ≤ ((s.core c).task t).pc →
    Does (i c f) s (fun u => (u.core c).seq.stop = some 0x0302 ∧ (u.core c).seq.running = none ∧
      (u.core c).seq.errPc = BitVec.ofNat 32 (((s.core c).task t).pc % 2 ^ 18 + 2 ^ 18 * t.val) ∧
      (u.core c).tile = (s.core c).tile)

/-- A ld or st whose address is not a multiple of 4 B or not below 2 MiB stops the core with status 0x0306 and moves nothing; a
st into a protected section stops it with 0x0303 (R200, R229). -/
def Obligations.BadScalarAddressesStopTheCore : Prop :=
  (∀ (s : State) (c : Fin 32) (t : Fin 4) (f : Fields), f.x = 0#3 →
    ((f.addr ((s.core c).task t)).toNat % 4 ≠ 0 ∨ 2 ^ 21 ≤ (f.addr ((s.core c).task t)).toNat) →
    (Issues (s.core c) t f [f.ra] → f.rb = 0#5 → Does (.ld c f) s (fun u => (u.core c).seq.stop = some 0x0306 ∧
      (u.core c).tile = (s.core c).tile ∧ ∀ v n, ((u.core c).task v).reg n = ((s.core c).task v).reg n)) ∧
    (Issues (s.core c) t f [f.ra, f.rb] → f.rd = 0#5 → Does (.st c f) s (fun u => (u.core c).seq.stop = some 0x0306 ∧
      (u.core c).tile = (s.core c).tile ∧ ∀ v n, ((u.core c).task v).reg n = ((s.core c).task v).reg n))) ∧
  (∀ (s : State) (c : Fin 32) (t : Fin 4) (f : Fields), Issues (s.core c) t f [f.ra, f.rb] → f.rd = 0#5 → f.x = 0#3 →
    (f.addr ((s.core c).task t)).toNat % 4 = 0 → (f.addr ((s.core c).task t)).toNat < 2 ^ 21 →
    ((s.core c).task t).rels = [] → (s.core c).protects (f.addr ((s.core c).task t)).toNat 4 = true →
    Does (.st c f) s (fun u => (u.core c).seq.stop = some 0x0303 ∧ (u.core c).tile = (s.core c).tile))

/-! ## Unit commands, waits, messages, barriers, waypoints and tasks (R206, R207, R211 to R222) -/

/-- Instructions with a parameter block of 64, 32 or 16 B at s[ra] + imm copy it when they issue and enter their unit's queue
as its newest entry, with the block's fields after rebase by s[rb] and override by s[rd]; nothing else changes. -/
def Obligations.BlockCommandsEnterTheirQueue : Prop :=
  ∀ (s : State) (c : Fin 32) (t : Fin 4) (f : Fields), Issues (s.core c) t f f.blockReads → (s.core c).seq.block = none →
    (f.addr ((s.core c).task t)).toNat % 16 = 0 →
    let q := s.core c
    let a := (f.addr (q.task t)).toNat
    let d := if f.x0 then some ((q.task t).reg f.rb) else none
    let n := if f.x1 then some ((q.task t).reg f.rd) else none
    let b := fun (size : Nat) => q.tile.read a size
    (a + 64 ≤ 2 ^ 21 → f.blockOk true = true → maskOk (b 64) arrOpMasks = true → (parseArrOp (b 64) d n).addrsOk = true →
      q.depth .array < 8 → Does (.arrOp c f) s (fun u => OnlyCore s u c ∧ Dispatches q (u.core c) t
        { q with arr := { q.arr with queue := q.arr.queue ++ [(tagOf q t, .op (parseArrOp (b 64) d n))] } })) ∧
    (a + 32 ≤ 2 ^ 21 → f.blockOk false = true → maskOk (b 32) arrLoadMasks = true → (parseArrLoad (b 32) d).src < 2 ^ 21 →
      ((parseArrLoad (b 32) d).fmt.isMx = true → (parseArrLoad (b 32) d).scale < 2 ^ 21) → q.depth .array < 8 →
      Does (.arrLoad c f) s (fun u => OnlyCore s u c ∧ Dispatches q (u.core c) t
        { q with arr := { q.arr with queue := q.arr.queue ++ [(tagOf q t, .load (parseArrLoad (b 32) d))] } })) ∧
    (a + 64 ≤ 2 ^ 21 → f.blockOk true = true → maskOk (b 64) elpCmdMasks = true → (parseElpCmd (b 64) d n).blockOk = true →
      q.depth .element < 8 → Does (.elpCmd c f) s (fun u => OnlyCore s u c ∧ Dispatches q (u.core c) t
        { q with elm := { q.elm with queue := q.elm.queue ++ [(tagOf q t, .cmd (parseElpCmd (b 64) d n))] } })) ∧
    (a + 16 ≤ 2 ^ 21 → f.blockOk false = true → maskOk (b 16) elpBindMasks = true → (parseElpBind (b 16) d).blockOk = true →
      (parseElpBind (b 16) d).addr % 64 = 0 → q.depth .element < 8 →
      Does (.elpBind c f) s (fun u => OnlyCore s u c ∧ Dispatches q (u.core c) t
        { q with elm := { q.elm with queue := q.elm.queue ++ [(tagOf q t, .bind (parseElpBind (b 16) d))] } })) ∧
    (a + 64 ≤ 2 ^ 21 → f.blockOk true = true → maskOk (b 64) winMasks = true → (parseWin (b 64) d n).base < 2 ^ 21 →
      (parseWin (b 64) d n).count ≠ 0 → (parseWin (b 64) d n).count ≤ 512 → q.depth .conv < 8 → Does (.cnvWin c f) s (fun u => OnlyCore s u c ∧ Dispatches q (u.core c) t
        { q with cnv := { q.cnv with queue := q.cnv.queue ++ [(tagOf q t, .win (parseWin (b 64) d n))] } })) ∧
    (a + 32 ≤ 2 ^ 21 → f.blockOk false = true → maskOk (b 32) gavgMasks = true → (parseGavg (b 32) d).base < 2 ^ 21 →
      (parseGavg (b 32) d).dest < 2 ^ 21 → q.depth .conv < 8 →
      Does (.cnvGavg c f) s (fun u => OnlyCore s u c ∧ Dispatches q (u.core c) t
        { q with cnv := { q.cnv with queue := q.cnv.queue ++ [(tagOf q t, .gavg (parseGavg (b 32) d))] } }))

/-- Unit commands without a block enter their unit's queue: elp.cfg and elp.table with the number in rd[1:0] and a 16 B-aligned
source, elp.swapout and elp.swapin with the handle in rd[3:0], str.go with its slot and list address, buf.release with its buffer
half, mb.send with its payload address and destination core, bar.arrive with its barrier. -/
def Obligations.PlainCommandsEnterTheirQueue : Prop :=
  ∀ (s : State) (c : Fin 32) (t : Fin 4) (f : Fields),
    let q := s.core c
    let a := (f.addr (q.task t)).toNat
    let elm := fun (e : ElmCmd) (u : State) => OnlyCore s u c ∧
      Dispatches q (u.core c) t { q with elm := { q.elm with queue := q.elm.queue ++ [(tagOf q t, e)] } }
    let str := fun (e : StrCmd) (u : State) => OnlyCore s u c ∧
      Dispatches q (u.core c) t { q with str := { q.str with queue := q.str.queue ++ [(tagOf q t, e)] } }
    let msg := fun (e : MsgCmd) (u : State) => OnlyCore s u c ∧
      Dispatches q (u.core c) t { q with msg := { q.msg with queue := q.msg.queue ++ [(tagOf q t, e)] } }
    (Issues q t f [f.ra] → f.rd.toNat < 4 → f.rb = 0#5 → f.x = 0#3 → a % 16 = 0 → q.depth .element < 8 →
      (a + 64 ≤ 2 ^ 21 → Does (.elpCfg c f) s (elm (.cfg f.rd.toNat a))) ∧
      (a + 3104 ≤ 2 ^ 21 → Does (.elpTable c f) s (elm (.table f.rd.toNat a)))) ∧
    (Issues q t f [] → f.rd.toNat < 16 → f.ra = 0#5 → f.rb = 0#5 → f.imm = 0#32 → f.x = 0#3 → q.depth .element < 8 →
      Does (.elpSwapout c f) s (elm (.swapOut f.rd.toNat)) ∧ Does (.elpSwapin c f) s (elm (.swapIn f.rd.toNat))) ∧
    (Issues q t f [f.ra] → f.x.toNat ≤ 5 → f.rd = 0#5 → f.rb = 0#5 → q.depth .stream < 8 →
      Does (.strGo c f) s (str (.go f.x.toNat a))) ∧
    (Issues q t f [] → f.x.toNat ≤ 1 → f.rd = 0#5 → f.ra = 0#5 → f.rb = 0#5 → f.imm.toNat < 64 → q.depth .stream < 8 →
      Does (.bufRelease c f) s (str (.release f.imm.toNat (f.x.getLsbD 0)))) ∧
    (Issues q t f [f.ra, f.rb] → f.rd = 0#5 → f.x = 0#3 → a % 64 = 0 → a + 64 ≤ 2 ^ 21 → q.depth .message < 8 →
      Does (.mbSend c f) s (msg (.send a ((q.task t).reg f.rb).toNat))) ∧
    (Issues q t f [] → f.rd = 0#5 → f.ra = 0#5 → f.rb = 0#5 → f.x = 0#3 → f.imm.toNat < 256 → q.depth .message < 8 →
      Does (.barArrive c f) s (msg (.barArrive f.imm.toNat)))

/-- The instructions that test set p[rd[2:0]]: str.test while its slot is busy, hq.test when its queue (one of the job's) holds
a handle, mb.test when the mailbox holds an unclaimed message. -/
def Obligations.TestInstructionsSetThePredicate : Prop :=
  ∀ (s : State) (c : Fin 32) (t : Fin 4) (f : Fields), Issues (s.core c) t f [] → f.rd.toNat < 8 → f.ra = 0#5 → f.rb = 0#5 →
    let sets := fun (b : Bool) (u : State) => OnlyCore s u c ∧ TaskFrame (s.core c) (u.core c) t [] [f.pd] ∧
      NextPc (s.core c) (u.core c) t ∧ ((u.core c).task t).pred f.pd = (decide (f.pd = 0#3) || b)
    (f.x.toNat ≤ 5 → f.imm = 0#32 → Does (.strTest c f) s (sets ((s.core c).slotBusy f.x.toNat))) ∧
    (f.x = 0#3 → f.imm.toNat < 64 → s.hqLocal c f.imm.toNat = true →
      Does (.hqTest c f) s (sets (!(s.hq (s.partOf c) f.imm.toNat).q.isEmpty))) ∧
    (f.x = 0#3 → f.imm = 0#32 → Does (.mbTest c f) s (sets ((s.core c).msg.entries.any (fun e => !e.claimed))))

/-- The instructions that wait: when what they wait for has come they complete: the pc moves on and nothing else changes; otherwise
the task waits with its reason and the instruction has not issued. str.wait waits for its slot, buf.await for its half to be landed,
bar.wait while the core's arrivals exceed its completions; a chain barrier outside a multi-instance job stops the core with 0x030D
(R254). mb.recv claims the earliest unclaimed entry, or waits. -/
def Obligations.WaitingInstructionsWait : Prop :=
  ∀ (s : State) (c : Fin 32) (t : Fin 4) (f : Fields),
    let q := s.core c
    let on := fun (u : State) => (∀ d : Fin 32, d ≠ c → u.core d = s.core d) ∧ u.mesh = s.mesh ∧
      NextPc q (u.core c) t ∧ (∀ v n, ((u.core c).task v).reg n = (q.task v).reg n) ∧
      (∀ v n, ((u.core c).task v).pred n = (q.task v).pred n) ∧ (u.core c).tile = q.tile
    (Issues q t f [] → f.x.toNat ≤ 5 → f.rd = 0#5 → f.ra = 0#5 → f.rb = 0#5 → f.imm = 0#32 →
      (q.slotBusy f.x.toNat = false → Does (.strWait c f) s on) ∧
      (q.slotBusy f.x.toNat = true → Does (.strWait c f) s (fun u => OnlyCore s u c ∧ Waits q (u.core c) t (.slot f.x.toNat)))) ∧
    (Issues q t f [] → f.x.toNat ≤ 1 → f.rd = 0#5 → f.ra = 0#5 → f.rb = 0#5 → f.imm.toNat < 64 →
      ((q.half f.imm.toNat (f.x.getLsbD 0)).st = .landed → Does (.bufAwait c f) s on) ∧
      ((q.half f.imm.toNat (f.x.getLsbD 0)).st ≠ .landed → Does (.bufAwait c f) s (fun u => OnlyCore s u c ∧
        Waits q (u.core c) t (.half f.imm.toNat (f.x.getLsbD 0))))) ∧
    (Issues q t f [] → f.rd = 0#5 → f.ra = 0#5 → f.rb = 0#5 → f.x = 0#3 → f.imm.toNat < 256 →
      let chained := (s.jobOf c).any (fun j => j.multi.isSome)
      ((f.imm.toNat < 192 ∨ chained = true) →
        (q.msg.ahead f.imm.toNat ≤ 0 → Does (.barWait c f) s on) ∧
        (0 < q.msg.ahead f.imm.toNat → Does (.barWait c f) s (fun u =>
          ((u.core c).task t).st = .waiting ∧ ((u.core c).task t).wait = .barrier f.imm.toNat ∧
          ((u.core c).task t).pc = (q.task t).pc ∧ (u.core c).tile = q.tile))) ∧
      (192 ≤ f.imm.toNat → chained = false → Does (.barWait c f) s (fun u => (u.core c).seq.stop = some 0x030D))) ∧
    (Issues q t f [f.ra] → f.rb = 0#5 → f.x = 0#3 → (f.addr (q.task t)).toNat % 64 = 0 →
      (f.addr (q.task t)).toNat + 64 ≤ 2 ^ 21 →
      (q.msg.unclaimed = none → Does (.mbRecv c f) s (fun u => OnlyCore s u c ∧ Waits q (u.core c) t .mailbox)) ∧
      (∀ e, q.msg.unclaimed = some e → q.depth .message < 8 → Does (.mbRecv c f) s (fun u => OnlyCore s u c ∧
        Dispatches q (u.core c) t { q with msg := { q.msg with
          entries := q.msg.entries.map (fun x => if x.no = e.no then { x with claimed := true } else x)
          queue := q.msg.queue ++ [(tagOf q t, .recv (f.addr (q.task t)).toNat f.rd.toNat e.no)] } })))

/-- hq.put and hq.get of a queue the job may use, not bound to another instance: the packet goes out, with the handle
s[ra + 1] : s[ra] of a put, and the task waits for its reply. -/
def Obligations.HandleInstructionsSendTheirPacket : Prop :=
  ∀ (s : State) (c : Fin 32) (t : Fin 4) (f : Fields), s.hqLocal c f.imm.toNat = true → f.imm.toNat < 64 → f.rb = 0#5 →
    f.x = 0#3 →
    (Issues (s.core c) t f [f.ra, f.ra + 1#5] → f.rd = 0#5 → f.ra.getLsbD 0 = false → ((s.core c).task t).rels = [] →
      Does (.hqPut c f) s (fun u =>
        Waits (s.core c) (u.core c) t (.hqPut f.imm.toNat
          (((s.core c).task t).reg (f.ra + 1#5) ++ ((s.core c).task t).reg f.ra) false) ∧
        u.mesh = s.mesh ++ [.hqPut (s.partOf c) c t f.imm.toNat
          (((s.core c).task t).reg (f.ra + 1#5) ++ ((s.core c).task t).reg f.ra) s.clk.fcyc] ∧
        (∀ d : Fin 32, d ≠ c → u.core d = s.core d) ∧ u.store = s.store)) ∧
    (Issues (s.core c) t f [] → f.ra = 0#5 → f.rd.getLsbD 0 = false →
      Does (.hqGet c f) s (fun u => Waits (s.core c) (u.core c) t (.hqGet f.imm.toNat f.rd.toNat) ∧
        u.mesh = s.mesh ++ [.hqGet (s.partOf c) c t f.imm.toNat] ∧ (∀ d : Fin 32, d ≠ c → u.core d = s.core d) ∧
        u.store = s.store))

/-- wpt: with its units' earlier commands finished (and their writes performed, but for an acquire) the task goes on; an
unsatisfied release is kept and the task goes on, but with four of them kept it waits for the oldest to go (R243); an unsatisfied
full or acquire waypoint makes the task wait, and it has not issued (R217). wpt.final in task 0 waits for the other tasks and the
final waypoint; in another task it stops the core with 0x0307. -/
def Obligations.WaypointsHoldTheTask : Prop :=
  ∀ (s : State) (c : Fin 32) (t : Fin 4) (f : Fields),
    let q := s.core c
    let w : Wpt := ⟨fld 5 0 f.imm.toNat, fld 11 10 f.imm.toNat, q.seq.nextId, (q.task t).memDone⟩
    let met := q.priorDone t w && (decide (fld 9 8 f.imm.toNat = 1) || s.performed c t w)
    let keeps := fun (u : State) => OnlyCore s u c ∧ (u.core c).tile = q.tile ∧
      (∀ v n, ((u.core c).task v).reg n = (q.task v).reg n) ∧ (∀ v n, ((u.core c).task v).pred n = (q.task v).pred n)
    (Issues q t f [] → f.rd = 0#5 → f.ra = 0#5 → f.rb = 0#5 → f.x = 0#3 → f.wptOk = true →
      (met = true ∨ w.units = 0 → Does (.wpt c f) s (fun u => keeps u ∧ NextPc q (u.core c) t ∧
        ((u.core c).task t).rels = (q.task t).rels)) ∧
      (met = false → w.units ≠ 0 → fld 9 8 f.imm.toNat = 2 → (q.task t).rels.length < 4 → Does (.wpt c f) s (fun u => keeps u ∧
        NextPc q (u.core c) t ∧ ((u.core c).task t).rels = (q.task t).rels ++ [w])) ∧
      (∀ r l, met = false → w.units ≠ 0 → fld 9 8 f.imm.toNat = 2 → (q.task t).rels = r :: l → 4 ≤ (r :: l).length →
        Does (.wpt c f) s (fun u => OnlyCore s u c ∧ Waits q (u.core c) t (.releaseSlots r))) ∧
      (met = false → w.units ≠ 0 → fld 9 8 f.imm.toNat ≠ 2 → Does (.wpt c f) s (fun u => OnlyCore s u c ∧
        Waits q (u.core c) t (.wpt w (decide (fld 9 8 f.imm.toNat = 1)))))) ∧
    (Issues q t f [] → f.rd = 0#5 → f.ra = 0#5 → f.rb = 0#5 → f.x = 0#3 → f.imm = 0#32 →
      (t = 0 → Does (.wptFinal c f) s (fun u => OnlyCore s u c ∧ Waits q (u.core c) t .final)) ∧
      (t ≠ 0 → Does (.wptFinal c f) s (fun u => (u.core c).seq.stop = some 0x0307)))

/-- task.decl makes an idle task ready at s[ra] + imm with copies of s0 to s3 and zeros elsewhere, and stops the core with 0x0307
when the task is not idle; task.yield runs the next ready task in the order t + 1, t + 2, t + 3, or goes on; task.end makes the
task idle, and in task 0 stops the core with 0x0307. -/
def Obligations.TaskInstructionsDeclareYieldEnd : Prop :=
  ∀ (s : State) (c : Fin 32) (t v : Fin 4) (f : Fields),
    let q := s.core c
    (Issues q t f [f.ra, 0#5, 1#5, 2#5, 3#5] → f.rd = 0#5 → f.rb = 0#5 → f.x.toNat = v.val →
      (v ≠ t → (q.task v).st = .idle → Does (.taskDecl c f) s (fun u => OnlyCore s u c ∧ NextPc q (u.core c) t ∧
        ((u.core c).task v).st = .ready ∧ ((u.core c).task v).pc = ((q.task t).reg f.ra + f.imm).toNat ∧
        (∀ n : BitVec 5, ((u.core c).task v).reg n = if n.toNat < 4 then (q.task t).reg n else 0#32) ∧
        (∀ n : BitVec 3, n ≠ 0#3 → ((u.core c).task v).pred n = false) ∧ ((u.core c).task v).loops = [] ∧
        ((u.core c).task v).rels = (q.task v).rels ∧
        (∀ w, w ≠ t → w ≠ v → (u.core c).task w = q.task w) ∧ (u.core c).tile = q.tile)) ∧
      ((q.task v).st ≠ .idle → Does (.taskDecl c f) s (fun u => (u.core c).seq.stop = some 0x0307))) ∧
    (Issues q t f [] → f.rd = 0#5 → f.ra = 0#5 → f.rb = 0#5 → f.x = 0#3 → f.imm = 0#32 →
      ((∀ w, w ≠ t → (q.task w).st ≠ .ready) → Does (.taskYield c f) s (fun u => OnlyCore s u c ∧
        TaskFrame q (u.core c) t [] [] ∧ NextPc q (u.core c) t ∧ (u.core c).seq.running = some t)) ∧
      ((q.task (t + 1)).st = .ready → Does (.taskYield c f) s (fun u => OnlyCore s u c ∧ NextPc q (u.core c) t ∧
        ((u.core c).task t).st = .ready ∧ (u.core c).seq.running = some (t + 1) ∧
        ((u.core c).task (t + 1)).st = .running ∧ (∀ w n, ((u.core c).task w).reg n = (q.task w).reg n))) ∧
      (t ≠ 0 → Does (.taskEnd c f) s (fun u => OnlyCore s u c ∧ ((u.core c).task t).st = .idle ∧
        (u.core c).seq.running = [t + 1, t + 2, t + 3].find? (fun w => (q.task w).st = .ready) ∧
        (∀ w n, ((u.core c).task w).reg n = (q.task w).reg n) ∧ (u.core c).tile = q.tile)) ∧
      (t = 0 → Does (.taskEnd c f) s (fun u => (u.core c).seq.stop = some 0x0307)))

/-! ## Events in a core (R204, R219, R223, R94 to R190) -/

/-- Tasks that are ready, or with no task running become so in this A-cycle: those that wait for what has come, and `also`. -/
def comesUp (q : Core) (also : Fin 4 → Bool) (v : Fin 4) : Bool :=
  decide ((q.task v).st = .ready) || (decide ((q.task v).st = .waiting) && (q.waitOver v || also v))

/-- Task t has become ready (R219). While a task runs no other task and nothing of the sequencer's choice changes; with none
running, of the tasks that are ready or become so in the same A-cycle the first in the order last + 1, last + 2, last + 3, last
runs, and the others among them are ready (R221). No other task's pc, registers or predicates change. -/
def Woken (q r : Core) (t : Fin 4) (also : Fin 4 → Bool) : Prop :=
  (r.task t).wait = .none ∧
  (∀ v, v ≠ t → (r.task v).pc = (q.task v).pc ∧ (∀ n, (r.task v).reg n = (q.task v).reg n) ∧
    ∀ n, (r.task v).pred n = (q.task v).pred n) ∧
  (q.seq.running ≠ none → (r.task t).st = .ready ∧ r.seq.running = q.seq.running ∧ ∀ v, v ≠ t → r.task v = q.task v) ∧
  (q.seq.running = none →
    r.seq.running = [q.seq.last + 1, q.seq.last + 2, q.seq.last + 3, q.seq.last].find? (fun v => v = t || comesUp q also v) ∧
    (r.task t).st = (if r.seq.running = some t then .running else .ready) ∧
    ∀ v, v ≠ t → (comesUp q also v = false → r.task v = q.task v) ∧
      (comesUp q also v = true → (r.task v).st = (if r.seq.running = some v then .running else .ready)))

/-- The sequencer's events. A waiting task whose wait is over becomes ready, and with no task running the first of those that
become ready in one A-cycle runs in the order of R221 (R219, R221); a line fill makes the running task's instruction line held and takes 10 A-cycles (R204); 2^26 A-cycles without progress stop the core with
0x0309 (R223); a start packet of a running job whose earlier window writes have retired starts task 0 at the entry, or the hot
entry, with the rank and number of the job's cores (R196). -/
def Obligations.SequencerEventsActOnTheirTask : Prop :=
  ∀ (s : State) (c : Fin 32) (t : Fin 4),
    let q := s.core c
    (q.live = true → (q.task t).st = .waiting → q.waitOver t = true →
      Does (.taskReady c t) s (fun u => OnlyCore s u c ∧ Woken q (u.core c) t (fun _ => false) ∧
        ((u.core c).task t).pc = (q.task t).pc ∧ (u.core c).tile = q.tile ∧ (u.core c).arr.acc = q.arr.acc)) ∧
    (s.bankWaits c .fetch = true → Does (.instructionBufferMiss c) s (fun u => u = s)) ∧
    (q.live = true → q.seq.running = some t → q.ibHit (q.task t).pc = false → s.bankWaits c .fetch = false →
      Does (.instructionBufferMiss c) s (fun u => OnlyCore s u c ∧ (u.core c).ibHit (q.task t).pc = true ∧
        (u.core c).seq.cyc = q.seq.cyc + 10 ∧ (u.core c).tasks = q.tasks ∧ (u.core c).tile = q.tile)) ∧
    (q.live = true → 2 ^ 26 ≤ q.seq.idle → Does (.coreHang c) s (fun u => (u.core c).seq.stop = some 0x0309)) ∧
    (∀ (j : Job) (hot : Bool), s.jobOf c = some j → j.phase = .running → j.critical = false →
      s.winsRetired j.part j.bellSeq = true → s.mesh = [.start c hot] → s.arrives 0 = true →
      Does (.startPacket c) s (fun u => (u.core c).seq.started = true ∧ (u.core c).seq.running = some 0 ∧
        ((u.core c).task 0).pc = (if hot then q.img.hotEntry else q.img.entry) ∧
        (u.core c).seq.ncores = j.coreList.length ∧ (u.core c).seq.rank = (j.coreList.filter (fun d => decide (d < c.val))).length ∧
        (u.core c).seq.invocation = (if hot then j.pos else j.dpos) ∧ u.mesh = []))

/-- The array unit takes the command at its queue's head once its checks pass and there is room (R94, R96, R120): a load marks its
slots, an operation waits to issue; a failed check stops the core with its status. A load's last row makes its slots valid with
the tile's bytes (R96). The next streamed vector, or the next two at 4 operations, is read, and broadcast when every feeder of the mask has room (R99, R102). -/
def Obligations.ArrayUnitTakesAndFeeds : Prop :=
  ∀ (s : State) (c : Fin 32),
    let q := s.core c
    (∀ g o rest, q.arr.queue = (g, .op o) :: rest → q.arr.roomForOp = true → o.conv = false →
      (o.check q.arr false = none → Does (.arrayQueueTake c) s (fun u => OnlyCore s u c ∧
        u.core c = { q with arr := { q.arr with queue := rest, ops := q.arr.ops ++ [ArrAct.new g o] } })) ∧
      (∀ st, o.check q.arr false = some st → q.seq.stop = none →
        Does (.arrayQueueTake c) s (fun u => (u.core c).seq.stop = some st))) ∧
    (∀ g l rest, q.arr.queue = (g, .load l) :: rest → q.arr.loadHeld l = false → l.check = none →
      Does (.arrayQueueTake c) s (fun u => OnlyCore s u c ∧ (u.core c).arr.loads = q.arr.loads ++ [⟨g, l⟩] ∧
        (u.core c).arr.queue = rest ∧ (u.core c).arr.ops = q.arr.ops ∧ (u.core c).tile = q.tile)) ∧
    (∀ l rest, q.arr.loads = l :: rest → q.arr.slots.length = 8 → l.load.slot < 2 →
      Does (.slotLoadComplete c) s (fun u => OnlyCore s u c ∧ (u.core c).arr.loads = rest ∧ (u.core c).tile = q.tile ∧
        ∀ a < 4, l.load.mask.testBit a = true →
          ((u.core c).arr.slots.getD (2 * a + l.load.slot) Slot.empty).valid = true ∧
          ∀ r < 32, ((u.core c).arr.slots.getD (2 * a + l.load.slot) Slot.empty).rows.getD r [] =
            q.tile.read ((l.load.src : Int) + (a : Int) * l.load.arrayStride + (r : Int) * l.load.rowStride).toNat
              (l.load.fmt.bytes 32))) ∧
    (s.bankWaits c .feeder = true → Does (.streamedVectorRead c) s (fun u => u = s)) ∧
    (∀ x rest, q.arr.ops = x :: rest → x.mayRead = true → s.bankWaits c .feeder = false → Does (.streamedVectorRead c) s (fun u => OnlyCore s u c ∧
      u.core c = { q with arr := { q.arr with ops :=
        { x with read := x.read + x.together, inflight := x.inflight ++
          (List.range x.together).map (fun i => x.op.readVec q.tile (x.read + i)) } :: rest } })) ∧
    (∀ x v vs rest, q.arr.ops = x :: rest → x.inflight = v :: vs → x.bcast < x.op.n →
      (∀ a ∈ x.op.arrays, q.arr.feeders a < 16) → Does (.broadcastWrite c) s (fun u => OnlyCore s u c ∧
        u.core c = { q with
          arr := { q.arr with ops := { x with inflight := vs, bcast := x.bcast + 1, fed := x.fed ++ [v] } :: rest }
          cnv := if x.op.conv then q.cnv.vectorSent else q.cnv }))

/-- One A-cycle of an operation in issue: below a budget of 64 it is throttled, the counter counts and no entry changes
(R107, R108); otherwise the budget gives 64, and when no masked array freezes the issue counter counts. A drain read sends the
oldest drain's next index, complete in every masked array, toward the element pipe (R114). A gap A-cycle with station-keeping on
and budget left fires a dummy cycle, which changes no entry (R127). -/
def Obligations.ArrayCyclesIssueDrainAndKeep : Prop :=
  ∀ (s : State) (c : Fin 32),
    let q := s.core c
    (∀ x rest, q.arr.ops = x :: rest → x.started = true → x.unissued = true → q.arr.trip = false →
      (q.arr.budget + q.arr.limit < 64 → Does (.arrayIssueCycle c) s (fun u => OnlyCore s u c ∧
        (u.core c).arr.acc = q.arr.acc ∧ (u.core c).arr.budget = q.arr.budget + q.arr.limit ∧ (u.core c).tile = q.tile ∧
        (u.core c).arr.cnt = { q.arr.cnt with throttle := sat32 q.arr.cnt.throttle 1 })) ∧
      (64 ≤ q.arr.budget + q.arr.limit → (∀ a ∈ x.op.arrays, q.arr.freeze 0 x a = none) →
        (∀ a ∈ x.op.arrays, (x.lanes.getD a (ArrLane.start 0)).issued < x.op.n) →
        Does (.arrayIssueCycle c) s (fun u => OnlyCore s u c ∧ (u.core c).tile = q.tile ∧
          (u.core c).arr.budget = q.arr.budget + q.arr.limit - 64 ∧
          (u.core c).arr.cnt = { q.arr.cnt with issue := sat32 q.arr.cnt.issue 1 }))) ∧
    (∀ x rest, q.arr.ops = x :: rest → x.op.drain = true → x.drained < x.op.indices.length → x.drainReady = true →
      Does (.drainRead c) s (fun u => OnlyCore s u c ∧ (u.core c).arr.acc = q.arr.acc ∧ (u.core c).tile = q.tile ∧
        (u.core c).arr.ops = { x with drained := x.drained + 1 } :: rest ∧
        ∃ l, (u.core c).arr.drainOut = q.arr.drainOut ++ [⟨x.tag.id, x.op.indices.getD x.drained 0, x.op.flt, l,
          (List.range 128).map (fun j => x.op.writes (j / 32) (j % 32) (x.op.indices.getD x.drained 0))⟩] ∧ l.length = 128)) ∧
    (q.arr.last.isSome = true → q.arr.ops = [] → q.arr.sinceIssue < 256 → q.arr.stkeep.testBit 0 = true → q.arr.ramp = none →
      q.arr.trip = false → 64 ≤ q.arr.budget + q.arr.limit → 64 ≤ q.arr.gapBudget + stkeepDensity q.arr.stkeep →
      q.live = true → q.seq.final = false → q.seq.parked = false →
      Does (.stationKeepingDummy c) s (fun u => OnlyCore s u c ∧ (u.core c).arr.acc = q.arr.acc ∧
        (u.core c).arr.cnt = { q.arr.cnt with stkeep := sat32 q.arr.cnt.stkeep 1 } ∧
        (u.core c).arr.sinceIssue = q.arr.sinceIssue + 1))

/-- A core whose array 0 has two INT8 vectors of two elements to multiply into column 0 of a loaded slot. -/
def macCore : Core :=
  { Core.reset with
    arr := { ArrayUnit.reset with
      slots := setAt ArrayUnit.reset.slots 0 ⟨true, ⟨1, false, false⟩, true, 0, ⟨1, false, false⟩,
        [[3#8], [0xFC#8]], []⟩
      limit := 64
      ops := [{ ArrAct.new ⟨0, 0, 0⟩
          { form := some .normal, heading := some .w, transposed := false, mode := some .mac, mask := 1, slot := 0, rnd := 0,
            accInit := true, drain := false, conv := false, fs := ⟨1, false, false⟩, fv := ⟨1, false, false⟩,
            fc := ⟨1, false, false⟩, n := 2, rows := 2, ncols := 1, accBase := [7], srcV := 0, vstride := 32, srcC := 0,
            sclV := 0, sclC := 0, sclT := 0 } with
        started := true, read := 2, bcast := 2, fed := [⟨[5#8, 2#8], []⟩, ⟨[1#8, 1#8], []⟩] }] } }

/-- The arrays multiply and accumulate: elements 5 and 2 times slot elements 3 and −4 leave 7 in entry 7 of column 0, an INT32
entry, valid (R109, R111). -/
def Obligations.ArraysMultiplyAndAccumulate : Prop :=
  let s := State.reset.modCore 0 (fun _ => macCore)
  Does (.arrayIssueCycle 0) s (fun u => (u.core 0).arr.acc = [(accKey 0 0 7, ⟨7, false, true, 1⟩)] ∧
    (u.core 0).arr.cnt.issue = 1 ∧ u.pending = s.pending)

/-- The element unit takes the command at its queue's head (R151, R153, R159, R163): a failed check stops the core, an element
command becomes active, a load becomes the load in progress, a bind makes its handle resident, a swap of a resident handle begins.
Loads complete from tile memory for later commands (R149, R151). -/
def Obligations.ElementUnitTakesAndLoads : Prop :=
  ∀ (s : State) (c : Fin 32),
    let q := s.core c
    (∀ g e rest, q.elm.queue = (g, .cmd e) :: rest → q.elm.wait = none → q.elm.load = none → q.elm.acts.length < 2 →
      (e.check q.elm = none → e.rec_ = false → Does (.elementQueueTake c) s (fun u => OnlyCore s u c ∧
        u.core c = { q with elm := { q.elm with queue := rest, acts := q.elm.acts ++ [⟨g, e, 0, 0, none, 0, none⟩] } })) ∧
      (∀ st, e.check q.elm = some st → q.seq.stop = none →
        Does (.elementQueueTake c) s (fun u => (u.core c).seq.stop = some st))) ∧
    (∀ g n a rest, q.elm.queue = (g, .cfg n a) :: rest → q.elm.wait = none → q.elm.load = none → q.elm.acts = [] →
      Does (.elementQueueTake c) s (fun u => OnlyCore s u c ∧
        u.core c = { q with elm := { q.elm with queue := rest, load := some (.cfg g n a) } })) ∧
    (∀ g b rest, q.elm.queue = (g, .bind b) :: rest → q.elm.wait = none → q.elm.load = none → b.zero = false →
      q.elm.handleBusy b.sh = false → q.elm.handles.length = 16 → b.sh < 16 →
      Does (.elementQueueTake c) s (fun u => OnlyCore s u c ∧ (u.core c).elm.queue = rest ∧ (u.core c).tile = q.tile ∧
        (u.core c).elm.handle b.sh = ⟨b.addr, b.rows, b.comp, b.gen, b.home, .resident, false⟩)) ∧
    (∀ g h rest, q.elm.queue = (g, .swapOut h) :: rest → q.elm.wait = none → q.elm.load = none → h < 16 →
      q.elm.handleBusy h = false → q.elm.handles.length = 16 → (q.elm.handle h).res = .resident →
      Does (.elementQueueTake c) s (fun u => OnlyCore s u c ∧ (u.core c).elm.queue = rest ∧
        ((u.core c).elm.handle h).res = .outgoing ∧ (u.core c).elm.swaps = q.elm.swaps ++ [⟨h, true, some g, false, 0⟩])) ∧
    (∀ g n a, q.elm.load = some (.cfg g n a) → n < 4 → q.elm.cfgs.length = 4 → q.elm.cfgLoaded.length = 4 →
      Does (.configLoadComplete c) s (fun u => OnlyCore s u c ∧ (u.core c).elm.load = none ∧ (u.core c).tile = q.tile ∧
        (u.core c).elm.cfgs.getD n [] = (List.range 8).map (fun i => ofLe (q.tile.read (a + 8 * i) 8)) ∧
        (u.core c).elm.cfgLoaded.getD n false = true)) ∧
    (∀ g n a, q.elm.load = some (.table g n a) → n < 4 → q.elm.tables.length = 4 → q.elm.tabLoaded.length = 4 →
      Does (.tableLoadComplete c) s (fun u => OnlyCore s u c ∧ (u.core c).elm.load = none ∧ (u.core c).tile = q.tile ∧
        (u.core c).elm.tables.getD n [] = q.tile.read a 3104 ∧ (u.core c).elm.tabLoaded.getD n false = true))

/-- What a vector without tile or drain sources enters as: 128 lanes of +0, those below the lane count active. -/
def plainVector (lanes : Nat) : List Lane := (List.range 128).map (fun j => ⟨0, true, decide (j < lanes)⟩)

/-- A vector of an active command with no sources passes the 8 stages of its configuration and, with an output, waits at the
output writer (R136, R144); a stop of a stage stops the core with its status. The writer writes the oldest vector at its address and
nowhere else, or stops the core with 0x0303 where the bytes are protected (R155, R229). Neither acts while a bank it needs is granted
to another requester (R394). -/
def Obligations.ElementVectorsPassAndAreWritten : Prop :=
  (∀ (s : State) (c : Fin 32) (a : ElmAct) (rest : List ElmAct),
    let q := s.core c
    let p := passStages (q.elm.cfgs.getD a.cmd.cfg []) q.elm.tables q.elm.tabLoaded a.entered
      { prev := plainVector a.cmd.lanes, in0 := plainVector a.cmd.lanes, in1 := List.replicate 128 zeroLane,
        aux := (plainVector a.cmd.lanes).map (fun l => ⟨0, true, l.act⟩), lregs := q.elm.lregs, gens := q.laneGens,
        fl := .none, stop := none }
    q.elm.acts = a :: rest → a.allIn = false → a.cmd.src0 = 0 → a.cmd.src1 = 0 → a.cmd.rec_ = false → a.cmd.dst = true →
    q.arr.trip = false → q.seq.stop = none →
    ((s.bankWaits c .writer = true ∨ s.bankWaits c .pipe = true) → Does (.elementVectorEntry c) s (fun u => u = s)) ∧
    (s.bankWaits c .writer = false → s.bankWaits c .pipe = false →
    (p.stop = none → Does (.elementVectorEntry c) s (fun u => OnlyCore s u c ∧ (u.core c).tile = q.tile ∧
      (u.core c).elm.outQ = q.elm.outQ ++ [⟨a.tag, a.cmd, a.entered, p.prev⟩] ∧ (u.core c).elm.lregs = p.lregs ∧
      (u.core c).laneGens = p.gens ∧ (u.core c).fl = q.fl.or p.fl ∧ (u.core c).elm.cnt.vec = sat32 q.elm.cnt.vec 1)) ∧
    (∀ st, p.stop = some st → Does (.elementVectorEntry c) s (fun u => (u.core c).seq.stop = some st ∧
      (u.core c).elm.lregs = p.lregs ∧ (u.core c).laneGens = p.gens ∧ (u.core c).fl = q.fl.or p.fl)))) ∧
  (∀ (s : State) (c : Fin 32) (o : OutVec) (rest : List OutVec),
    let q := s.core c
    let n := o.cmd.fmtO.bytes o.cmd.lanes
    q.elm.outQ = o :: rest → o.cmd.fmtO.isMx = false →
    (s.bankWaits c .writer = true → Does (.outputWriterWrite c) s (fun u => u = s)) ∧
    (s.bankWaits c .writer = false → q.protects (o.cmd.outAddr o.idx) n = false → Does (.outputWriterWrite c) s (fun u => OnlyCore s u c ∧
      (u.core c).elm.outQ = rest ∧ (u.core c).tasks = q.tasks ∧ (u.core c).arr = q.arr ∧
      (u.core c).tile = q.tile.write (o.cmd.outAddr o.idx) (outBytes o.cmd.fmtO (q.tile.read (o.cmd.outAddr o.idx) n)
        o.cmd.lanes (convertOut o.cmd o.lanes q.laneGens).1))) ∧
    (s.bankWaits c .writer = false → q.protects (o.cmd.outAddr o.idx) n = true → q.seq.stop = none → Does (.outputWriterWrite c) s (fun u =>
      (u.core c).seq.stop = some 0x0303 ∧ (u.core c).tile = q.tile)))

/-- Chunks, write-backs and swaps (R160 to R163): a waiting chunk whose handle is resident at its generation becomes active; the
oldest write-back's bytes reach tile memory; a swap-out completes when its whole region is issued and its stops have accepted every
write, and leaves its handle absent; a swap-in completes when its reads have returned, lands their bytes and makes the handle
resident. -/
def Obligations.StateHandlesAreWrittenBackAndSwapped : Prop :=
  ∀ (s : State) (c : Fin 32),
    let q := s.core c
    (∀ g e, q.elm.wait = some (g, e) → q.elm.acts.length < 2 → q.elm.fate e = .run →
      Does (.chunkResume c) s (fun u => OnlyCore s u c ∧ (u.core c).elm.wait = none ∧ (u.core c).tile = q.tile ∧
        (u.core c).elm.acts = q.elm.acts ++ [⟨g, e, 0, 0, none, 0, none⟩])) ∧
    (∀ w rest, q.elm.wbs = w :: rest → q.protects w.addr w.bytes.length = false →
      Does (.stateWritebackDone c) s (fun u => OnlyCore s u c ∧ (u.core c).elm.wbs = rest ∧
        (u.core c).tile = q.tile.write w.addr w.bytes)) ∧
    (∀ (h : Fin 16) (w : Swap), q.elm.handles.length = 16 → q.elm.swaps = [w] → w.sh = h →
      let own := FabOwner.swapOut c (q.swapTag w).task (q.swapTag w).id
      (∀ data, w.pos < q.elm.region h → Does (.swapComplete c h data) s (fun u => u = s)) ∧
      (q.elm.region h ≤ w.pos → w.out = true → (q.elm.handle h).wantIn = false → q.elm.wait = none →
        (∀ y ∈ s.fab.accs, y.owner = own → y.accepted = true) → (∀ y ∈ s.fab.rem, y.owner = own → y.done = true) →
        s.ownerIdle (.swapIn c h) = true → Does (.swapComplete c h []) s (fun u => OnlyCore s u c ∧ (u.core c).elm.swaps = [] ∧
          ((u.core c).elm.handle h).res = .absent ∧ (u.core c).tile = q.tile)) ∧
      (q.elm.region h ≤ w.pos → w.out = false → s.ownerDone (.swapIn c h) = true →
        q.protects (q.elm.handle h).addr (q.elm.region h) = false →
        let data := (s.ownerTake (.swapIn c h)).1
        Does (.swapComplete c h data) s (fun u => (∀ d : Fin 32, d ≠ c → u.core d = s.core d) ∧ (u.core c).elm.swaps = [] ∧
          ((u.core c).elm.handle h).res = .resident ∧ s.store = u.store ∧ u.parts = s.parts ∧
          (∀ y ∈ u.fab.accs, y.owner ≠ .swapIn c h) ∧
          (u.core c).tile = q.tile.write (q.elm.handle h).addr
            (slice data 0 (q.elm.region h)))))

/-- The convolution engine takes a command when fewer than two are taken, or stops the core with the first failed check's status
(R178, R190); a line read of a global average is counted; the next vector of the active sweep is formed for the bound operation; a
finished global average writes one binary32 mean per plane at its destination (R174, R180, R190). -/
def Obligations.ConvolutionEngineRunsItsCommands : Prop :=
  ∀ (s : State) (c : Fin 32),
    let q := s.core c
    (∀ g a rest, q.cnv.queue = (g, .gavg a) :: rest → q.cnv.acts.length < 2 →
      (a.check = none → Does (.convQueueTake c) s (fun u => OnlyCore s u c ∧ u.core c =
        { q with cnv := { q.cnv with queue := rest, acts := q.cnv.acts ++ [⟨g, .gavg a, [], [], 0, 0, 0, 0, 0, []⟩] } })) ∧
      (∀ st, a.check = some st → q.seq.stop = none → Does (.convQueueTake c) s (fun u => (u.core c).seq.stop = some st))) ∧
    (∀ g w rest, q.cnv.queue = (g, .win w) :: rest → q.cnv.acts.length < 2 → w.check = none → w.keep = false →
      (∀ x ∈ q.cnv.acts, (match x.cmd with | .win v => v.keep | .gavg _ => false) = false) →
      Does (.convQueueTake c) s (fun u => OnlyCore s u c ∧ (u.core c).cnv.queue = rest ∧ (u.core c).tile = q.tile ∧
        (u.core c).cnv.acts.map ConvAct.toLoad = q.cnv.acts.map ConvAct.toLoad ++ [w.lineSet])) ∧
    (s.bankWaits c .lines = true → Does (.lineLoadRead c) s (fun u => u = s)) ∧
    (∀ a g rest, q.cnv.acts = a :: rest → a.cmd = .gavg g → a.reads < g.reads.length → s.bankWaits c .lines = false →
      Does (.lineLoadRead c) s (fun u => OnlyCore s u c ∧ u.core c = { q with cnv := { q.cnv with
        acts := { a with reads := a.reads + 1, got := a.got ++ (g.reads[a.reads]?.map (fun r => q.tile.read r.1 r.2)).toList } :: rest
        readCnt := sat32 q.cnv.readCnt 1 } })) ∧
    (∀ a w as x xs, q.cnv.acts = a :: as → a.cmd = .win w → a.toLoad = [] → q.arr.ops = x :: xs → x.op.conv = true →
      x.read < x.op.n → x.read - x.slowest < 27 → q.arr.feedersFull x = false → a.sweep < w.ns → a.vec + 1 < w.count →
      Does (.vectorFormation c) s (fun u => OnlyCore s u c ∧ (u.core c).cnv.acts = { a with vec := a.vec + 1 } :: as ∧
        (u.core c).tile = q.tile ∧ (u.core c).arr.ops = { x with read := x.read + 1, inflight := x.inflight ++
          [⟨w.fmt.pack ((List.range 32).map (fun r =>
            w.elem q.cnv.slots a.lines (w.q0 + a.vec) (32 * (w.s0 + a.sweep) + r))), []⟩] } :: xs)) ∧
    (∀ a g rest, q.cnv.acts = a :: rest → a.cmd = .gavg g → g.reads.length ≤ a.reads →
      (q.protects g.dest (4 * g.planes) = false → Does (.globalAverageFinish c) s (fun u => OnlyCore s u c ∧
        (u.core c).cnv.acts = rest ∧ (u.core c).tile = q.tile.write g.dest
          (((List.range g.planes).map (g.mean a.got)).flatMap (fun m => toLe 4 m.1)))) ∧
      (q.protects g.dest (4 * g.planes) = true → q.seq.stop = none → Does (.globalAverageFinish c) s (fun u =>
        (u.core c).seq.stop = some 0x0303 ∧ (u.core c).tile = q.tile)))

/-! ## Mailboxes, barriers, waypoints and handle queues (R238 to R257, R277 to R282) -/

/-- What a sender keeps of n credits left after a message, and the credits it gives back: it keeps them while more is queued to
the destination, and returns unused ones otherwise (R247). -/
def creditsLeft (c d n : Nat) (more : Bool) : Nat × List Pkt :=
  if n = 0 || more then (n, []) else (0, [.creditRet c d n])

/-- A mailbox message takes a credit of its receiver, whose pool of entries grants them (R247). mb.send to a core outside the job
stops its core with 0x030C (R246, R260), else reads its 64 B and goes
with a credit, or asks for as many as it has sends queued, up to 8; a request is granted from the pool or listed; a grant lets the
held message go; returned credits serve the listed request. A message occupies an entry (R249); mb.recv copies its entry to tile
memory, writes its sender to the register and frees it (R251), or stops the core where the bytes are protected (R229). -/
def Obligations.MailboxEventsMoveCreditsAndMessages : Prop :=
  ∀ (s : State) (c d : Fin 32) (g : QTag) (a n : Nat) (rest : List (QTag × MsgCmd)) (pkts : List Pkt),
    let q := s.core c
    let left := fun (m : Nat) => creditsLeft c d m (({ q.msg with queue := rest }).sendsTo d ≠ 0)
    (q.msg.queue = (g, .send a d) :: rest → q.live = true → q.msg.sending = none → q.heldBy g = false →
      (s.sameJob c d = false → Does (.mbSendTake c) s (fun u => (u.core c).seq.stop = some 0x030C ∧ u.mesh = s.mesh)) ∧
      (s.sameJob c d = true → q.msg.credit d = n + 1 → Does (.mbSendTake c) s (fun u => (u.core c).msg.queue = rest ∧ (u.core c).msg.sending = none ∧
        (u.core c).msg.credit d = (left n).1 ∧ u.mesh = s.mesh ++ .message c d (q.tile.read a 64) :: (left n).2 ∧
        (u.core c).tile = q.tile ∧ ∀ e : Fin 32, e ≠ c → u.core e = s.core e)) ∧
      (s.sameJob c d = true → q.msg.credit d = 0 → Does (.mbSendTake c) s (fun u => (u.core c).msg.queue = rest ∧
        (u.core c).msg.sending = some ⟨g, d, q.tile.read a 64⟩ ∧
        u.mesh = s.mesh ++ [.creditReq c d (min 8 (({ q.msg with queue := rest }).sendsTo d + 1))] ∧
        (u.core c).tile = q.tile ∧ ∀ e : Fin 32, e ≠ c → u.core e = s.core e))) ∧
    (s.mesh = .creditReq d c n :: pkts → s.arrives 0 = true →
      (q.msg.pool = 0 → Does (.creditRequest d c) s (fun u => u.mesh = pkts ∧
        (u.core c).msg = { q.msg with reqList := q.msg.reqList ++ [(d.val, n)] })) ∧
      (0 < q.msg.pool → q.msg.reqList = [] → Does (.creditRequest d c) s (fun u =>
        u.mesh = pkts ++ [.creditGrant d c (min n q.msg.pool)] ∧ u.fab = s.fab ∧ u.parts = s.parts ∧
        (u.core c).msg = { q.msg with pool := q.msg.pool - min n q.msg.pool }))) ∧
    (∀ data, s.mesh = .creditGrant c d n :: pkts → s.arrives 0 = true → 0 < n → q.msg.sending = some ⟨g, d, data⟩ →
      Does (.creditGrant c d) s (fun u => let k := creditsLeft c d (q.msg.credit d + n - 1) (q.msg.sendsTo d ≠ 0)
        u.mesh = pkts ++ .message c d data :: k.2 ∧ (u.core c).msg.credit d = k.1 ∧ (u.core c).msg.sending = none ∧
        (u.core c).msg.sendCnt = sat32 q.msg.sendCnt 1)) ∧
    (s.mesh = .creditRet d c n :: pkts → s.arrives 0 = true → q.msg.reqList = [] → Does (.creditReturn d c) s (fun u => u.mesh = pkts ∧
      (u.core c).msg = { q.msg with pool := q.msg.pool + n } ∧ ∀ e : Fin 32, e ≠ c → u.core e = s.core e)) ∧
    (∀ (e : Fin 32) (k : Nat), s.mesh = .creditRet d c (n + 1) :: pkts → s.arrives 0 = true → q.msg.reqList = [(e.val, k)] → q.msg.pool = 0 →
      Does (.creditReturn d c) s (fun u => u.mesh = pkts ++ [.creditGrant e c (min k (n + 1))] ∧
        (u.core c).msg = { q.msg with pool := n + 1 - min k (n + 1), reqList := [] })) ∧
    (∀ data, s.mesh = .message d c data :: pkts → s.arrives 0 = true → Does (.messageArrival d c) s (fun u => u.mesh = pkts ∧
      (u.core c).msg = { q.msg with entries := q.msg.entries ++ [⟨q.msg.nextNo, d, data, false⟩], nextNo := q.msg.nextNo + 1 } ∧
      (u.core c).tile = q.tile ∧ ∀ e : Fin 32, e ≠ c → u.core e = s.core e)) ∧
    (∀ (x : MbEntry) (rd : BitVec 5), q.msg.queue = (g, .recv a rd.toNat x.no) :: rest → q.live = true → q.msg.sending = none →
      q.msg.entries.find? (fun y => y.no = x.no) = some x → q.msg.reqList = [] → g.task < 4 →
      (q.protects a 64 = false → Does (.mbRecvTake c) s (fun u => (u.core c).msg.queue = rest ∧
        (u.core c).msg.entries = q.msg.entries.filter (fun y => y.no ≠ x.no) ∧ (u.core c).msg.pool = q.msg.pool + 1 ∧
        (u.core c).tile = q.tile.write a x.data ∧ u.mesh = s.mesh ∧
        (∀ t : Fin 4, t.val = g.task → ((u.core c).task t).reg rd = BitVec.ofNat 32 x.from_ ∧
          ∀ r, r ≠ rd → ((u.core c).task t).reg r = (q.task t).reg r) ∧
        (∀ t : Fin 4, t.val ≠ g.task → (u.core c).task t = q.task t) ∧ ∀ e : Fin 32, e ≠ c → u.core e = s.core e)) ∧
      (q.protects a 64 = true → q.seq.stop = none → Does (.mbRecvTake c) s (fun u =>
        (u.core c).seq.stop = some 0x0303 ∧ (u.core c).tile = q.tile)))

/-- Barriers (R254 to R257). bar.arrive counts the core's arrival and sends it with its phase, or stops the core with 0x030D
when the core is two arrivals ahead or the barrier is a chain barrier of a single-instance job; an arrival is counted at the
partition's barrier unit, and the last participant's sends every participant a completion, or for a chain barrier sends the root the
instance's own completion, counted there (R499); a completion raises the core's completion count. -/
def Obligations.BarrierEventsCountAndComplete : Prop :=
  ∀ (s : State) (c : Fin 32) (b : Fin 256) (j : Job) (pkts : List Pkt), s.jobOf c = some j →
    let q := s.core c
    (∀ g rest, q.msg.queue = (g, .barArrive b) :: rest → q.live = true → q.msg.sending = none → q.heldBy g = false →
      let ph := Sparse.get 0#16 q.msg.arr b + 1#16
      (q.msg.ahead b ≠ 2 → (b.val < 192 ∨ j.multi.isSome = true) → Does (.barArriveTake c) s (fun u => (u.core c).msg =
        { q.msg with queue := rest, arr := Sparse.set 0#16 q.msg.arr b ph, lastBar := b } ∧
        u.mesh = s.mesh ++ [.barArrive j.part c b ph] ∧ u.parts = s.parts ∧ (u.core c).tasks = q.tasks)) ∧
      ((q.msg.ahead b = 2 ∨ (192 ≤ b.val ∧ j.multi = none)) → q.seq.stop = none →
        Does (.barArriveTake c) s (fun u => (u.core c).seq.stop = some 0x030D))) ∧
    (∀ (p : Fin 8) (ph : Half), s.mesh = .barArrive p c b ph :: pkts → s.arrives 0 = true → s.grid.barLocal = [] →
      ((∃ d ∈ j.coreList, d ≠ c.val ∧ (⟨b, ph, d⟩ : BarCount) ∉ (s.part p).bars) →
        Does (.barrierArrival c b) s (fun u => u.mesh = pkts ∧ u.cores = s.cores ∧
          (u.part p).bars = (s.part p).bars ++ [⟨b, ph, c⟩])) ∧
      ((∀ d ∈ j.coreList, d = c.val ∨ (⟨b, ph, d⟩ : BarCount) ∈ (s.part p).bars) →
        Does (.barrierArrival c b) s (fun u => u.cores = s.cores ∧ (∀ d ∈ j.coreList, (⟨b, ph, d⟩ : BarCount) ∉ (u.part p).bars) ∧
          (b.val < 192 → u.mesh = pkts ++ j.coreList.map (fun d => .barDone d b) ∧ u.lnk = s.lnk) ∧
          (∀ m, 192 ≤ b.val → s.grid.jobs = [j] → j.part = p.val → j.multi = some m → u.mesh = pkts ∧
            (m.1 ≠ s.node → u.lnk = { s.lnk with queue := s.lnk.queue ++
              [⟨4, 2, m.1, s.node, p, 0, 0, .cells [.barArrive j.chainJob b ph], p, none, linkStop⟩] }) ∧
            (m.1 = s.node → s.lnk.arrivals = [] → 1 < m.2 → u.lnk = { s.lnk with
              arrivals := [(j.chainJob, b.val, ph, s.node)] }))))) ∧
    (s.mesh = .barDone c b :: pkts → s.arrives 0 = true → Sparse.wf 0#16 q.msg.done = true → Does (.barrierCompletion c b) s (fun u =>
      u.mesh = pkts ∧ Sparse.get 0#16 (u.core c).msg.done b = Sparse.get 0#16 q.msg.done b + 1#16 ∧
      (u.core c).tasks = q.tasks ∧ ∀ e : Fin 32, e ≠ c → u.core e = s.core e))

/-- A task waiting at a waypoint becomes ready, to issue it again, once its prior set has finished and its writes are performed at
its scope, the latter not asked of an acquire (R217, R239 to R241); the oldest release of a task whose condition holds leaves its list (R242). The
final waypoint retires when tasks 1 to 3 are idle, every unit has finished and every write is acknowledged: the core ends its tasks
and sends its completion notice, a pinned job's core parks; sweeps and bound operations that do not match in number stop it with
0x0605 (R41, R179, R222, R230). -/
def Obligations.WaypointEventsReleaseTasksAndCores : Prop :=
  ∀ (s : State) (c : Fin 32) (t : Fin 4),
    let q := s.core c
    (∀ w acq, (q.task t).wait = .wpt w acq → q.live = true → q.priorDone t w = true → (acq = true ∨ s.performed c t w = true) →
      (q.task t).st = .waiting → q.elm.wait = none →
      Does (.waypointSatisfied c t) s (fun u => OnlyCore s u c ∧ u.core c = { q with tasks := (u.core c).tasks, seq := (u.core c).seq } ∧
        Woken q (u.core c) t (s.wptHolds c) ∧ ((u.core c).task t).pc = (q.task t).pc)) ∧
    (∀ w rest, (q.task t).rels = w :: rest → q.live = true → q.priorDone t w = true → s.performed c t w = true →
      Does (.releaseConditionMet c t) s (fun u => OnlyCore s u c ∧ ((u.core c).task t).rels = rest ∧
        (u.core c).seq = q.seq ∧ (u.core c).tile = q.tile ∧ ∀ v, v ≠ t → (u.core c).task v = q.task v)) ∧
    (∀ j, s.jobOf c = some j → q.live = true → (q.task 0).wait = .final → q.seq.final = false →
      (∀ v : Fin 4, v ≠ 0 → (q.task v).st = .idle) →
      (q.quiet = true → s.writesDone c = true → (q.task 0).memDone ≤ q.seq.cyc → Does (.finalWaypointRetire c) s (fun u => u.mesh = s.mesh ++ [.notice c] ∧
        (u.core c).seq.final = true ∧ (u.core c).seq.running = none ∧ (u.core c).seq.parked = j.pin ∧
        (u.core c).tile = q.tile ∧ (∀ v, ((u.core c).task v).st = .idle) ∧ ∀ e : Fin 32, e ≠ c → u.core e = s.core e)) ∧
      (q.cnv.sweepsLeft ≠ q.arr.boundLeft → Does (.finalWaypointRetire c) s (fun u => (u.core c).seq.stop = some 0x0605)))

/-- Handle queues of 32 handles (R278 to R280). A put is appended and accepted, or handed to the first listed get, or refused and
listed when the queue is full; a get takes the oldest handle and frees an entry, which brings a space notice to the first refused
put, or is listed at an empty queue. An accepted reply ends hq.put; a refused one lets the task wait for the notice, which wakes it to
issue the put again; a get's reply writes the handle to s[rd] and s[rd + 1] and ends hq.get. -/
def Obligations.HandleQueueEventsDeliver : Prop :=
  ∀ (s : State) (c : Fin 32) (t : Fin 4) (p : Fin 8) (i : Fin 64) (h : DWord) (born : Nat) (pkts : List Pkt),
    (s.part p).hqs.length = 64 →
    let q := s.core c
    let hq := s.hq p i
    (s.mesh = .hqPut p c t i h born :: pkts → s.arrives 0 = true → s.hqTurn 0 = true →
      (hq.q.length < 32 → hq.gets = [] → Does (.hqPutPacket c t) s (fun u => u.cores = s.cores ∧
        u.mesh = pkts ++ [.hqPutRep c t true] ∧ u.hq p i = { hq with q := hq.q ++ [h] } ∧
        ∀ k : Fin 64, k ≠ i → u.hq p k = s.hq p k)) ∧
      (∀ d v gs, hq.q = [] → hq.gets = (d, v) :: gs → Does (.hqPutPacket c t) s (fun u => u.cores = s.cores ∧
        u.mesh = pkts ++ [.hqGetRep d v h s.clk.fcyc, .hqPutRep c t true] ∧ u.hq p i = { hq with gets := gs })) ∧
      (32 ≤ hq.q.length → Does (.hqPutPacket c t) s (fun u => u.cores = s.cores ∧
        u.mesh = pkts ++ [.hqPutRep c t false] ∧ u.hq p i = { hq with refused := hq.refused ++ [(c.val, t.val)] }))) ∧
    (s.mesh = .hqGet p c t i :: pkts → s.arrives 0 = true → s.hqTurn 0 = true →
      (∀ hs, hq.q = h :: hs → hq.gets = [] → hq.refused = [] → Does (.hqGetRequest c t) s (fun u => u.cores = s.cores ∧
        u.mesh = pkts ++ [.hqGetRep c t h s.clk.fcyc] ∧ u.hq p i = ⟨hs, [], []⟩)) ∧
      (∀ hs d v r, hq.q = h :: hs → hq.gets = [] → hq.refused = (d, v) :: r → d < 256 →
        Does (.hqGetRequest c t) s (fun u => u.cores = s.cores ∧
          u.mesh = pkts ++ [.hqGetRep c t h s.clk.fcyc, .hqSpace d v] ∧ u.hq p i = ⟨hs, [], r⟩)) ∧
      (hq.q = [] → Does (.hqGetRequest c t) s (fun u => u.cores = s.cores ∧ u.mesh = pkts ∧
        u.hq p i = { hq with gets := hq.gets ++ [(c.val, t.val)] }))) ∧
    (s.mesh = .hqPutRep c t true :: pkts → s.arrives 0 = true → (q.task t).wait = .hqPut i h false → q.live = true →
      (q.task t).st = .waiting → q.elm.wait = none → Does (.hqPutReply c t) s (fun u => u.mesh = pkts ∧
        u.core c = { q with tasks := (u.core c).tasks, seq := (u.core c).seq } ∧ Woken q (u.core c) t (fun _ => false) ∧
        NextPc q (u.core c) t)) ∧
    (s.mesh = .hqPutRep c t false :: pkts → s.arrives 0 = true → (q.task t).wait = .hqPut i h false → q.live = true →
      Does (.hqPutReply c t) s (fun u => u.mesh = pkts ∧ ((u.core c).task t).wait = .hqPut i h true ∧
        ((u.core c).task t).pc = (q.task t).pc ∧ (u.core c).seq = q.seq)) ∧
    (∀ rd : BitVec 5, rd.toNat < 31 → s.mesh = .hqGetRep c t h born :: pkts → s.arrives 0 = true → (q.task t).wait = .hqGet i rd.toNat →
      q.live = true → (q.task t).st = .waiting → q.elm.wait = none → Does (.hqGetReply c t) s (fun u => u.mesh = pkts ∧
        u.core c = { q with tasks := (u.core c).tasks, seq := (u.core c).seq } ∧ Woken q (u.core c) t (fun _ => false) ∧
        NextPc q (u.core c) t ∧ ((u.core c).task t).reg rd = h.setWidth 32 ∧ ((u.core c).task t).reg (rd + 1#5) = (h >>> 32).setWidth 32 ∧
        ∀ r, r ≠ rd → r ≠ rd + 1#5 → ((u.core c).task t).reg r = (q.task t).reg r)) ∧
    (s.mesh = .hqSpace c t :: pkts → s.arrives 0 = true → (q.task t).wait = .hqPut i h true → q.live = true →
      (q.task t).st = .waiting → q.elm.wait = none → Does (.hqSpaceNotice c t) s (fun u => u.mesh = pkts ∧
        u.core c = { q with tasks := (u.core c).tasks, seq := (u.core c).seq } ∧ Woken q (u.core c) t (fun _ => false) ∧
        ((u.core c).task t).pc = (q.task t).pc))

/-! ## Streams (R258 to R297, R543) -/

/-- The check of descriptor i of a list under step 2 of R543, for core c. -/
def descCheck (s : State) (c i : Nat) (d : Desc) : Option Nat :=
  d.check (i = 0) (s.sameJob c) (s.ssCapacity (s.partOf c)) s.cfg.chartLog (s.core c).mmu.segs
    (fun n => (s.lds.keys.getD (s.partOf c) []).getD n none)

/-- Only stream slot k of core c, and no other slot, may differ among its stream engine's slots. -/
def OnlySlot (s u : State) (c k : Nat) : Prop := ∀ j, j ≠ k → u.slot c j = s.slot c j

/-- A str.go at the head of the stream queue whose slot is idle reads its 1 to 16 descriptors of 64 B from tile memory and checks
them (R261, R262, R543). A list not 64 B-aligned or outside tile memory stops the core with 0x0702, a failing first descriptor with
its status. A list that passes is the slot's; its first descriptor starts: a define-buffer leaves both halves empty at its
generation (R272) and is finished, a transfer between tile memories or the shared store runs. A later descriptor of the list starts
after the one before it: a define-chain names the core's successor or makes it the last (R284). -/
def Obligations.StreamsTakeAndStartDescriptors : Prop :=
  ∀ (s : State) (c : Fin 32) (k : Fin 6) (g : QTag) (a : Nat) (rest : List (QTag × StrCmd)),
    let q := s.core c
    let n := fld 5 2 (leAt (q.tile.read a 4) 0 4) + 1
    let ds := (chunks 64 n (q.tile.read a (64 * n))).map parseDesc
    let d := ds.getD 0 Desc.empty
    q.live = true → q.str.slots.length = 6 → q.str.bufs.length = 64 → q.str.chains.length = 8 →
    (q.str.queue = (g, .go k a) :: rest → (s.slot c k).st = .idle → q.heldBy g = false →
      ((a % 64 ≠ 0 ∨ 2 ^ 21 < a + 64 * n) → Does (.strGoTake c) s (fun u => (u.core c).seq.stop = some 0x0702)) ∧
      (a % 64 = 0 → a + 64 * n ≤ 2 ^ 21 →
        (∀ st, descCheck s c 0 d = some st → Does (.strGoTake c) s (fun u => (u.core c).seq.stop = some st)) ∧
        ((∀ i < n, descCheck s c i (ds.getD i Desc.empty) = none) →
          (d.kind = 1 → (q.buf d.buffer).h0.st ≠ .filling → (q.buf d.buffer).h1.st ≠ .filling →
            s.bufNamed c k d.buffer = false → d.buffer < 64 → Does (.strGoTake c) s (fun u => (u.core c).str.queue = rest ∧
              (u.core c).buf d.buffer = ⟨d.dst, 16 * d.counts.getD 0 1, ⟨.empty, BitVec.ofNat 16 d.src, []⟩,
                ⟨.empty, BitVec.ofNat 16 d.src, []⟩⟩ ∧ OnlySlot s u c k ∧ (u.core c).tile = q.tile ∧
              (u.slot c k).st = (if 1 < n then .running else .idle) ∧ (1 < n → (u.slot c k).idx = 1))) ∧
          (d.kind = 0 → d.chain = 0 → d.ssp ≠ 4 → d.dsp < 3 → Does (.strGoTake c) s (fun u =>
            (u.core c).str.queue = rest ∧ (u.slot c k).st = .running ∧ (u.slot c k).descs = ds ∧ (u.slot c k).idx = 0 ∧
            (u.slot c k).started = true ∧ (u.slot c k).pos = 0 ∧ (u.slot c k).reqs = [] ∧ (u.slot c k).tag = g ∧
            (u.slot c k).take = s.grid.seq ∧ u.grid.seq = s.grid.seq + 1 ∧ OnlySlot s u c k ∧
            (u.core c).str.bufs = q.str.bufs ∧ (u.core c).tile = q.tile ∧ ∀ e : Fin 32, e ≠ c → u.core e = s.core e))))) ∧
    (let l := s.slot c k;
      l.st = .running → l.started = false → 0 < l.idx → l.desc.kind = 2 → l.desc.chain < 8 → l.idx + 1 = l.descs.length →
      Does (.descriptorStart c k) s (fun u => (u.slot c k).st = .idle ∧ OnlySlot s u c k ∧ (u.core c).tile = q.tile ∧
        (u.core c).str.chains.getD l.desc.chain .undef =
          (if l.desc.dsp = 1 then .succ (locCore l.desc.dstLoc) else .last)))

/-- Buffer halves (R272 to R276). buf.release empties a landed half and raises its generation, and stops the core with 0x0704 for
any other; a slot that waits for a half starts once the half is empty or filling at its generation, and fills it; a finished transfer
leaves its slot for the next descriptor, or idle, counts as late when its deadline has passed (R289), and lands its half when it
bears the land flag, no earlier transfer into the half is unfinished and none other into it is halted or resumed and unfinished. A
transfer is finished when all is requested and returned and no write of its command is left that is not performed at core scope
(R270). -/
def Obligations.BufferHalvesFillLandAndEmpty : Prop :=
  ∀ (s : State) (c : Fin 32) (k : Fin 6),
    let q := s.core c
    let l := s.slot c k
    q.live = true → q.str.slots.length = 6 → q.str.bufs.length = 64 →
    (∀ (g : QTag) (b : Fin 64) (h : Bool) (rest : List (QTag × StrCmd)), q.str.queue = (g, .release b h) :: rest →
      q.heldBy g = false →
      ((q.half b h).st = .landed → Does (.bufReleaseTake c) s (fun u => OnlyCore s u c ∧ (u.core c).str.queue = rest ∧
        (u.core c).half b h = { q.half b h with st := .empty, gen := (q.half b h).gen + 1#16 } ∧
        (u.core c).half b (!h) = q.half b (!h) ∧ (u.core c).str.slots = q.str.slots ∧ (u.core c).tile = q.tile)) ∧
      ((q.half b h).st ≠ .landed → Does (.bufReleaseTake c) s (fun u => (u.core c).seq.stop = some 0x0704))) ∧
    (∀ (o : Fin 32) (b : Fin 64) (h : Bool) (g : Half), l.st = .waiting → l.desc.kind = 0 →
      l.desc.dstHalf = some (o.val, b.val, h, g) → s.dstHalfBad l.desc = none → (s.half o b h).gen = g →
      ((s.half o b h).st = .empty ∨ (s.half o b h).st = .filling) → (s.core o).str.bufs.length = 64 →
      Does (.halfWaitEnd c k) s (fun u => (u.half o b h).st = .filling ∧ (u.half o b h).gen = g ∧
        u.slot c k = { l with st := .running, started := true, pos := 0, rcvd := 0 } ∧ OnlySlot s u c k)) ∧
    (l.st = .running → l.started = true → l.desc.kind = 0 → l.desc.total ≤ l.pos → l.reqs = [] → s.writesOpen c l.tag = false →
      (l.desc.dstHalf = none → Does (.transferFinished c k) s (fun u =>
        (u.slot c k).st = (if l.idx + 1 < l.descs.length then .running else .idle) ∧
        (l.idx + 1 < l.descs.length → (u.slot c k).idx = l.idx + 1 ∧ (u.slot c k).started = false) ∧
        (u.slot c k).late = (!l.desc.nodl && decide (0 ≤ (BitVec.ofNat 32 s.tick - BitVec.ofNat 32 l.desc.deadline).toInt)) ∧
        (u.core c).str.late = (if (u.slot c k).late = true then sat32 q.str.late 1 else q.str.late) ∧
        OnlySlot s u c k ∧ (u.core c).tile = q.tile ∧ (u.core c).str.bufs = q.str.bufs)) ∧
      (∀ (b : Fin 64) (h : Bool), l.desc.dstHalf = some (c.val, b.val, h, (q.half b h).gen) → (q.half b h).st = .filling →
        l.desc.land = true → s.earlierInto c b h (q.half b h).gen l.take l.idx = false →
        (s.modSlot c k (fun x => { x with faulted := false })).haltedInto c b h (q.half b h).gen = false →
        Does (.transferFinished c k) s (fun u => ((u.core c).half b h).st = .landed ∧
          ((u.core c).half b h).gen = (q.half b h).gen ∧ OnlySlot s u c k)))

/-- Where a chain packet goes on to. -/
def forwards (c : Nat) (x : ChainPkt) : ChainDef → List Pkt
  | .succ t => [.chain c t x]
  | _ => []

/-- Streams move bytes (R266, R269, R285, R286). A slot's next request takes elements up to the end of their contiguous run and of
their 1 KiB block; a request into system memory is an access of the fabric at the page the Chart gives. A returned request writes its
elements at their destinations and nowhere else, when the banks it needs are not granted to others (R394). A forwarded chain packet is written at its offset by the active receive, or kept
until 4 KiB are held, and goes on to the successor. -/
def Obligations.StreamsMoveBytes : Prop :=
  ∀ (s : State) (c : Fin 32) (k : Fin 6),
    let q := s.core c
    let l := s.slot c k
    let d := l.desc
    q.live = true → q.str.slots.length = 6 →
    (s.pickSlot c = some k.val → d.conv = 0 → d.dsp < 3 →
      let rel := offsetOf d.counts d.srcStr l.pos
      let addr := (d.src + rel).toNat
      let run := runLen d.es d.counts d.srcStr
      let m := max 1 (min (run - l.pos % run) ((1024 - addr % 1024) / d.es))
      (d.ssp = 0 → Does (.streamRequestIssue c) s (fun u => OnlyCore s u c ∧ OnlySlot s u c k ∧ (u.core c).tile = q.tile ∧
        u.slot c k = { l with
          reqs := l.reqs ++ [⟨l.nextReq, .elems l.pos m, some (.tile c addr), m * d.es, [], none⟩]
          nextReq := l.nextReq + 1, pos := l.pos + m })) ∧
      (∀ x coh, d.ssp = 3 → (segAt q.mmu.segs d.src).sealed_ = false →
        s.lookPage (s.partOf c) q.mmu.segs q.mmu.cache addr = some (.sys x coh) → Does (.streamRequestIssue c) s (fun u =>
          (u.slot c k).pos = l.pos + m ∧ (u.core c).tile = q.tile ∧ u.fab.next = s.fab.next + 1 ∧
          ∃ y ∈ u.fab.accs, y.no = s.fab.next ∧ y.owner = .stream c k l.nextReq ∧ y.write = false ∧
            y.addr = x + addr % 65536 ∧ y.len = m * d.es))) ∧
    (∀ n, (s.bankWaits c .streamRead = true ∨ s.bankWaits c .streamWrite = true) →
      Does (.streamReadReturn c k n) s (fun u => u = s)) ∧
    (∀ r ∈ l.reqs, ∀ e, l.reqs.find? (fun x => x.no = r.no) = some r → r.kind = .elems e 1 →
      s.bankWaits c .streamRead = false → s.bankWaits c .streamWrite = false →
      (∀ data, s.reqData c k r = some data → data.length = d.es → d.chain = 0 → d.dsp = 0 →
        let at_ := (d.dst + offsetOf d.counts d.dstStr e).toNat
        (q.protects at_ d.es = false → Does (.streamReadReturn c k r.no) s (fun u =>
          (u.slot c k).reqs = l.reqs.filter (fun x => x.no ≠ r.no) ∧ (u.core c).tile = q.tile.write at_ data ∧
          OnlySlot s u c k ∧ ∀ x : Fin 32, x ≠ c → u.core x = s.core x)) ∧
        (q.protects at_ d.es = true → Does (.streamReadReturn c k r.no) s (fun u =>
          (u.core c).seq.stop = some 0x0303 ∧ (u.core c).tile = q.tile)))) ∧
    (∀ (ch : Fin 8) (a : Nat) (x : ChainPkt) (pkts : List Pkt), s.mesh = .chain a c x :: pkts → s.arrives 0 = true → x.chain = ch →
      let next := forwards c x (q.str.chains.getD ch .undef)
      (s.receiver c ch = some k.val → d.dsp = 0 → x.off + x.data.length ≤ d.total * d.es →
        l.rcvd + x.data.length ≤ d.total * d.es → q.protects (d.dst + x.off) x.data.length = false → Does (.chainForwardPacket c ch) s (fun u => u.mesh = pkts ++ next ∧
          (u.core c).tile = q.tile.write (d.dst + x.off) x.data ∧ (u.slot c k).rcvd = l.rcvd + x.data.length)) ∧
      (s.receiver c ch = none → ((q.str.chainIn.map (fun y => y.data.length)).foldl (· + ·) 0) + x.data.length ≤ 4096 →
        Does (.chainForwardPacket c ch) s (fun u => u.mesh = pkts ++ next ∧ (u.core c).tile = q.tile ∧
          (u.core c).str.chainIn = q.str.chainIn ++ [x])))

/-! ## The Chart (R300 to R325) -/

/-- How an engine's walk becomes a waiter at its stop (R313). -/
def waiterOf (e : Engine) (w : OutWalk) (tick : Nat) : Waiter := ⟨e, w.part, w.addr, w.write, tick⟩

/-- A walk request reaches the stop of its Chart line (R310): with a walk of the line queued there it joins it, otherwise it
queues, or with 32 lines queued gets a retry, after which the engine sends it again 64 F-cycles on with a new age. A free walker takes
the oldest queued line, reads its 64 B, and counts the walk. -/
def Obligations.ChartWalksQueueAndAreTaken : Prop :=
  ∀ (s : State) (e : Engine) (w : OutWalk) (f : Fin 2) (i : Nat) (pkts : List Pkt), s.cht.stops.length = 2 →
    let line := w.index / 16
    let q := s.stop f
    (∀ (b : Bool), f.val = line % 2 →
      (if b then (s.engWalks e).find? (fun x => match x.st with | .retry t => t + 64 ≤ s.clk.fcyc | _ => false) = some w
        else (s.engWalks e).find? (fun x => x.st = .toSend) = some w) →
      let sends := fun (P : State → Prop) => (b = false → Does (.walkRequest e) s P) ∧ (b = true → Does (.walkRequestResend e) s P)
      let wt := waiterOf e w (if b then s.tick else w.tick)
      ((∀ k ∈ q.walks, k.line = line → e ∈ k.stale) → (q.walks.filter (fun k => !k.taken)).length < 32 →
        sends (fun u => (u.stop f).walks = q.walks ++ [⟨line, false, [wt], [], 0⟩] ∧ u.mesh = s.mesh ∧
          ∃ x ∈ u.engWalks e, x.index = w.index ∧ x.st = .sent)) ∧
      ((∀ k ∈ q.walks, k.line = line → e ∈ k.stale) → 32 ≤ (q.walks.filter (fun k => !k.taken)).length →
        sends (fun u => (u.stop f).walks = q.walks ∧ u.mesh = s.mesh ++ [.retry e w.index])) ∧
      (∀ k rest, q.walks = k :: rest → k.line = line → e ∉ k.stale →
        sends (fun u => (u.stop f).walks = { k with waiters := k.waiters ++ [wt] } :: rest ∧ u.mesh = s.mesh))) ∧
    (s.mesh = .retry e i :: pkts → s.arrives 0 = true → Does (.walkRetryReply e) s (fun u => u.mesh = pkts ∧
      ∀ x ∈ u.engWalks e, x.index = i → x.st = .retry s.clk.fcyc)) ∧
    (∀ k rest, q.walks = k :: rest → k.taken = false → (rest.filter Walk.taken).length < s.cfg.walkers / 2 →
      Does (.walkerTake f) s (fun u => (u.stop f).walks = { k with taken := true, acc := s.fab.next } :: rest ∧
        u.cht.walkCnt = sat32 s.cht.walkCnt 1 ∧
        Accesses s u (.walk f k.line) false (s.chartLine k.line).2 (s.chartLine k.line).1 64 []))

/-- A Chart line read for one engine is answered by its entry (R308, R311 to R315): a usable entry fills the engine, an illegal
one refuses it with 0x0803, an absent or migrating one is a fault: refused with 0x0804 while the partition's fault ring is disabled,
else a pending fault is made, a record goes to the ring writer, and the engine halts. A fill enters the engine's cache as its newest
line, and a slot halted on an index of it resumes when the fill answers that index's replay; a halt halts the slots that wait for the
index, or a refusal stops the core. -/
def Obligations.ChartLinesAnswerTheirEngines : Prop :=
  (∀ (s : State) (f : Fin 2) (a : FabAcc) (w : Waiter) (k : Walk) (accs : List FabAcc) (rest : List Walk),
    s.cht.stops.length = 2 → s.fab.accs = a :: accs → a.owner = .walk f k.line → a.done = true →
    a.no = k.acc →
    (s.stop f).walks = k :: rest → k.taken = true → k.waiters = [w] → k.stale = [] →
    (∀ p ∈ (s.stop f).pend, p.replay = none) →
    let es := (chunks 4 16 a.got).map (fun b => BitVec.ofNat 32 (ofLe b))
    (∀ pl, s.waitFate w es = .usable pl → Does (.chartLineReturn f k.line) s (fun u =>
      u.mesh = s.mesh ++ [.fill w.eng k.line es true none] ∧ (u.stop f).walks = rest ∧ u.cht.faultCnt = s.cht.faultCnt ∧
      u.fab.accs = accs ∧ u.cores = s.cores)) ∧
    (s.waitFate w es = .bad → Does (.chartLineReturn f k.line) s (fun u =>
      u.mesh = s.mesh ++ [.halt w.eng (s.waitIndex w) 0x0803] ∧ (u.stop f).walks = rest)) ∧
    (∀ kind, s.waitFate w es = .fault kind → (s.part w.part).fringOn = false → Does (.chartLineReturn f k.line) s (fun u =>
      u.mesh = s.mesh ++ [.halt w.eng (s.waitIndex w) 0x0804] ∧ u.cht.faultCnt = sat32 s.cht.faultCnt 1)) ∧
    (∀ kind, s.waitFate w es = .fault kind → (s.part w.part).fringOn = true → (s.stop f).pend = [] →
      Does (.chartLineReturn f k.line) s (fun u => u.cht.faultCnt = sat32 s.cht.faultCnt 1 ∧
        (u.stop f).pend = [⟨s.waitIndex w, w.part, [w], !w.write, w.write, none, none⟩] ∧
        u.mesh = s.mesh ++ [.faultRec f ⟨w.part, kind, !w.write, w.write, 2 ^ w.eng.num, w, s.waitIndex w,
          es.getD (s.waitIndex w % 16) 0#32, s.tick⟩, .halt w.eng (s.waitIndex w) 0]))) ∧
  (∀ (s : State) (c : Fin 32) (line i : Nat) (es : List Word) (pkts : List Pkt),
    let e := Engine.core c
    (∀ rep, s.mesh = .fill e line es true rep :: pkts → s.arrives 0 = true → Does (.walkFillReply e) s (fun u =>
      (u.core c).mmu.cache = cacheFill (s.core c).mmu.cache 32 ⟨line, es⟩ ∧ (u.core c).tile = (s.core c).tile ∧
      ∀ l rest, (s.core c).str.slots = l :: rest → l.walking = some i → i / 16 = line → l.st = .halted →
        (u.slot c 0).st = (if rep = some i then .running else .halted))) ∧
    (∀ rep, s.mesh = .fill e line es false rep :: pkts → s.arrives 0 = true → Does (.walkFillReply e) s (fun u =>
      (u.core c).mmu.cache = (s.core c).mmu.cache ∧
      ∀ w ∈ (u.core c).mmu.walks, w.index / 16 = line → w.st = .toSend)) ∧
    (∀ st l rest, s.mesh = .halt e i st :: pkts → s.arrives 0 = true → (s.core c).str.slots = l :: rest → l.walking = some i → l.st = .running →
      (st = 0 → Does (.walkHaltReply e) s (fun u => (u.slot c 0).st = .halted ∧
        (u.slot c 0).pos5 = indices l.pos l.desc.counts ∧ (u.slot c 0).posIdx = l.idx ∧
        (u.core c).seq.stop = (s.core c).seq.stop)) ∧
      (st ≠ 0 → (s.core c).seq.stop = none → Does (.walkHaltReply e) s (fun u => (u.core c).seq.stop = some st))))

/-- The fault ring (R314 to R316). A record waits for the ring writer and is written as 64 B at the ring's tail when the ring is
enabled and has room; the pending faults of its index take its number. A replay write of 8 B sends a release to the stop that holds
the number, or counts as stale; a release re-reads the line, or with abort refuses the waiters with 0x0804. Enabling the ring clears
its counters, disabling it is ignored while the partition has a job; a head write frees space. -/
def Obligations.FaultRingRecordsAndReplays : Prop :=
  ∀ (s : State) (p : Fin 8) (f : Fin 2) (r : FaultRec) (pkts : List Pkt) (a : HostAcc), s.cht.stops.length = 2 →
    let q := s.part p
    (s.mesh = .faultRec f r :: pkts → s.arrives 0 = true → r.part = p.val → q.fringOn = true → Does (.faultRecordPacket f) s (fun u => u.mesh = pkts ∧
      (u.part p).fringWait = q.fringWait ++ [r] ∧ u.cores = s.cores)) ∧
    (∀ rest, q.fringWait = r :: rest → q.fringOn = true → ringFull q.fringK q.fringHead q.fringTail = false →
      s.inScrub p = false → Does (.faultRecordWrite p) s (fun u => (u.part p).fringWait = rest ∧
        (u.part p).fringTail = (q.fringTail + 1) % 2 ^ (q.fringK + 1) ∧ (u.part p).fringSeq = q.fringSeq + 1#32 ∧
        (u.part p).faultCnt = sat32 q.faultCnt 1 ∧
        (∀ x ∈ (u.stop f).pend, x.index = r.index → x.part = p.val → x.seq = some q.fringSeq) ∧
        Accesses s u (.faultRecord p) true false
          (fld 31 6 q.fringLo.toNat * 64 + fld 15 0 q.fringHi.toNat * 2 ^ 32 + 64 * (q.fringTail % 2 ^ q.fringK)) 64
          (r.bytes q.fringSeq (!q.fringTail.testBit q.fringK)))) ∧
    (p.val < s.cfg.parts → s.pagesOpen = true → a.full = true → s.admitsFull a.mid = true → a.size = 3#2 →
      ((∃ x ∈ (s.stop 0).pend, x.part = p.val ∧ x.seq = some (a.data.setWidth 32)) → Does (.chtReplay p a) s (fun u =>
        u.mesh = s.mesh ++ [.release 0 p (a.data.setWidth 32) (a.data.getLsbD 32)] ∧ u.parts = s.parts)) ∧
      ((∀ g : Fin 2, ∀ x ∈ (s.stop g).pend, ¬(x.part = p.val ∧ x.seq = some (a.data.setWidth 32))) →
        Does (.chtReplay p a) s (fun u => u.mesh = s.mesh ∧ (u.part p).staleCnt = sat32 q.staleCnt 1))) ∧
    (∀ seq x, s.mesh = .release f p seq false :: pkts → s.arrives 0 = true → (s.stop f).pend = [x] → x.part = p.val → x.seq = some seq →
      Does (.replayRelease f) s (fun u => u.mesh = pkts ∧ (u.stop f).pend = [{ x with replay := some s.fab.next }] ∧
        (u.stop f).walks = (s.stop f).walks ++ [⟨x.index / 16, true, [], [], s.fab.next⟩] ∧
        Accesses s u (.walk f (x.index / 16)) false (s.chartLine (x.index / 16)).2 (s.chartLine (x.index / 16)).1 64 [])) ∧
    (∀ seq x w, s.mesh = .release 0 p seq true :: pkts → s.arrives 0 = true → (s.stop 0).pend = [x] → (s.stop 1).pend = [] → x.part = p.val →
      x.seq = some seq → x.waiters = [w] → Does (.replayRelease 0) s (fun u => (u.stop 0).pend = [] ∧
        u.mesh = pkts ++ [.halt w.eng x.index 0x0804])) ∧
    (∀ v, p.val < s.cfg.parts → TakesFull s a v →
      (v.testBit 5 = true → q.fringCfg.getLsbD 5 = false → Does (.faultRingCfgWrite p a) s (fun u =>
        (u.part p).fringCfg = BitVec.ofNat 32 (v % 64) ∧ (u.part p).fringTail = 0 ∧ (u.part p).fringHead = 0 ∧
        (u.part p).fringSeq = 0)) ∧
      (v.testBit 5 = false → q.fringCfg.getLsbD 5 = true → s.hasJob p = true →
        Does (.faultRingCfgWrite p a) s (fun u => u = s)) ∧
      Does (.faultRingHeadWrite p a) s (fun u => (u.part p).fringHead = v % 2 ^ 13 ∧ u.cores = s.cores ∧
        ∀ d : Fin 8, d ≠ p → u.part d = s.part d))

/-- Chart edits, reads, page moves and invalidations (R318, R319). A go reads the lines of its range, or marks the range refused
when it runs past the Chart; a second go while one runs sets the overrun flag. A completed edit or move sets done. A move go starts
the page's copy with 32 reads. An invalidation go sends its range to every engine, which drops the lines it holds and reloads its
segments, and completes when the last engine acknowledges. -/
def Obligations.ChartCommandsEditMoveAndInvalidate : Prop :=
  ∀ (s : State) (a : HostAcc) (v : Nat),
    (TakesFull s a v → v.testBit 31 = true → s.cht.edit = none →
      (v.testBit 17 = false →
        (2 ^ s.cfg.chartLog < s.cht.editIndex + (fld 15 0 v + 1) → Does (.chartEdit a) s (fun u =>
          (∃ e, u.cht.edit = some e ∧ e.refused = true ∧ e.wrote = true) ∧ u.fab = s.fab)) ∧
        (s.cht.editIndex + (fld 15 0 v + 1) ≤ 2 ^ s.cfg.chartLog → Does (.chartEdit a) s (fun u =>
          u.cht.edit = some ⟨s.cht.editIndex, s.cht.editValue, fld 15 0 v + 1, v.testBit 16, false, [],
            (s.cht.editIndex + fld 15 0 v) / 16 + 1 - s.cht.editIndex / 16, false, false⟩ ∧
          Accesses s u (.edit (s.cht.editIndex / 16)) false (s.chartLine (s.cht.editIndex / 16)).2
            (s.chartLine (s.cht.editIndex / 16)).1 64 []))) ∧
      (v.testBit 17 = true → s.cht.editIndex < 2 ^ s.cfg.chartLog → Does (.chartRead a) s (fun u =>
        u.cht.edit = some ⟨s.cht.editIndex, s.cht.editValue, 1, v.testBit 16, true, [], 1, false, false⟩ ∧
        Accesses s u (.edit (s.cht.editIndex / 16)) false (s.chartLine (s.cht.editIndex / 16)).2
          (s.chartLine (s.cht.editIndex / 16)).1 64 []))) ∧
    (TakesFull s a v → v.testBit 31 = true → s.cht.edit.isSome = true → Does (if v.testBit 17 then .chartRead a else .chartEdit a) s
      (fun u => u = s.modCht (fun c => { c with editOver := true }))) ∧
    (∀ e, s.cht.edit = some e → e.wrote = true → (∀ x ∈ s.fab.accs, x.owner.isEdit = true → x.done = true) →
      Does .chartEditDone s (fun u => u.cht.edit = none ∧ u.cht.editDone = true ∧
        u.cht.editRefused = (s.cht.editRefused || e.refused) ∧ ∀ x ∈ u.fab.accs, x.owner.isEdit = false)) ∧
    (TakesFull s a v → v.testBit 31 = true → s.cht.move = none → Does (.pageMove a) s (fun u =>
      u.cht.move = some ⟨s.cht.moveHome, fld 19 0 v, v.testBit 20, 32, 0⟩ ∧ u.fab.next = s.fab.next + 32)) ∧
    (∀ m, s.cht.move = some m → 64 ≤ m.acked → Does .pageMoveDone s (fun u =>
      u = (s.modCht (fun c => { c with move := none, moveDone := true })).mark 4 0x54 2)) ∧
    (TakesFull s a v → v.testBit 0 = true →
      let n := (s.cht.invFirst, s.cht.invCount + 1, s.cht.invSegs % 65536, fld 18 16 s.cht.invSegs)
      (s.cht.inv = none → Does (.invalidation a) s (fun u =>
        u.cht.inv = some ⟨n.1, n.2.1, n.2.2.1, n.2.2.2, s.engines, [], []⟩)) ∧
      (s.cht.inv.isSome = true → s.cht.invQueue.length < 4 → Does (.invalidation a) s (fun u =>
        u = s.modCht (fun c => { c with invQueue := c.invQueue ++ [n] }))) ∧
      (s.cht.inv.isSome = true → 4 ≤ s.cht.invQueue.length → Does (.invalidation a) s (fun u =>
        u = s.modCht (fun c => { c with invOver := true })))) ∧
    (∀ (c : Fin 32) (i : Inval), s.cht.inv = some i → Engine.core c ∈ i.reach → Does (.invalidationReachEngine (.core c)) s
      (fun u => (∀ l ∈ (u.core c).mmu.cache, ¬(i.first < 16 * l.line + 16 ∧ 16 * l.line < i.first + i.count)) ∧
        (s.partOf c = i.part → (u.core c).mmu.segs = reloadSegs i.segs (s.part i.part).segs (s.core c).mmu.segs) ∧
        (u.core c).tile = (s.core c).tile ∧ ∃ j, u.cht.inv = some j ∧ j.reach = i.reach.erase (.core c) ∧
          j.acks = i.acks ++ [(.core c, s.engAccs (.core c))])) ∧
    (∀ (e : Engine) (i : Inval) (l : List Nat), s.cht.inv = some i → i.reach = [] → i.acks = [(e.unit, l)] →
      (∀ x ∈ s.fab.accs, x.no ∈ l → x.past = true) → (∀ r ∈ s.engReqs e.unit, r ∉ i.reqs) → s.cht.invQueue = [] → Does (.invalidationAck e) s (fun u =>
        u.cht.inv = none ∧ u.cht.invDone = true ∧ u.fab = s.fab))

/-! ## Jobs (R34 to R54, R225 to R230, R333 to R357) -/

/-- A doorbell of 8 B that the port takes and that names a legal, enabled ring (R341): reserved bits clear, no scrub, not in watch
mode. -/
abbrev Rings (s : State) (p : Fin 8) (r : Fin 8) (a : HostAcc) : Prop :=
  p.val < s.cfg.parts ∧ s.portOpen = true ∧ s.ready = true ∧ s.ctlAdmits p a = true ∧ a.size = 3#2 ∧ s.inScrub p = false ∧
    s.grid.watch ≠ .watch ∧ fld 15 3 a.data.toNat = 0 ∧ fld 2 0 a.data.toNat = r.val ∧ (s.part p).rings.length = 8

/-- A doorbell updates its ring and appends a dispatch entry when it has none (R35, R341), or for a hot ring of its generation is a
pending run (R45); one that is no 8 B write is dropped and counted (R342). Dispatch takes the first entry that can be served and
fetches its ring's next 128 B descriptor (R36). A current descriptor is refused with its status or becomes a job, whose first read's
segment is checked and Chart line read (R337); one that is not current is read again 1 µs on (R343, R344). -/
def Obligations.DoorbellsAreQueuedAndDispatched : Prop :=
  ∀ (s : State) (p r : Fin 8) (a : HostAcc),
    let q := s.ring p r
    let tail : Word := BitVec.ofNat 32 (fld 63 32 a.data.toNat)
    let gen : Half := BitVec.ofNat 16 (fld 31 16 a.data.toNat)
    (Rings s p r a → q.hot = false → q.on = true → (tail - q.head).toNat ≤ 2 ^ q.k → (s.part p).cringOn = true →
      tail ≠ q.tail → (∀ e ∈ s.grid.disp, ¬(e.part = p.val ∧ e.ring = r.val)) → Does (.doorbell p a) s (fun u =>
        u.ring p r = { q with gen := gen, tail := tail, bells := q.bells ++ [(tail, s.tick, s.grid.seq)] } ∧ u.grid.seq = s.grid.seq + 1 ∧
        u.grid.disp = s.grid.disp ++ [⟨p, r, s.tick, s.grid.seq, false⟩] ∧ u.cores = s.cores ∧ u.fab = s.fab)) ∧
    (Rings s p r a → q.hot = true → q.unpin = false → q.pinnedGen = gen → s.runStopped p r = false → q.pendingRuns.length < 15 →
      Does (.doorbell p a) s (fun u =>
        u.ring p r = { q with pendingRuns := q.pendingRuns ++ [(tail, s.tick, s.grid.seq)] } ∧ u.grid.disp = s.grid.disp)) ∧
    (p.val < s.cfg.parts → s.portOpen = true → s.ctlAdmits p a = true → a.size ≠ 3#2 → Does (.doorbell p a) s (fun u =>
      u = s.dropBell p ∧ (u.part p).bellDrops = min 65535 ((s.part p).bellDrops + 1))) ∧
    (s.dutyOk 0 = true → s.fetchesOut < 4 → ∀ e rest, s.grid.disp = e :: rest → e.part = p.val → e.ring = r.val →
      e.held = false → s.mayDispatch p = true → s.barred p = false → s.ringFetches p r = [] → q.head ≠ q.tail → q.on = true →
      Does .dispatchTake s (fun u => u.grid.fetches = s.grid.fetches ++ [⟨p, r, q.head, (q.bellOf q.head (e.tick, e.seq)).1,
          (q.bellOf q.head (e.tick, e.seq)).2, 0, false, 0⟩] ∧
        u.grid.disp = (if q.head + 1#32 = q.tail then rest else rest ++ [e]) ∧ u.dispatching = true ∧
        Accesses s u (.desc p r q.head) false false (q.base + 128 * (q.head.toNat % 2 ^ q.k)) 128 [])) ∧
    (∀ f, s.dutyOk 0 = true → s.grid.fetches = [f] → f.part = p.val → f.ring = r.val → s.barred p = false →
      (s.part p).enable = true → s.openJob = none → s.accsDone (.desc p r f.pos) = true → (s.part p).rings.length = 8 →
      let d := s.accsData (.desc p r f.pos)
      let stamp : Half := BitVec.ofNat 16 (leAt d 0 2)
      (∀ st, descCurrent stamp q.gen q.stamp q.head q.tail = true → s.descStatus p r d = some st → st < 65536 →
        Does (.descriptorFetchReturn p r) s (fun u => (u.ring p r).head = q.head + 1#32 ∧ (u.ring p r).stamp = stamp ∧
          u.grid.fetches = [] ∧ u.grid.jobs = s.grid.jobs ∧
          ∃ x ∈ u.grid.records, x.part = p.val ∧ x.ring = r.val ∧ x.job = false ∧ leAt x.bytes 2 2 = st)) ∧
      (descCurrent stamp q.gen q.stamp q.head q.tail = true → s.descStatus p r d = none →
        let one := (leAt d 2 2).testBit 3
        let ea := leAt d 8 6
        let len := if one then 128 else 8 * ((List.range 32).filter (fun c => (leAt d 4 4).testBit c)).length
        let g := segAt (s.part p).segs ea
        (segStatus s.cfg.chartLog g (eaOff ea : Nat) ((eaOff ea + len : Nat) - 1) = none → g.remote = false →
          Does (.descriptorFetchReturn p r) s (fun u => (∃ j, u.grid.jobs = s.grid.jobs ++ [j] ∧ j.part = p.val ∧
            j.ring = r.val ∧ j.desc = d ∧ j.stamp = stamp ∧ j.status = 0 ∧ j.phase = (if one then .headers else .table) ∧
            j.bell = f.tick) ∧ u.cores = s.cores ∧
            let line := s.chartLine ((g.chartBase + eaOff ea / 65536) / 16)
            Accesses s u (.entries p r) false line.2 line.1 64 [])) ∧
        (∀ st, segStatus s.cfg.chartLog g (eaOff ea : Nat) ((eaOff ea + len : Nat) - 1) = some st → st < 65536 →
          Does (.descriptorFetchReturn p r) s (fun u => u.grid.jobs = s.grid.jobs ∧ (u.ring p r).head = q.head + 1#32 ∧
            ∃ x ∈ u.grid.records, x.part = p.val ∧ x.ring = r.val ∧ leAt x.bytes 2 2 = st))) ∧
      (descCurrent stamp q.gen q.stamp q.head q.tail = false → f.tries < 64 → Does (.descriptorFetchReturn p r) s (fun u =>
        u.grid.fetches = [{ f with retrying := true, nextTry := if f.retrying then f.nextTry + 100 else s.tick + 100 }] ∧
        u.grid.jobs = s.grid.jobs ∧ (u.ring p r).head = q.head))) ∧
    (∀ f, s.dutyOk 0 = true → s.grid.fetches = [f] → f.part = p.val → f.ring = r.val → f.retrying = true → f.nextTry ≤ s.tick →
      s.fetchesOut < 4 → s.accsOf (.desc p r f.pos) = [] → Does (.descriptorReread p r) s (fun u =>
        u.grid.fetches = [{ f with tries := f.tries + 1 }] ∧
        Accesses s u (.desc p r f.pos) false false (q.base + 128 * (f.pos.toNat % 2 ^ q.k)) 128 []))

/-- The Chart lines that a Binnacle read brought for its pages, from the line of a Chart index on. -/
def binLines (i : Nat) (bs : List Byte) : List CacheLine :=
  (chunks 64 (bs.length / 64) bs).mapIdx (fun k b =>
    ⟨i / 16 + k, (chunks 4 16 b).map (fun e => BitVec.ofNat 32 (ofLe e))⟩)

/-- Images are read and loaded, cores start, notices come in, records are written (R37 to R43, R225 to R227, R337, R353). The
Chart entries that a Binnacle read needs let it go out, or refuse the job with 0x0803 or 0x0905; the image table gives the images'
addresses. A core's load requests its next part's bytes; when all are in, the image is written to tile memory section by
section, and a wrong digest ends the job with 0x030B; the last load injects one start packet per core. The last notice, or the last stopped core whose writes are all acknowledged, closes the job's record (R87); after its
acknowledgement the cores of a job that is not pinned are released. -/
def Obligations.JobsLoadStartAndComplete : Prop :=
  ∀ (s : State) (p r : Fin 8) (j : Job), s.dutyOk 0 = true → s.grid.jobs = [j] → j.part = p.val → j.ring = r.val →
    let n := j.coreList.length
    (j.phase = .table → s.barred p = false → (s.part p).enable = true →
      let b := s.binBrought p r
      let ea := leAt j.desc 8 6
      let g := segAt (s.part p).segs ea
      let pages := (List.range ((eaOff ea + 8 * n - 1) / 65536 + 1 - eaOff ea / 65536)).map (eaOff ea / 65536 + ·)
      let entry := fun pg => (cacheLook (binLines (g.chartBase + eaOff ea / 65536)
        (s.accsData (.entries p r))) (g.chartBase + pg)).getD 0#32
      (g.remote = false → s.accsDone (.entries p r) = true → s.fab.rem = [] →
        ((∃ pg ∈ pages, s.entryFate p g pg (entry pg) = .bad) → Does (.imageHeaderReturn p r b.1 b.2) s (fun u => u.grid.jobs = [] ∧
          ∃ x ∈ u.grid.records, x.part = p.val ∧ x.ring = r.val ∧ leAt x.bytes 2 2 = 0x0803)) ∧
        (∀ pg k, pages = [pg] → s.entryFate p g pg (entry pg) = .fault k → Does (.imageHeaderReturn p r b.1 b.2) s (fun u =>
          u.grid.jobs = [] ∧ ∃ x ∈ u.grid.records, x.part = p.val ∧ x.ring = r.val ∧ leAt x.bytes 2 2 = 0x0905)) ∧
        (∀ pg x coh, pages = [pg] → s.entryFate p g pg (entry pg) = .usable (.sys x coh) → 1 ≤ n →
          Does (.imageHeaderReturn p r b.1 b.2) s (fun u => u.grid.jobs = [j] ∧ u.cores = s.cores ∧
            Accesses s u (.table p r) false false (x + ea % 65536) (min (8 * n) (1024 - ea % 1024)) []))) ∧
      (s.ownerIdle (.entries p r) = true → s.ownerIdle (.table p r) = false → s.ownerDone (.table p r) = true →
        let addrs := (List.range n).map (fun i => leAt (s.ownerTake (.table p r)).1 (8 * i) 6)
        let a := addrs.getD j.images.length 0
        let h := segAt (s.part p).segs a
        j.got = [] → h.remote = false → segStatus s.cfg.chartLog h (eaOff a : Nat) ((eaOff a + 128 : Nat) - 1) = none →
        Does (.imageHeaderReturn p r b.1 b.2) s (fun u => u.grid.jobs = [{ j with phase := .headers, addrs := addrs }] ∧
          u.cores = s.cores ∧
          let line := s.chartLine ((h.chartBase + eaOff a / 65536) / 16)
          Accesses s u (.entries p r) false line.2 line.1 64 []))) ∧
    (∀ (c : Fin 32) (i : ImageInfo), j.has c = true → j.phase = .loading → j.loads = [c.val] →
      j.images.find? (fun x => x.core = c.val) = some i → i.resident = false →
      (∀ x ∈ (s.core c).str.loads, x.len ≤ x.pos) → s.ownerDone (.image p r c) = true →
      let data := (s.ownerTake (.image p r c)).1
      let ok := sha384 (slice i.header 0 64 ++ i.table ++ data) = slice i.header 0x40 48
      (ok → Does (.imageLoadDone c data) s (fun u => (u.core c).tile = loadSections (s.core c).tile i.sects data ∧
        (u.core c).img.valid = true ∧ (u.core c).img.sections = i.sects ∧ (u.core c).img.entry = leAt i.header 0x18 4 ∧
        u.mesh = s.mesh.filter (fun k => !k.ofRun j.coreList) ++
          j.coreList.map (fun d => .start d false) ∧ ∃ k, u.grid.jobs = [k] ∧ k.phase = .running ∧ k.loads = [])) ∧
      (¬ok → Does (.imageLoadDone c data) s (fun u => (u.core c).img.valid = false ∧ u.mesh = s.mesh ∧
        ∃ k, u.grid.jobs = [k] ∧ k.phase = .record ∧ k.status = 0x030B))) ∧
    (∀ (c : Fin 32) (pkts : List Pkt) (note : Bool), j.has c = true → j.phase = .running → c.val ∉ j.notices →
      (if note then s.mesh = .notice c :: pkts ∧ s.arrives 0 = true
        else s.mesh = pkts ∧ pkts.all (fun k => decide (k ≠ .notice c)) = true ∧ s.writesDone c = true ∧
          ((s.core c).seq.stop.isSome = true ∨ (s.core c).seq.halted = true)) →
      let flags := if note then j.numflags else j.numflags ||| (s.core c).fl.toWord.toNat
      ((∃ d ∈ j.coreList, d ≠ c.val ∧ d ∉ j.notices) → Does (.completionNotice c) s (fun u => u.mesh = pkts ∧
        u.grid.jobs = [{ j with notices := c :: j.notices, numflags := flags }] ∧ u.cores = s.cores)) ∧
      ((∀ d ∈ j.coreList, d = c.val ∨ d ∈ j.notices) → j.silent = false → Does (.completionNotice c) s (fun u =>
        u.mesh = pkts ∧ ∃ k, u.grid.jobs = [k] ∧ k.phase = .record ∧ k.numflags = flags ∧ k.status = j.status ∧
          ∃ x ∈ u.grid.records, x.part = p.val ∧ x.ring = r.val ∧ x.job = true ∧ leAt x.bytes 0xC 4 = flags % 2 ^ 32))) ∧
    (∀ (x : Record) (y : FabAcc) (rest : List FabAcc), s.grid.records = [x] → x.part = p.val → x.ring = r.val → x.job = true →
      x.irq = false → x.issued = some y.no → s.fab.accs = y :: rest → x.acked.isSome = true → (∀ z ∈ rest, z.no ≠ y.no) →
      j.phase = .record → x.ends j = true → j.pin = false → p.val ≠ s.grid.watchPart → s.pwr.logCfg.getLsbD 4 = false →
      Does (.completionRecordAck p) s (fun u => u.grid.records = [] ∧ u.grid.jobs = [] ∧ u.fab.accs = rest ∧
        (∀ c ∈ j.coreList, (u.core c).seq.started = false ∧ (u.core c).seq.running = none) ∧
        (u.part p).missCnt = (s.part p).missCnt))

/-- Hot runs and interrupts (R44 to R48, R347 to R349, R354, R355). A parked job's next pending run starts its cores at the hot
entry once earlier window writes have retired. An unpin of a parked ring with no run pending ends the pin at once with a record, one of
a busy ring waits, one of a ring that is not hot is counted as a dropped doorbell. An acknowledged message lets one deferred event
send one more. -/
def Obligations.HotRunsUnpinsAndMessages : Prop :=
  ∀ (s : State) (p r : Fin 8) (j : Job), s.grid.jobs = [j] → j.part = p.val → j.ring = r.val → j.pin = true →
    (s.part p).rings.length = 8 →
    let q := s.ring p r
    (∀ inv bell seq rest, q.pendingRuns = (inv, bell, seq) :: rest → j.phase = .parked → j.lost = false → q.hot = true →
      s.winsRetired p seq = true → s.barred p = false → Does (.hotRunStart p r) s (fun u =>
        (u.ring p r).pendingRuns = rest ∧ u.mesh = s.mesh.filter (fun k => !k.ofRun j.coreList) ++
          j.coreList.map (fun d => .start d true) ∧
        (∀ d : Fin 32, u.core d = if j.has d then { s.core d with msg := MsgUnit.reset } else s.core d) ∧
        ∃ k, u.grid.jobs = [k] ∧ k.phase = .running ∧ k.kind = 1 ∧ k.pos = inv ∧ k.bell = bell ∧ k.status = 0)) ∧
    (∀ (a : HostAcc) (v : Nat), TakesCtl s p a v → p.val < s.cfg.parts → fld 2 0 v = r.val →
      (q.hot = true → j.phase = .parked → q.pendingRuns = [] → Does (.hstUnpin p a) s (fun u => (u.ring p r).hot = false ∧
        u.grid.jobs = [] ∧ ∃ x ∈ u.grid.records, x.kind = 2 ∧ x.part = p.val ∧ x.ring = r.val)) ∧
      (q.hot = true → (j.phase ≠ .parked ∨ q.pendingRuns ≠ []) → Does (.hstUnpin p a) s (fun u =>
        u.ring p r = { q with unpin := true } ∧ u.grid = s.grid)) ∧
      (q.hot = false → Does (.hstUnpin p a) s (fun u => u = s.dropBell p))) ∧
    (∀ v : Fin 4, s.accsDone (.message p v) = true → (s.part p).msi.length = 4 →
      let m := (s.part p).msi.getD v Msi.reset
      (m.deferred = false → Does (.interruptMessageAck (.part p v)) s (fun u =>
        (u.part p).msi.getD v Msi.reset = { m with outstanding := false } ∧ u.accsOf (.message p v) = [])) ∧
      (m.deferred = true → m.enable = true → s.inScrub p = false → Does (.interruptMessageAck (.part p v)) s (fun u =>
        (u.part p).msi.getD v Msi.reset = { m with outstanding := true, deferred := false } ∧
        Accesses s u (.message p v) true false m.target 4 (toLe 4 m.data.toNat))))

/-! ## Host accesses (R326 to R332, R535 to R542) -/

/-- Host register writes (R330, R335, R350, R383, R387, R542). A ring's configuration sets enable with its stamp and clears its
positions, and while the ring is enabled is ignored but for clearing enable; so with the completion ring, whose enable a busy partition
keeps; its head moves only within its tail and lets waiting records out; HST_WIN_BASE keeps 11 bits. A plain register keeps the bits
its access code gives it; one of an enabled ring or partition is ignored. A refused write to a partition's page is counted, with no
other effect (R331). -/
def Obligations.HostRegisterWritesTakeEffect : Prop :=
  ∀ (s : State) (p r : Fin 8) (a : HostAcc) (v : Nat), p.val < s.cfg.parts → (s.part p).rings.length = 8 →
    let q := s.part p
    let k := s.ring p r
    (TakesFull s a v →
      (k.cfg.getLsbD 4 = false → v.testBit 4 = true → Does (.hstRingCfgWrite p r a) s (fun u => u.ring p r = { k with
        cfg := BitVec.ofNat 32 (v - v % 65536 + v % 32), head := 0, tail := 0, bells := [], stamp := BitVec.ofNat 16 (v / 65536) })) ∧
      (k.cfg.getLsbD 4 = true → v.testBit 4 = true → Does (.hstRingCfgWrite p r a) s (fun u => u = s)) ∧
      (k.cfg.getLsbD 4 = true → v.testBit 4 = false → Does (.hstRingCfgWrite p r a) s (fun u =>
        (u.ring p r).cfg = k.cfg &&& ~~~0x10#32 ∧ (u.ring p r).head = k.head)) ∧
      (q.cringCfg.getLsbD 4 = true → v.testBit 4 = false → s.partBusy p = true →
        Does (.hstCringCfgWrite p a) s (fun u => u = s)) ∧
      (q.cringCfg.getLsbD 4 = false → v.testBit 4 = true → s.grid.records = [] → Does (.hstCringCfgWrite p a) s (fun u =>
        u.part p = { q with cringCfg := BitVec.ofNat 32 (v % 32), cringTail := 0, cringHead := 0 } ∧ u.cores = s.cores))) ∧
    (TakesCtl s p a v →
      Does (.hstWinBaseWrite p a) s (fun u => u.part p = { q with winStep := v % 2 ^ 11 } ∧ u.cores = s.cores ∧
        ∀ d : Fin 8, d ≠ p → u.part d = s.part d) ∧
      (let m := 2 ^ (q.cringK + 1);
       let h := v % 2 ^ 13;
       s.grid.records = [] → h < m →
        ((h + m - q.cringHead % m) % m ≤ (q.cringTail + m - q.cringHead % m) % m → Does (.hstCringHeadWrite p a) s (fun u =>
          u.part p = { q with cringHead := h })) ∧
        ((q.cringTail + m - q.cringHead % m) % m < (h + m - q.cringHead % m) % m →
          Does (.hstCringHeadWrite p a) s (fun u => u = s)))) ∧
    (∀ (mid : BitVec 8) (d : DWord) (addr : BitVec 28), s.pagesOpen = true →
      let v := d.toNat % 2 ^ 32
      (s.admitsFull mid = true →
        (addr.toNat = 0x6004024 → Does (.registerWrite mid addr 2#2 d) s (fun u =>
          u = s.modCht (fun c => { c with editValue := BitVec.ofNat 32 v }))) ∧
        (addr.toNat = 0x6010004 + 4096 * p.val → Does (.registerWrite mid addr 2#2 d) s (fun u =>
          u.part p = (if q.enable then q else { q with cores := BitVec.ofNat 32 v }) ∧ u.cores = s.cores)) ∧
        (addr.toNat = 0x6010600 + 4096 * p.val + 16 * r.val → Does (.registerWrite mid addr 2#2 d) s (fun u =>
          u.ring p r = (if k.cfg.getLsbD 4 then k else { k with baseLo := BitVec.ofNat 32 (v &&& 0xFFFFFF80) })))) ∧
      (s.admitsFull mid = false → addr.toNat = 0x6010004 + 4096 * p.val →
        Does (.registerWrite mid addr 2#2 d) s (fun u => u = s.dropWin p)))

/-- Host accesses to on-chip memory and reads with an effect (R13, R331, R394, R329, R410, R440, R452, R474, R525, R538, R540). An aligned,
admitted write waits in arrival order, or is dropped and counted in a reset or scrub of its partition; it reaches its bank or slice when
that is granted to it, the oldest of its partition first, and is dropped and counted where its unit is sealed. A read returns the little-endian bytes after earlier writes to its word. A read of THM_MAX clears
it; reads of a low word latch the high word. -/
def Obligations.HostAccessesReachMemoryAndRegisters : Prop :=
  ∀ (s : State) (mid : BitVec 8) (addr : BitVec 28) (sz : BitVec 2) (data : DWord) (pl : Place) (p : Option Nat),
    let n := 2 ^ sz.toNat
    let put := fun (u : State) => match pl with
      | .tile c a => (u.core c).tile = (s.core c).tile.write a (toLe n data.toNat) ∧ u.store = s.store
      | .store a => u.store = s.store.write a (toLe n data.toNat) ∧ u.cores = s.cores
      | _ => u.cores = s.cores ∧ u.store = s.store
    (s.target addr.toNat = .mem p pl → addr.toNat % n = 0 → s.portServes addr.toNat = true → s.admits mid addr.toNat = true →
      (s.portOpen = true → s.shut p = false → Does (.windowWrite mid addr sz data) s (fun u =>
        u.grid.wins = s.grid.wins ++ [⟨s.grid.seq, p, pl, toLe n data.toNat⟩] ∧ u.grid.seq = s.grid.seq + 1 ∧
        u.cores = s.cores ∧ u.store = s.store)) ∧
      (s.portOpen = true → s.shut p = true → Does (.windowWrite mid addr sz data) s (fun u => u = s.dropAddr addr.toNat)) ∧
      (s.pw.preparing = false → s.pw.ack = false → s.grid.wins = [] → s.shut p = false →
        (s.sealedAt pl = false → Does (.windowRead mid addr sz) s (fun u =>
          u = { s with reads := s.reads ++ [BitVec.ofNat 64 (s.readPlace pl n)] })) ∧
        (s.sealedAt pl = true → Does (.windowRead mid addr sz) s (fun u => u.reads = s.reads ++ [0] ∧ u.store = s.store)))) ∧
    (∀ (seq : Nat) (rest : List WinWrite), s.grid.wins = ⟨seq, p, pl, toLe n data.toNat⟩ :: rest →
      (∀ c a, pl = .tile c a → c < 32 ∧ s.bankWaits c .window = false) →
      (∀ a, pl = .store a → s.sliceWaits ctlStop (a / 2 ^ 21, a % 2 ^ 21 / 65536) = false) → s.shut p = false →
      (s.sealedAt pl = false → Does (.windowWriteRetire 0) s (fun u => u.grid.wins = rest ∧ put u)) ∧
      (s.sealedAt pl = true → Does (.windowWriteRetire 0) s (fun u => u.grid.wins = rest ∧ u.cores = s.cores ∧
        u.store = s.store))) ∧
    (∀ (seq : Nat) (rest : List WinWrite) (c a : Nat), s.grid.wins = ⟨seq, p, .tile c a, toLe n data.toNat⟩ :: rest →
      s.bankWaits c .window = true → Does (.windowWriteRetire 0) s (fun u => u = s)) ∧
    (∀ (seq : Nat) (rest : List WinWrite) (a : Nat), s.grid.wins = ⟨seq, p, .store a, toLe n data.toNat⟩ :: rest →
      s.sliceWaits ctlStop (a / 2 ^ 21, a % 2 ^ 21 / 65536) = true → Does (.windowWriteRetire 0) s (fun u => u = s)) ∧
    (∀ (a : HostAcc) (d : Fin 8) (i : Fin 4), s.ready = true → s.pw.preparing = false → s.pw.ack = false → a.full = true →
      s.admitsFull a.mid = true → a.size = 2#2 → d.val < s.cfg.parts →
      Does (.thmMaxRead a) s (fun u => u.reads = s.reads ++ [BitVec.ofNat 64 (narrow 16 (s.pwr.thmOld.getD s.pwr.thmMax))] ∧
        u.pwr = { s.pwr with thmMax := if s.pwr.thmOld.isSome then s.pwr.thmNow else -32768, thmOld := none }) ∧
      Does (.glbTickLoRead a) s (fun u => u.reads = s.reads ++ [BitVec.ofNat 64 (s.tick % 2 ^ 32)] ∧
        u.clk = { s.clk with latch := BitVec.ofNat 32 (s.tick / 2 ^ 32) }) ∧
      Does (.prtCoreTicksLoRead d a) s (fun u => u.reads = s.reads ++ [BitVec.ofNat 64 ((s.part d).coreTicks % 2 ^ 32)] ∧
        u.part d = { s.part d with ticksLatch := BitVec.ofNat 32 ((s.part d).coreTicks / 2 ^ 32) }) ∧
      Does (.energyLoRead i a) s (fun u => u.reads = s.reads ++ [BitVec.ofNat 64 (s.pwr.energyNj i % 2 ^ 32)] ∧
        u.pwr = { s.pwr with eLatch := setAt s.pwr.eLatch i (BitVec.ofNat 32 (s.pwr.energyNj i / 2 ^ 32)) }))

/-! ## Partitions and watch mode (R385 to R410) -/

/-- Enable is granted when the partition's make-up is valid and otherwise sets cfg_err (R388); a reset written to PRT_CTRL starts a
reset of the partition (R450); a share commit takes effect when each resource sums to 1,024 and otherwise sets the error (R391); the
close of a report window latches its figures (R405); watch mode is entered when its conditions hold and otherwise refused, clears the
other cores' memories when entry completes, and is left through a wake (R406, R407, R409). -/
def Obligations.PartitionsAreEnabledSharedAndWatched : Prop :=
  ∀ (s : State) (p : Fin 8) (a : HostAcc) (v : Nat),
    let q := s.part p
    (TakesFull s a v → p.val < s.cfg.parts →
      (v.testBit 0 = true → v.testBit 1 = false → q.enable = false →
        (s.makeUpOk p = true → Does (.partitionEnable p a) s (fun u => u.part p = { q with enable := true, floor := fld 14 8 v } ∧
          u.cores = s.cores ∧ ∀ d : Fin 8, d ≠ p → u.part d = s.part d)) ∧
        (s.makeUpOk p = false → Does (.partitionEnable p a) s (fun u =>
          u.part p = { q with cfgErr := true, floor := fld 14 8 v } ∧ u.cores = s.cores))) ∧
      (v.testBit 0 = true → v.testBit 1 = true → q.enable = true → s.inReset p = false →
        Does (.partitionResetRequest p a) s (fun u => u.inReset p = true ∧ u.flt.resets = s.flt.resets ++ [⟨p, true, false, [], []⟩] ∧
          u.flt.resetCnt = sat32 s.flt.resetCnt 1 ∧ ∀ c ∈ q.coreList, (u.core c).seq.halted = true))) ∧
    (TakesFull s a v →
      (s.sharesSum = true → Does (.prtShareCommit a) s (fun u => (∀ d : Fin 8, u.part d = { s.part d with share := (s.part d).stage }) ∧
        u.cores = s.cores)) ∧
      (s.sharesSum = false → Does (.prtShareCommit a) s (fun u => u = s.modGrid (fun g => { g with shareErr := true }))) ∧
      (v.testBit 8 = true → v.testBit 9 = false →
        (s.watchOk (fld 2 0 v) = true → Does (.watchEnter a) s (fun u => u.grid = { s.grid with
          watchSel := fld 2 0 v, watch := .entering, watchIn := fld 2 0 v } ∧ u.cores = s.cores)) ∧
        (s.watchOk (fld 2 0 v) = false → Does (.watchEnter a) s (fun u =>
          u.grid = { s.grid with watchSel := fld 2 0 v, watchRefused := true } ∧ u.cores = s.cores))) ∧
      (v.testBit 8 = false → v.testBit 9 = true → s.grid.watch = .watch → Does (.watchExit a) s (fun u =>
        u.grid = { s.grid with watchSel := fld 2 0 v, watch := .waking } ∧ u.cores = s.cores))) ∧
    (∀ k : Nat, s.tick / 100000 = s.grid.windows + 1 + k → s.grid.reportDue = false →
      (s.grid.reportMsg = true → ∀ d : Fin 8, (s.part d).slowNow.1 ≤ 1024) →
      Does .reportWindowClose s (fun u => u.grid.windows = s.tick / 100000 ∧
      ∀ d : Fin 8, u.part d = { s.part d with
        slow := if k = 0 then (s.part d).slowNow else (0, 0), slowNow := (0, 0)
        wait := if k = 0 then (s.part d).waitNow else [0, 0, 0, 0], waitNow := [0, 0, 0, 0]
        reportSeq := sat32 (s.part d).reportSeq (1 + k) })) ∧
    (s.grid.watch = .entering → Does .watchEntryComplete s (fun u => u.grid.watch = .watch ∧ u.clk.sub = s.clk.sub / 4 ∧ ∀ c : Fin 32,
      (u.core c).tile = (if (s.part s.grid.watchIn).cores.getLsbD c then (s.core c).tile else []))) ∧
    (s.grid.watch = .waking → Does .wakeComplete s (fun u =>
      u = { s.modGrid (fun g => { g with watch := .normal }) with clk := { s.clk with sub := s.clk.sub * 4 } }))

/-! ## Power and heat (R411 to R441) -/

/-- The controller's intervals, measurements and trips. The close of a 2 µs interval takes the cap written before it and moves each
core's limit by at most 16, a fall under the ceiling term excepted (R419, R424); the close of 1 ms sets k to 4096 unless power is
measured (R418). A current sample adds its charge; 100 µs without one lose telemetry (R418). A reading of 118 °C trips: every core is
throttled until the trip is acknowledged and every reading is below 105 °C, limits then at most 16 (R437, R438); a sensor silent for
1 ms counts as such a reading (R531). -/
def Obligations.PowerIntervalsAndTripsSetLimits : Prop :=
  ∀ (s : State) (acts : List Activity) (other : Activity) (itk : Nat) (rail : Fin 4) (data : Half) (sensor : Fin 64) (a : HostAcc)
    (v : Nat),
    let p := s.pwr
    (200 * (p.closed + 1) ≤ s.tick → s.dutyOk 2 = true → Does (.powerIntervalClose acts other itk) s (fun u =>
      u.pwr.closed = p.closed + 1 ∧ u.pwr.cap = p.capNext ∧ u.pwr.msMeasured = 0 ∧
      (p.measuring = true → u.pwr.eTotal = p.eTotal + p.msMeasured) ∧
      (∀ c : Fin 32, (u.core c).arr.limit ≤ (s.core c).arr.limit + 16 ∧ (u.core c).tile = (s.core c).tile ∧
        (u.pwr.window ≠ 0 → (s.core c).arr.limit ≤ (u.core c).arr.limit + 16)))) ∧
    (100000 * (p.msClosed + 1) ≤ s.tick → s.dutyOk 2 = true → Does .oneMsBoundary s (fun u => u.pwr.msClosed = p.msClosed + 1 ∧
      u.cores = s.cores ∧ u.pwr.msReckoned = 0 ∧ u.pwr.slackMin = p.slackNow ∧
      (p.measuring = false → u.pwr.k = 4096) ∧
      (p.measuring = true → 0 < p.msReckoned → u.pwr.k = max 3072 (min 5120 (4096 * p.lastSampleE / p.msReckoned))) ∧
      u.pwr.memCeil = (if p.memShort then max 4 (p.memCeil - 1) else min 16 (p.memCeil + 1)))) ∧
    Does (.currentSample rail data) s (fun u => u.pwr.lastSample = s.tick ∧ u.pwr.msMeasured =
      p.msMeasured + 2 * data.toNat * (if rail = 0 then p.vNow else railMv rail) * pJ ∧ u.cores = s.cores) ∧
    (p.ctrl.getLsbD 0 = true → p.lastSample + 10000 ≤ s.tick → p.tmLost = false → Does .telemetryLost s (fun u =>
      u.pwr.tmLost = true ∧ u.pwr.k = 4096 ∧ u.pwr.event.getLsbD 1 = true ∧ u.cores = s.cores)) ∧
    (∀ t : Half, (1888 ≤ t.toInt → p.trip = false → Does (.temperatureSample sensor t) s (fun u => u.pwr.trip = true ∧
        u.pwr.ack = false ∧ u.pwr.tripCnt = sat32 p.tripCnt 1 ∧ u.pwr.event.getLsbD 2 = true ∧
        ∀ c : Fin 32, (u.core c).arr.trip = true ∧ (u.core c).tile = (s.core c).tile)) ∧
      (t.toInt < 1680 → p.trip = true → p.ack = true → (∀ e ∈ p.temps, e.1 ≠ sensor.val → e.2.1 < 1680) →
        Does (.temperatureSample sensor t) s (fun u => u.pwr.trip = false ∧
          ∀ c : Fin 32, (u.core c).arr.trip = false ∧ (u.core c).arr.limit = min 16 (s.core c).arr.limit))) ∧
    (∀ e, p.temps.find? (fun x => x.1 = sensor.val) = some e → e.2.2 + 100000 ≤ s.tick → p.trip = false →
      Does (.sensorSilent sensor) s (fun u => u.pwr.trip = true ∧ ∀ c : Fin 32, (u.core c).arr.trip = true)) ∧
    (TakesFull s a v → Does (.thmTripAck a) s (fun u => u.pwr = (if p.trip then { p with ack := true } else p) ∧ u.cores = s.cores))

/-- Operating points, margins, the cap and shares (R411 to R414, R419, R424, R429). A fall to economy changes the dividers and then
asks for the lower voltage; a rise asks first and changes them when the regulator acknowledges. A slack code below 32 of a held core
raises the trim by one step, at most to 24; one of 32 to 96 leaves it. A cap is limited to PWR_CAP_MAX; staged power shares become
active when they sum to 1,024. A chain job's cores take its proposals' common divider at their tick. -/
def Obligations.OperatingPointsFollowTheirRules : Prop :=
  ∀ (s : State) (a : HostAcc) (v : Nat) (c : Fin 32) (code : BitVec 8),
    let p := s.pwr
    let trim := if 2 ≤ s.cfg.index then 5 * p.trim else 0
    (p.change = .none → s.dutyOk 2 = true →
      (p.economy = true → p.ctrl.getLsbD 4 = false → Does .operatingPointChange s (fun u => u.pwr = { p with
        change := .toNominal, lastChange := some s.tick, vReq := some (p.vNom + trim) } ∧ u.cores = s.cores)) ∧
      (p.economy = false → p.ctrl.getLsbD 4 = true → p.lastChange = none → s.anyCritical = false → s.critWaits = false →
        (∃ n m, p.limAvg = some (n, m) ∧ 0 < m ∧ n < 40 * m) → Does .operatingPointChange s (fun u =>
          u.pwr.change = .toEconomy ∧ u.pwr.lastChange = some s.tick ∧ u.pwr.vReq = some (p.vEco + trim) ∧
          ∀ d : Fin 32, s.heldBy d = none → (u.pwr.cores.getD d PwrCore.reset).div = s.ecoDiv d))) ∧
    (∀ mv, p.vReq = some mv → Does .pwVreqAck s (fun u => u.pwr.vNow = mv ∧
      (p.change = .toEconomy → u.pwr.economy = true) ∧ (p.change = .toNominal → u.pwr.economy = false ∧
        ∀ d : Fin 32, s.heldBy d = none → (u.pwr.cores.getD d PwrCore.reset).div = 8) ∧
      (u.wantMv = mv → u.pwr.vReq = none ∧ u.pwr.change = .none))) ∧
    (2 ≤ s.cfg.index → c.val < s.cfg.cores → p.cores.length = 32 →
      (code.toNat < 32 → (s.heldBy c).isSome = true → Does (.marginReport c code) s (fun u =>
        u.pwr.trim = min 24 (p.trim + 1) ∧ u.cores = s.cores)) ∧
      (32 ≤ code.toNat → code.toNat ≤ 96 → Does (.marginReport c code) s (fun u => u.pwr.trim = p.trim ∧
        (u.pwr.cores.getD c PwrCore.reset).slack = code.toNat ∧ u.pwr.slackNow = min p.slackNow code.toNat))) ∧
    (TakesFull s a v →
      Does (.pwrCapWrite a) s (fun u => u = s.modPwr (fun p => { p with capNext := min (v % 65536) p.capMax })) ∧
      (sumNat p.staged = 1024 → Does (.pwrShareCommit a) s (fun u => u = s.modPwr (fun p => { p with active := p.staged }))) ∧
      (sumNat p.staged ≠ 1024 → Does (.pwrShareCommit a) s (fun u => u.pwr.active = p.active ∧ u.pwr.event.getLsbD 3 = true))) ∧
    (∀ (x : DivProp) (j : Job) (cj : Half), p.props = [x] → x.cjob = cj.toNat → x.done = false → x.tick ≤ s.tick →
      s.grid.jobs = [j] → j.multi.isSome = true → j.chainJob = cj.toNat → j.holds = true → Does (.dividerApply cj) s (fun u =>
        u.pwr.props = [{ x with done := true }] ∧ ∀ d : Fin 32, (u.pwr.cores.getD d PwrCore.reset).div =
          (if j.has d then max 8 x.div else (p.cores.getD d PwrCore.reset).div)))

/-! ## Errors and resets (R442 to R460) -/

/-- An error is counted; a corrected one is sounded, an uncorrected one of a partition's unit resets the partition (R444, R450).
A sounding that finds no mismatch counts a transient fault below the limit; a mismatch is lasting and resets the partition that holds
the unit (R446, R448). The counts halve once for each multiple of 2^32 the tick reaches. A drained reset clears its cores' memory and jobs' packets; a completed one leaves the list (R451). A control
core's watchdog restarts it (R443). -/
def Obligations.ErrorsAreSoundedAndPartitionsReset : Prop :=
  ∀ (s : State) (p : Fin 8) (ph : Fin 34) (b : Fin 64) (detail : Word) (u : SoundUnit) (k : Fin 4),
    let f := s.flt
    let id : UnitId := ⟨u.kind, u.idx, u.sub⟩
    let site : UnitId := ⟨0, ph, b⟩
    (s.unitPart site = none → (∀ x ∈ f.sounding, x.unit ≠ site) → Does (.errorDetected (.tile ph b false) detail) s (fun u =>
      u.flt.ce = sat32 f.ce 1 ∧ u.flt.ue = f.ue ∧ u.flt.sounding = f.sounding ++ [⟨site, none⟩] ∧
      u.flt.soundCnt = sat32 f.soundCnt 1 ∧ u.cores = s.cores)) ∧
    (s.unitPart site = some p.val → s.inReset p = false → Does (.errorDetected (.tile ph b true) detail) s (fun u =>
      u.flt.ue = sat32 f.ue 1 ∧ u.flt.resets = f.resets ++ [⟨p, false, false, [site], []⟩] ∧
      u.flt.resetCnt = sat32 f.resetCnt 1 ∧ ∀ c ∈ (s.part p).coreList, (u.core c).seq.halted = true)) ∧
    (∀ n, f.sounding = [⟨id, none⟩] → (f.trans.find? (fun e => e.1 = id)).elim 0 Prod.snd = n →
      (n + 1 < f.transLimit → Does (.soundingComplete u false) s (fun t => t.flt.sounding = [] ∧
        t.flt.trans = (id, n + 1) :: f.trans.filter (fun e => e.1 ≠ id) ∧ t.flt.resets = f.resets ∧ t.cores = s.cores)) ∧
      (id.kind < 5 → s.unitPart id = some p.val → s.inReset p = false → Does (.soundingComplete u true) s (fun t =>
        t.flt.sounding = [] ∧ t.flt.trans = f.trans ∧ t.flt.resets = f.resets ++ [⟨p, false, false, [], [id]⟩]))) ∧
    (2 ^ 32 * (f.halved + 1) ≤ s.tick → Does .transientCountHalve s (fun t => t.cores = s.cores ∧ t.flt = { f with
      halved := f.halved + 1, trans := (f.trans.map (fun e => (e.1, e.2 / 2))).filter (fun e => e.2 ≠ 0) })) ∧
    (∀ r, f.resets = [r] → r.part = p.val → s.dutyOk 1 = true →
      (r.drained = false → s.partWritesDone p = true → r.units = [] → Does (.partitionResetDrained p) s (fun t =>
        t.flt.resets = [{ r with drained := true }] ∧ (∀ m ∈ t.mesh, m.belongs p (s.part p).coreList = false) ∧
        (∀ c ∈ (s.part p).coreList, (t.core c).tile = [] ∧ (t.core c).img = .none ∧ (t.core c).seq.started = false) ∧
        ∀ c : Fin 32, c.val ∉ (s.part p).coreList → t.core c = s.core c)) ∧
      (r.drained = true → r.lasting = [] → (∀ x ∈ f.sounding, x.part ≠ some p.val) → (∀ j ∈ s.grid.jobs, j.part ≠ p.val) →
        Does (.partitionResetComplete p) s (fun t => t.flt.resets = [] ∧ t.inReset p = false ∧ t.cores = s.cores))) ∧
    (f.restarting.length = 4 →
      Does (.watchdogExpiry k) s (fun t => t.flt.restarting.getD k false = true ∧ t.flt.ue = sat32 f.ue 1 ∧
        t.flt.event.getLsbD 3 = true ∧ t.cores = s.cores) ∧
      Does (.controlCoreRestartDone k) s (fun t => t.flt.restarting.getD k false = false ∧ t.cores = s.cores))

/-! ## The Lodestar (R461 to R489) -/

/-- Reports, keys, scrubs and access tables (R462 to R484). Up to 4 requests queue with the nonce; the oldest is answered with the
report body of the spec under a fresh release key, which is kept; the sequence number moves on when its writes are acknowledged. A key
blob is read, unwrapped into its slot, and its result written; a clear empties the slot of an idle partition or answers 0x0F05. A
scrub is refused with 0x0F06 or begins; complete, it has cleared its cores and key slots and raised the epoch. A locked table stays.
The device key follows from the fused secret. -/
def Obligations.LodestarReportsReleasesKeysAndScrubs : Prop :=
  ∀ (s : State) (p : Fin 8) (a : HostAcc) (v : Nat),
    let l := s.lds
    (TakesFull s a v → v.testBit 0 = true →
      (l.rptQueue.length < 4 → Does (.reportRequest a) s (fun u => u = s.modLds (fun l => { l with
        rptQueue := l.rptQueue ++ [(l.nonce.flatMap (fun w => toLe 4 w.toNat), addrPair l.rptLo l.rptHi)] }))) ∧
      (4 ≤ l.rptQueue.length → Does (.reportRequest a) s (fun u => u.lds.rptQueue = l.rptQueue ∧ u.lds.event.getLsbD 1 = true)) ∧
      (l.keyOp = none → Does (.keyInstall a) s (fun u => let b := addrPair l.keyLo l.keyHi
        u.lds.keyOp = some (.install b) ∧ Accesses s u .keyBlob false false b (min 256 (1024 - b % 1024)) [])) ∧
      (l.keyOp.isSome = true → Does (.keyInstall a) s (fun u => u.lds.keyOp = l.keyOp ∧ u.lds.event.getLsbD 2 = true ∧ u.fab = s.fab))) ∧
    (∀ nonce addr rest d, l.rptQueue = (nonce, addr) :: rest → l.dpriv = some d → s.reportHeld = false → l.writing = false →
      s.ready = true → s.dutyOk 3 = true → Does .reportSnapshot s (fun u => u.lds.rptQueue = rest ∧ u.lds.writing = true ∧
        u.cores = s.cores ∧ ∃ r, 0 < r ∧ r < p384n ∧
          u.lds.kept = (⟨r, sha384 (s.reportBody nonce (pubKey r)), l.epochs⟩ :: l.kept).take 4)) ∧
    (l.writing = true → (∀ x ∈ s.accsOf .report, x.done = true) → Does .reportWritten s (fun u => u.lds.writing = false ∧
      u.lds.rptSeq = l.rptSeq + 1#32 ∧ u.lds.event.getLsbD 0 = true ∧ u.accsOf .report = [])) ∧
    (∀ b, l.keyOp = some (.install b) → (∀ x ∈ s.accsOf .keyBlob, x.done = true) → s.dutyOk 3 = true →
      let r := s.unwrapBlob (s.accsData .keyBlob)
      Does .keyInstallDone s (fun u => u.lds.keyOp = none ∧ u.lds.keyResult = r.1 ∧ u.accsOf .keyBlob = [] ∧
        (r.2 = none → u.lds.keys = l.keys) ∧ ∀ q i x, r.2 = some (q, i, x) → u.lds.keys = (l.setKey q i (some x)).keys)) ∧
    (TakesFull s a v → v.testBit 1 = true → v.testBit 0 = false → l.keyOp = none →
      let q := fld 6 4 v
      (s.keyIdle q = true → Does (.keyClear a) s (fun u => u.lds = { (l.setKey q (fld 11 8 v) none) with keyResult := 0 })) ∧
      (s.keyIdle q = false → Does (.keyClear a) s (fun u => u.lds = { l with keyResult := 0x0F05 }))) ∧
    (TakesFull s a v → v.testBit 31 = true → fld 2 0 v = p.val →
      ((s.inScrub p = true ∨ s.cfg.parts ≤ p.val ∨ (s.grid.watch = .watch ∧ s.grid.watchIn = p.val)) →
        Does (.scrubGo a) s (fun u => u = s.modLds (fun l => { l with scrubStatus := 0x0F06 }))) ∧
      (s.inScrub p = false → p.val < s.cfg.parts → s.grid.watch ≠ .watch → Does (.scrubGo a) s (fun u =>
        u.inScrub p = true ∧ u.lds.scrubStatus = 0 ∧ (s.hasJob p = true → u.inReset p = true) ∧
        (s.hasJob p = false → u.flt = s.flt ∧ u.cores = s.cores)))) ∧
    (s.inScrub p = true → s.inReset p = false → (∀ x ∈ s.flt.sounding, s.unitPart x.unit ≠ some p.val) → s.dutyOk 3 = true →
      l.keys.length = 8 → l.epochs.length = 8 → Does (.scrubComplete p) s (fun u => u.inScrub p = false ∧
        u.lds.epochs.getD p 0 = l.epochs.getD p 0 + 1#32 ∧ u.lds.keys.getD p [] = List.replicate 16 none ∧
        (∀ c ∈ (s.part p).coreList, (u.core c).tile = [] ∧ (u.core c).tileSeal = []) ∧
        (∀ j ∈ u.grid.jobs, j.part ≠ p.val) ∧ ∀ c : Fin 32, c.val ∉ (s.part p).coreList → u.core c = s.core c)) ∧
    (TakesFull s a v → v.testBit 0 = true → Does (.ldsAccLockWrite a) s (fun u => u.lds = { l with accLock := true })) ∧
    (l.accLock = true → s.pagesOpen = true → ∀ (mid : BitVec 8) (n : Fin 16) (d : DWord), s.admitsFull mid = true →
      Does (.registerWrite mid (0x600A100#28 + BitVec.ofNat 28 (4 * n.val)) 2#2 d) s (fun u => u.lds = l)) ∧
    (s.alm.phase ≠ .held → s.alm.phase ≠ .fuses → l.dpriv = none → Does .deviceKeyDerived s (fun u =>
      u.lds.dpriv = some (deviceScalar l.secret) ∧ u.lds.devkey = pubKey (deviceScalar l.secret)))

/-! ## The Intake (R358 to R384, R528) -/

/-- Sessions (R360 to R376, R383). A bell publishes records up to its tail, the next of which is read, or is dropped and counted; a
free lane takes the next current record of the one session that has work and its batch takes a slot; a record that was not current
is read again; a lane resolves its sample's slot with the outcome of the spec, or as late at its budget. A batch whose writes are
acknowledged is prepared; freeing the oldest prepared one takes it off; a flush closes the open one. Enabling a session clears it, or
sets cfg_err when its buffers do not fit; an enabled one heeds only a clear of enable. -/
def Obligations.IntakeSessionsTakeResolveAndPrepare : Prop :=
  ∀ (s : State) (p : Fin 8) (l : Fin 4) (a : HostAcc) (v : Nat), s.itk.sess.length = 8 → s.itk.lanes.length = 4 →
    let x := s.ses p
    let at_ := x.ringBase + 64 * (x.head.toNat % 2 ^ x.k)
    (TakesFull s a v → p.val < s.cfg.parts →
      (x.on = true → (BitVec.ofNat 32 v - x.head).toNat ≤ 2 ^ x.k → Does (.itkBell p a) s (fun u =>
        (u.ses p).tail = BitVec.ofNat 32 v ∧ (u.ses p).ahead = false ∧ u.cores = s.cores ∧
        (x.head ≠ BitVec.ofNat 32 v → s.ownerIdle (.sampleRecord p) = true →
          Accesses s u (.sampleRecord p) false false at_ 64 []))) ∧
      ((x.on = false ∨ 2 ^ x.k < (BitVec.ofNat 32 v - x.head).toNat) → Does (.itkBell p a) s (fun u => u = s.sesDrop p)) ∧
      (∀ b r, x.batches = b :: r → b.prepared = true → b.seq = v → Does (.itkBatchFree p a) s (fun u =>
        (u.ses p).batches = r ∧ u.cores = s.cores)) ∧
      (∀ b r, x.batches = b :: r → (b.prepared = false ∨ b.seq ≠ v) → Does (.itkBatchFree p a) s (fun u => u = s.sesDrop p)) ∧
      (∀ b, x.openBatch = some b → Does (.itkFlush p a) s (fun u => u.cores = s.cores ∧
        ∀ z ∈ (u.ses p).batches, z.seq = b.seq → z.closed = true)) ∧
      (x.cfg.getLsbD 4 = true → v.testBit 4 = true → Does (.itkSessionCfgWrite p a) s (fun u => u = s)) ∧
      (x.cfg.getLsbD 4 = false → v.testBit 4 = true →
        let bad := fld 19 0 x.stride.toNat * 4096 < 0x800 + x.nB * x.slotBytes ∨ fld 11 10 x.outCfg.toNat = 3 ∨ itkFmt x.fmt = false
        (¬bad → Does (.itkSessionCfgWrite p a) s (fun u => (u.ses p).cfg = BitVec.ofNat 32 (v % 32) ∧ (u.ses p).head = 0 ∧
          (u.ses p).tail = 0 ∧ (u.ses p).batches = [] ∧ (u.ses p).nextSeq = 0 ∧ (u.ses p).outCfg = x.outCfg)) ∧
        (bad → Does (.itkSessionCfgWrite p a) s (fun u => (u.ses p).event.testBit 3 = true ∧
          (u.ses p).cfg.getLsbD 4 = false)))) ∧
    (x.on = true → x.retrying = true → x.nextTry ≤ s.tick → s.ownerIdle (.sampleRecord p) = true →
      Does (.sampleRecordReread p) s (fun u => (u.ses p).tries = x.tries + 1 ∧ Accesses s u (.sampleRecord p) false false at_ 64 [])) ∧
    (s.lane l = none → s.ready = true → s.grid.watch = .normal → s.framesWaiting = [] → (∀ q : Fin 8, s.canTake q = decide (q = p)) →
      Does (.intakeLaneFree l) s (fun u => (u.ses p).head = x.head + 1#32 ∧ u.cores = s.cores ∧ ∃ y b i, u.lane l = some y ∧
        y.sess = p.val ∧ y.item = .sample (s.accsData (.sampleRecord p)) b i ∧ y.take = s.tick ∧ y.resolved = false)) ∧
    (∀ y r b i, s.lane l = some y → y.item = .sample r b i → y.resolved = false →
      (y.refused = none → y.rdLen ≤ y.rdDone → s.overBudget y = false → Does (.sampleResolve l) s (fun u => (∃ z, u.lane l = some z ∧ z.resolved = true) ∧
        ∀ z ∈ (u.ses y.sess).batches, z.seq = b → i < z.slots.length →
          (z.slots.getD i ⟨0, [], none⟩).ended = some (s.sampleOutcome y.sess r y.bytes none).1)) ∧
      (∀ n, (s.ses y.sess).limit = some n → y.waiting = none → y.take + n + y.faultTicks ≤ s.tick →
        Does (.sampleBudgetAbort l) s (fun u => (∃ z, u.lane l = some z ∧ z.resolved = true) ∧
          ∀ z ∈ (u.ses y.sess).batches, z.seq = b → i < z.slots.length →
            (z.slots.getD i ⟨0, [], none⟩).ended = some ⟨0x0A02, 2, none⟩))) ∧
    (∀ b r, x.batches = b :: r → b.prepared = false → b.headed = true → b.out = [] → s.ownerDone (.intakeWrite p b.seq) = true →
      Does (.batchPrepared p) s (fun u => (u.ses p).event.testBit 0 = true ∧
        ∃ z t, (u.ses p).batches = z :: t ∧ z.seq = b.seq ∧ z.prepared = true))

/-- Frame streams (R377 to R383). A start takes the lowest free slot; a beat's bytes join the line; an end of line counts the line;
the end of a frame makes it pending, an audio block written, a frame with no lines dropped with 0x0B01; statistics join the latest
frame or are lost; the oldest finished frame's record of 64 B goes to the ring; freeing gives back a recorded frame's slot. An enabled
stream heeds only a clear of enable. -/
def Obligations.FrameStreamsReceiveAndRecord : Prop :=
  ∀ (s : State) (n : Fin 6) (a : HostAcc) (v : Nat), s.itk.streams.length = 6 → s.itk.lanes = List.replicate 4 none →
    let f := s.fst n
    (∀ (ts : DWord) (fnum : Word), f.on = true → s.ready = true → f.arriving = none →
      let begun := fun (u : State) => (u.fst n).nextNo = f.nextNo + 1 ∧ (u.fst n).drops = f.drops ∧ u.cores = s.cores ∧
        ∃ y ∈ (u.fst n).frames, y.no = f.nextNo ∧ y.tCap = ts.toNat ∧ y.fnum = fnum ∧ y.tStart = s.tick ∧ y.st = .arriving ∧
          y.slot = (List.range f.slots).find? (fun k => !f.busy.contains k)
      (∀ h : n.val < 4, Does (.startOfFrame ⟨n, h⟩ ts fnum) s begun) ∧
      (∀ h : 4 ≤ n.val, Does (.audioBlockStart ⟨n - 4, by omega⟩ ts fnum) s begun)) ∧
    (∀ x, f.arriving = some x →
      (∀ (h : n.val < 4) (d : DWord), Does (.videoBeat ⟨n, h⟩ d) s (fun u => u.cores = s.cores ∧ u.fab = s.fab ∧
        (u.fst n).arriving = some { x with line := x.line ++ toLe (if f.form = 2 then 8 else 6) d.toNat })) ∧
      (∀ (h : 4 ≤ n.val) (d : Word), Does (.audioBeat ⟨n - 4, by omega⟩ d) s (fun u => u.cores = s.cores ∧
        (u.fst n).arriving = some { x with line := x.line ++ toLe 4 d.toNat })) ∧
      (∀ h : n.val < 4, x.lines < f.frameLines n → f.held + (fixLine x.line (f.lineBytes n) (f.pixBytes n)).1.length ≤ 65536 →
        Does (.endOfLine ⟨n, h⟩) s (fun u => u.cores = s.cores ∧
          ∃ y ∈ (u.fst n).frames, y.no = x.no ∧ y.lines = x.lines + 1 ∧ y.line = [])) ∧
      (∀ h : n.val < 4, x.line = [] → x.slot.isSome = true →
        (x.st = .arriving → 0 < x.lines → Does (.endOfFrame ⟨n, h⟩) s (fun u => u.cores = s.cores ∧
          ∃ y ∈ (u.fst n).frames, y.no = x.no ∧ y.st = .pending ∧ y.tEnd = s.tick ∧
            y.flags = (if f.frameLines n ≤ x.lines then x.flags else x.flags ||| 1))) ∧
        (x.st = .arriving → x.lines = 0 → Does (.endOfFrame ⟨n, h⟩) s (fun u => (u.fst n).drops = min 65535 (f.drops + 1) ∧
          ∃ y ∈ (u.fst n).frames, y.no = x.no ∧ y.st = .dropped ∧
            (f.stage = [] → (∀ z ∈ f.frames, z.st ≠ .written) → y.status = 0x0B01))) ∧
        (x.st = .discarding → Does (.endOfFrame ⟨n, h⟩) s (fun u => (u.fst n).drops = f.drops ∧
          ∃ y ∈ (u.fst n).frames, y.no = x.no ∧ y.st = .dropped ∧ y.tEnd = s.tick ∧ y.lines = x.lines))) ∧
      (∀ h : 4 ≤ n.val, x.st = .arriving → x.lines = 0 → x.slot.isSome = true →
        f.held + (fixLine x.line (f.lineBytes n) (f.pixBytes n)).1.length ≤ 65536 →
        Does (.audioBlockEnd ⟨n - 4, by omega⟩) s (fun u => u.cores = s.cores ∧
          ∃ y ∈ (u.fst n).frames, y.no = x.no ∧ y.lines = 1 ∧ y.tEnd = s.tick ∧ y.tDisp = s.tick))) ∧
    (∀ (h : n.val < 4) (fnum : Word) (d : DWord),
      (∀ x, f.frames = [x] → x.live = true → x.st ≠ .closing → x.stats.length < 4096 →
        Does (.statisticsBeat ⟨n, h⟩ true fnum d true) s (fun u => (u.fst n).statsFor = some x.no ∧ (u.fst n).lost = f.lost ∧
          (u.fst n).frames = [{ x with hasStats := true, stats := x.stats ++ toLe 8 d.toNat }])) ∧
      (f.frames = [] → Does (.statisticsBeat ⟨n, h⟩ true fnum d true) s (fun u =>
        (u.fst n).lost = min 65535 (f.lost + 1) ∧ (u.fst n).frames = []))) ∧
    (∀ x rest, f.frames = x :: rest → x.st = .dropped → 4 ≤ f.recK → f.recK ≤ 10 → ringFull f.recK f.head f.tail = false →
      Does (.frameRecordWrite n) s (fun u => (u.fst n).frames = rest ∧ (u.fst n).tail = (f.tail + 1) % 2 ^ (f.recK + 1) ∧
        Accesses s u (.frameRecord n) true false
          (fld 31 6 f.recLo.toNat * 64 + fld 15 0 f.recHi.toNat * 2 ^ 32 + 64 * (f.tail % 2 ^ f.recK)) 64
          (x.bytes n (!f.tail.testBit f.recK)))) ∧
    (TakesFull s a v →
      Does (.frmRecHeadWrite n a) s (fun u => u = s.modFst n (fun f => { f with head := v % 2 ^ 11 })) ∧
      ((∀ x ∈ f.frames, x.slot = some (fld 5 0 v) → x.live = false) → Does (.frmFree n a) s (fun u =>
        u = s.modFst n (fun f => { f with busy := f.busy.erase (fld 5 0 v) }))) ∧
      (f.on = true → v.testBit 0 = true → Does (.frmCtrlWrite n a) s (fun u => u = s)) ∧
      (f.on = true → v.testBit 0 = false → Does (.frmCtrlWrite n a) s (fun u => (u.fst n).on = false ∧
        (u.fst n).frames = f.frames)))

/-! ## The Ruryn links (R487 to R502) -/

/-- Every sub-link and port has its place. -/
abbrev LinksShape (s : State) : Prop := s.lnk.subs.length = 4 ∧ s.lnk.ports.length = 2

/-- Of the whole state only sub-link l differs. -/
def OnlyLink (s u : State) (l : Fin 4) : Prop :=
  u = { s with lnk := { s.lnk with subs := u.lnk.subs } } ∧ ∀ k : Fin 4, k ≠ l → u.sub k = s.sub k

/-- Sub-link l has gone down with a code of Table 16.6: it keeps its epoch and trains again after 1 ms (R489, R493). -/
def WentDown (s u : State) (l code : Nat) : Prop :=
  u.sub l = { SubLink.reset with epoch := (s.sub l).epoch, retryAt := s.tick + 100000, peerRefused := (s.sub l).peerRefused } ∧
    fld 31 16 (u.lport l).event.toNat = code ∧ (u.lport l).event.getLsbD 0 = true

/-- A link goes from lock through training to keying and up (R489): its width is that of the lanes that pass; no passing half, another
major version and its own node each take it down with their code. The handshake (R478, R479) refuses a peer whose key is not permitted
or whose signature fails, and otherwise sets the keys of the next epoch with counters at 0; a failed lane makes a ×8 link retrain on the
other half, keeping epoch and counters, and takes a ×4 link down (R493); counters start a handshake at 2^47 and take the link down at
their end. The time exchange computes the offset, and the first on a link sets the counter once (R496). -/
def Obligations.LinksTrainKeyRetrainAndKeepTime : Prop :=
  ∀ (s : State) (l : Fin 4) (node major minor pass hops : BitVec 8) (slow date : Bool) (width : Nat) (key eph sig : List Byte)
    (start : Nat) (lane : Fin 8) (t2 t3 : DWord), LinksShape s →
    let x := s.sub l
    let q := s.lport l
    let wide := q.split = false ∧ 4 < width
    let lo := pass.toNat % 16 = 15
    let hi := pass.toNat / 16 = 15
    let trains := fun (P : State → Prop) => Does (.trainingSet l node major minor slow width pass date) s P
    (s.subOn l = true → x.st = .lock → Does (.laneLock l) s (fun u => OnlyLink s u l ∧ u.sub l = { x with st := .training })) ∧
    (s.subOn l = true → x.st = .down → x.retryAt ≤ s.tick → Does (.trainingRetry l) s (fun u => OnlyLink s u l ∧
      u.sub l = { x with st := .lock })) ∧
    (s.subOn l = true → x.st = .training → x.back = false →
      (¬ lo → (¬ wide ∨ ¬ hi) → trains (fun u => WentDown s u l 0x1002)) ∧
      ((lo ∨ (wide ∧ hi)) → major ≠ 1#8 → trains (fun u => WentDown s u l 0x1003)) ∧
      ((lo ∨ (wide ∧ hi)) → major = 1#8 → node.toNat = s.node → trains (fun u => WentDown s u l 0x1004)) ∧
      ((lo ∨ (wide ∧ hi)) → major = 1#8 → node.toNat ≠ s.node → (l.val % 2 = 0 ∨ 3 ≤ minor.toNat) → trains (fun u =>
        (∃ e, u.sub l = { x with
          st := .keying, peer := node.toNat, minor := min 4 minor.toNat,
          width := if wide ∧ lo ∧ hi then 8 else 4, half := if lo then 0 else 1,
          rate := q.cfg.getLsbD 2 || slow, peerDate := date, eph := some e }) ∧
        (∀ k : Fin 4, k ≠ l → u.sub k = s.sub k) ∧ u.cores = s.cores))) ∧
    (s.subOn l = true → x.st = .training → x.back = true → x.width = 4 → (pass.toNat >>> (4 * x.half)) % 16 = 15 →
      major = 1#8 → node.toNat ≠ s.node → (l.val % 2 = 0 ∨ 3 ≤ minor.toNat) → q.split = false → trains (fun u =>
        (u.sub l).st = .upNarrow ∧ (u.sub l).back = false ∧ (u.sub l).width = 4 ∧ (u.sub l).epoch = x.epoch ∧
        (u.sub l).keys = x.keys ∧ (u.sub l).txCtr = x.txCtr ∧ (u.sub l).rxCtr = x.rxCtr ∧ (u.sub l).replay = x.replay ∧
        (u.sub l).resend = x.replay.head?.map SentFrame.counter ∧ (u.lport l).event.getLsbD 1 = true)) ∧
    (∀ d pv, x.st = .keying → x.eph = some d → s.lds.dpriv = some pv →
      let low := ofBe s.lds.devkey < ofBe key
      let signed := if low then pubKey d ++ eph else eph ++ pubKey d
      let ok := s.lds.permits key && ecdsaVerify key (sha384 signed) sig
      Does (.linkHandshake l key eph sig start) s (fun u => u.cores = s.cores ∧
        (ok = false → (u.sub l).st = .down ∧ (u.sub l).peerRefused = true ∧ (u.sub l).retryAt = s.tick + 100000 ∧
          (u.sub l).epoch = x.epoch) ∧
        (∀ z, ok = true → ecdh d eph = some z → u.sub l = { x with
          epoch := x.epoch + 1, eph := none, keys := some (epochKeys z (x.epoch + 1) low), txCtr := 0, rxCtr := 0,
          peerRefused := false, timed := !s.timeFrom l, st := if s.timeFrom l then .keying else .up,
          back := if s.timeFrom l then x.back else false }))) ∧
    (x.st.isUp = true → x.eph = none → x.nextKeys = none → (2 ^ 47 ≤ x.txCtr ∨ 2 ^ 47 ≤ x.rxCtr) → Does (.rekeyTrigger l) s (fun u =>
      (∃ e, u.sub l = { x with eph := some e }) ∧ (∀ k : Fin 4, k ≠ l → u.sub k = s.sub k) ∧ u.cores = s.cores)) ∧
    (x.st.isUp = true → x.nextKeys = none → (2 ^ 48 - 2 ^ 32 ≤ x.txCtr ∨ 2 ^ 48 - 2 ^ 32 ≤ x.rxCtr) →
      Does (.counterEnd l) s (fun u => WentDown s u l 0x1006)) ∧
    (x.st.isUp = true →
      (x.width = 8 → Does (.laneLockLoss l lane) s (fun u => OnlyLink s u l ∧
        u.sub l = { x with st := .training, back := true, width := 4, half := if lane.val < 4 then 1 else 0 })) ∧
      (x.width = 4 → Does (.laneLockLoss l lane) s (fun u => WentDown s u l 0x1005))) ∧
    (x.st.isUp = true → x.sounding = true →
      (s.flt.trans = [] → 1 < s.flt.transLimit → Does (.linkSoundingComplete l 0#8) s (fun u =>
        u.sub l = { x with sounding := false } ∧ u.lnk.ports = s.lnk.ports ∧ u.cores = s.cores)) ∧
      (∀ bad : BitVec 8, bad ≠ 0#8 → x.width = 8 → bad.toNat < 16 → Does (.linkSoundingComplete l bad) s (fun u =>
        u.sub l = { x with sounding := false, st := .training, back := true, width := 4, half := 1 })) ∧
      (∀ bad : BitVec 8, bad ≠ 0#8 → x.width = 4 → Does (.linkSoundingComplete l bad) s (fun u => WentDown s u l 0x1005))) ∧
    (s.timeFrom l = true → x.st.isUp = true →
      Does (.timeExchange l) s (fun u => u = { s with lnk := { s.lnk with t1 := s.meridian } }) ∧
      (x.timed = true → Does (.timeReply l t2 t3 hops) s (fun u =>
        u.lnk.offset = (((t2.toNat : Int) - s.lnk.t1) + ((t3.toNat : Int) - s.meridian)) / 2 ∧ u.lnk.slew = u.lnk.offset ∧
        u.lnk.hops = min 255 (hops.toNat + 1) ∧ u.clk = s.clk ∧ u.sub l = x ∧ u.cores = s.cores))) ∧
    (s.timeFrom l = true → x.st = .keying → x.keys.isSome = true → x.timed = false →
      (∀ j ∈ s.grid.jobs, j.multi = none) →
      let at_ := (s.meridian : Int) + (((t2.toNat : Int) - s.lnk.t1) + ((t3.toNat : Int) - s.meridian)) / 2
      at_.toNat < 88 * 2 ^ 64 → Does (.timeReply l t2 t3 hops) s (fun u => u.meridian = at_.toNat ∧ (u.sub l).st = .up ∧
        (u.sub l).timed = true ∧ u.lnk.slew = 0 ∧ u.cores = s.cores))

/-- A frame of this instance goes out on sub-link l, at the next counter, and is kept for replay. -/
def SentAs (x y : SubLink) (f : Frame_) (k : LinkKeys) : Prop :=
  y = { x with slots := x.slots + 1, txNow := f.wire k x.txCtr, txCtr := x.txCtr + 1,
               credits := modAt x.credits f.cls (· - 1), replay := x.replay ++ [⟨x.txCtr, f.wire k x.txCtr⟩],
               transitLast := y.transitLast }

/-- Frames (R488 to R494). Slot 8j + 7 is a control slot, in which what is owed is sent; the other slots carry the frame to be
resent, byte for byte, else a transit or a local frame at the next counter while a credit of its class is held and the replay buffer
has room, else an idle frame. What one end sends the other accepts when its counter is the one expected: it occupies a receive buffer,
or goes on to its node in transit, or is discarded and counted; a bad one is negatively acknowledged and the lanes are sounded.
Acknowledged frames leave the replay buffer; a negative acknowledgement starts resending, the eighth takes the link down. -/
def Obligations.LinkFramesAreSentCheckedAndReplayed : Prop :=
  ∀ (s : State) (l : Fin 4), LinksShape s →
    let x := s.sub l
    let y := { x with slots := x.slots + 1, txNow := [] }
    (s.subOn l = true → x.st ≠ .down → x.st ≠ .lock → x.slots % 8 = 7 → x.nack = false →
      Does (.frameSlot l) s (fun u => OnlyLink s u l ∧ u.sub l = { y with ack := false, owed := [0, 0, 0] })) ∧
    (s.subOn l = true → x.st ≠ .down → x.st ≠ .lock → x.slots % 8 = 7 → x.nack = true →
      (x.nacksSent.1 ≠ x.rxCtr → Does (.frameSlot l) s (fun u => u.sub l = { y with
        ack := false, nack := false, owed := [0, 0, 0], nacksSent := (x.rxCtr, 1) } ∧
        (u.lport l).replayCnt = sat32 (s.lport l).replayCnt 1)) ∧
      (x.nacksSent = (x.rxCtr, 7) → Does (.frameSlot l) s (fun u => WentDown s u l 0x1005))) ∧
    (s.subOn l = true → x.st.isUp = true → x.slots % 8 ≠ 7 → x.nextKeys = none →
      (∀ a f b, x.replay = a ++ f :: b → (∀ g ∈ a, g.counter ≠ f.counter) → x.resend = some f.counter →
        Does (.frameSlot l) s (fun u => u.sub l = { y with resend := b.head?.map SentFrame.counter, txNow := f.bytes } ∧
          (u.lport l).txCnt = sat32 (s.lport l).txCnt 1 ∧ u.lnk.queue = s.lnk.queue)) ∧
      (x.resend = none → 64 ≤ x.replay.length → Does (.frameSlot l) s (fun u => OnlyLink s u l ∧ u.sub l = y)) ∧
      (x.resend = none → s.fab.rem = [] → s.lnk.queue = [] → s.lnk.transit = [] → Does (.frameSlot l) s (fun u =>
        OnlyLink s u l ∧ u.sub l = y)) ∧
      (∀ f k, x.resend = none → x.replay.length < 64 → x.txCtr < 2 ^ 48 - 2 ^ 32 → x.keys = some k → s.fab.rem = [] →
        s.isHere f.dst = false → s.egress f.dst = some l.val → 0 < x.credits.getD f.cls 0 →
        (s.lnk.queue = [f] → s.lnk.transit = [] → f.via = none → s.frameHeld f = false → Does (.frameSlot l) s (fun u => SentAs x (u.sub l) f k ∧
          u.lnk.queue = [] ∧ (u.lport l).txCnt = sat32 (s.lport l).txCnt 1 ∧ u.cores = s.cores ∧
          ∀ e : Fin 4, e ≠ l → u.sub e = s.sub e)) ∧
        (∀ v : Fin 4, v ≠ l → s.lnk.queue = [] → s.lnk.transit = [f] → f.via = some v.val → Does (.frameSlot l) s (fun u =>
          SentAs x (u.sub l) f k ∧ u.lnk.transit = [] ∧
          u.sub v = { s.sub v with owed := modAt (s.sub v).owed f.cls (· + 1) })))) ∧
    (∀ (f : Frame_) (k o : LinkKeys) (d : List Byte) (n : Nat), x.st.isUp = true → x.nextKeys = none → x.keys = some k →
      o.txKey = k.rxKey → o.txSalt = k.rxSalt → k.rxKey.length = 32 → k.rxSalt.length = 4 → f.load = .data d → d.length ≤ 256 → 0 < f.kind → f.kind < 8 → f.cls < 4 →
      f.dst < 256 → f.src < 256 → f.part < 8 → f.tag < 65536 → f.addr < 2 ^ 48 →
      let z := { x with rxCtr := x.rxCtr + 1, ack := true, nack := false, skipping := false }
      (n = x.rxCtr → n < 2 ^ 64 →
        (s.isHere f.dst = true → Does (.dataFrameReceive l (f.wire o n)) s (fun u =>
          u.sub l = { z with rx := x.rx ++ [rxOf f d] } ∧ (u.lport l).rxCnt = sat32 (s.lport l).rxCnt 1 ∧ u.cores = s.cores)) ∧
        (∀ e, s.isHere f.dst = false → s.egress f.dst = some e → e ≠ l.val → Does (.dataFrameReceive l (f.wire o n)) s (fun u =>
          u.sub l = z ∧ u.lnk.transit = s.lnk.transit ++ [{ f with own := f.part, via := some l.val, stop := linkStop }])) ∧
        (s.isHere f.dst = false → (s.egress f.dst = none ∨ s.egress f.dst = some l.val) →
          Does (.dataFrameReceive l (f.wire o n)) s (fun u => u.sub l = { z with owed := modAt x.owed f.cls (· + 1) } ∧
            u.lnk.transit = s.lnk.transit ∧ (u.lport l).event.getLsbD 2 = true))) ∧
      (n % 4096 ≠ x.rxCtr % 4096 → n < 2 ^ 64 → Does (.dataFrameReceive l (f.wire o n)) s (fun u => u = s))) ∧
    (∀ (k : LinkKeys) (bs : List Byte), x.st.isUp = true → x.nextKeys = none → x.keys = some k →
      (bs.length ≠ 320 ∨ leAt bs 304 4 ≠ crc32 (slice bs 0 304)) →
      Does (.dataFrameReceive l bs) s (fun u =>
        u.sub l = { x with nack := true, ack := false, skipping := true, sounding := true } ∧
        u.flt.ue = sat32 s.flt.ue 1 ∧ u.cores = s.cores)) ∧
    (∀ (a b : List SentFrame) (f : SentFrame), x.st.isUp = true → x.replay = a ++ f :: b →
      (∀ g ∈ a, g.counter % 4096 ≠ f.counter % 4096) →
      (x.resend = none → Does (.linkAck l (f.counter % 4096)) s (fun u => OnlyLink s u l ∧
        u.sub l = { x with replay := b, nacks := (0, 0) })) ∧
      (x.nacks.1 ≠ f.counter → Does (.linkNack l (f.counter % 4096)) s (fun u => OnlyLink s u l ∧
        u.sub l = { x with replay := f :: b, resend := some f.counter, nacks := (f.counter, 1) })) ∧
      (x.nacks = (f.counter, 7) → Does (.linkNack l (f.counter % 4096)) s (fun u => WentDown s u l 0x1005))) ∧
    (∀ (cls : Fin 4) (n : Nat), x.st.isUp = true → cls.val < 3 → x.credits.length = 3 → Does (.linkCreditReturn l cls n) s (fun u =>
      OnlyLink s u l ∧ u.sub l = { x with credits := (u.sub l).credits } ∧
      (u.sub l).credits.getD cls 0 = min 32 (x.credits.getD cls 0 + n) ∧
      ∀ k : Fin 4, k ≠ cls → (u.sub l).credits.getD k 0 = x.credits.getD k 0))

/-- The frame f waiting at link stop l, its only cell or payload served, frees its buffer and a credit goes back. -/
def Served (s : State) (l : Nat) (f : RxFrame) : State := s.rxServe l f

/-- Remote accesses (R322, R497). A request is refused with an error cell where its inbound window or segment refuses it, and is
otherwise performed; an earlier frame of a write waits for its last. A response's data gathers at the requester's access, a write
acknowledgement retires its write, and an error cell stops the sending core with 0x0806. -/
def Obligations.RemoteAccessesAreServedAndAnswered : Prop :=
  ∀ (s : State) (l : Fin 5) (f : RxFrame),
    (∀ r len last, s.rxRequest l = some (f, r) → s.lnk.inbound = [] → (f.kind = 2 → 0 < len ∧ len ≤ 1024 ∧ last = true) →
      (f.kind = 1 → len = f.data.length) → f.kind ∈ [1, 2] →
      let write := decide (f.kind = 1)
      let served := fun (P : State → Prop) => (write = true → Does (.remoteWrite l last) s P) ∧
        (write = false → Does (.remoteReadRequest l len) s P)
      let v := Served r l f
      (v.inWindow f.addr len = none → last = true → served (fun u => u = v.sendCell f.src f.part (.error f.tag))) ∧
      (∀ (p : Fin 8) ea, v.inWindow f.addr len = some (p.val, ea) →
        let i : InAcc := ⟨r.lnk.nextIn, f.src, f.tag, p, write, ea, len, if write then f.data else [], false, !last, false⟩
        let w := v.modLnk (fun k => { k with nextIn := r.lnk.nextIn + 1, inbound := [i] })
        (∀ b, (w.reach (.link p) p ea len write).1 = .wait b → served (fun u => u.lnk.inbound = [i] ∧ u.cores = s.cores ∧
          u.fab = s.fab)) ∧
        (∀ st, (w.reach (.link p) p ea len write).1 = .refused st → served (fun u => u.cores = s.cores ∧
          u.lnk.inbound = (if last then [] else [{ i with issued := true, bad := true }]) ∧ (last = true → u.lnk.queue = s.lnk.queue ++
            [⟨4, 2, f.src, s.node, p, 0, 0, .cells [.error f.tag], p, none, linkStop⟩]))) ∧
        (∀ a nr k, (w.reach (.link p) p ea len write).1 = .found (if nr = true then .near a else .sys a k) → served (fun u =>
          u.lnk.inbound = [{ i with issued := true }] ∧ u.cores = s.cores ∧
          Accesses s u (.inbound 0 i.id) write nr a len (if write then f.data else [])))))  ∧
    (∀ a : RemAcc, s.rxAt l = [f] → s.fab.rem = [a] → a.sent = true → a.done = false → a.node = f.src → s.lnk.inbound = [] →
      (f.kind = 3 → a.write = false → a.id % 65536 = f.tag → Does (.remoteReadResponse l) s (fun u =>
        u.fab = { s.fab with rem := [{ a with got := a.got ++ f.data, done := decide (a.len ≤ (a.got ++ f.data).length) }] } ∧
        (f.left = 1 → u.rxAt l = []) ∧ u.cores = s.cores)) ∧
      (∀ c t n, f.kind = 4 → 0 < f.left → a.write = true → a.owner = .write c t n →
        Does (.remoteWriteAck l (BitVec.ofNat 16 a.id)) s (fun u => u.fab = { s.fab with rem := [] } ∧ u.cores = s.cores)) ∧
      (∀ (c : Fin 32) k n, f.kind = 4 → 0 < f.left → a.owner = .stream c k n → (s.core c).seq.stop = none →
        Does (.remoteErrorCell l (BitVec.ofNat 16 a.id)) s (fun u => u.fab.rem = [] ∧ (u.core c).seq.stop = some 0x0806 ∧
          (u.core c).tile = (s.core c).tile)))

/-- Cells of other instances (R429, R498 to R501). A handle for a bound queue is appended and accepted, or refused and listed, and its
reply ends the put here; a chain-barrier arrival is counted at the root, whose last one sends every member its completion; a completion
is delivered to the job's cores; a divider proposal is kept for its job; a down notice is passed on once and ends the multi-instance
jobs that count a lost node; a restart cell resets the job's partition with the larger replay count. -/
def Obligations.CellsOfOtherInstancesTakeEffect : Prop :=
  ∀ (s : State) (l : Fin 5) (f : RxFrame) (cj : Half) (bar : BitVec 8) (ph : Half) (j : Job), s.rxCell l = some f → f.part < 8 →
    let v := Served s l f
    (∀ (i : Fin 64) (c : Fin 32) (t : Fin 4) (h : DWord) (p : Fin 8), f.part = p.val → (s.part p).hqs.length = 64 →
      ((s.hq p i).q.length < 32 → (s.hq p i).gets = [] → Does (.handleCell l (.put i c t h)) s (fun u => u.cores = s.cores ∧
        u.mesh = s.mesh ∧ u.hq p i = { s.hq p i with q := (s.hq p i).q ++ [h] } ∧ (∀ k : Fin 64, k ≠ i → u.hq p k = s.hq p k) ∧
        u.lnk = (v.sendCell f.src p (.hqReply c t true)).lnk)) ∧
      (32 ≤ (s.hq p i).q.length → Does (.handleCell l (.put i c t h)) s (fun u => u.cores = s.cores ∧
        u.hq p i = { s.hq p i with refused := (s.hq p i).refused ++ [(256 * (f.src + 1) + c.val, t.val)] } ∧
        u.lnk = (v.sendCell f.src p (.hqReply c t false)).lnk)) ∧
      (((s.core c).task t).wait = .hqPut i h false → (s.core c).live = true → ((s.core c).task t).st = .waiting →
        (s.core c).elm.wait = none → Does (.handleCell l (.reply c t true)) s (fun u =>
        u.lnk.hqInflight = s.lnk.hqInflight - 1 ∧ Woken (s.core c) (u.core c) t (fun _ => false) ∧
        NextPc (s.core c) (u.core c) t)) ∧
      (((s.core c).task t).wait = .hqPut i h true → (s.core c).live = true → ((s.core c).task t).st = .waiting →
        (s.core c).elm.wait = none → Does (.handleCell l (.space c t)) s (fun u =>
        Woken (s.core c) (u.core c) t (fun _ => false) ∧ ((u.core c).task t).pc = ((s.core c).task t).pc))) ∧
    (∀ e rest, s.lnk.cjob = e :: rest → e.2.getLsbD 0 = true → fld 15 0 e.1.toNat = cj.toNat →
      let m := fld 31 24 e.1.toNat + 1
      let first := fld 23 16 e.1.toNat
      (s.lnk.arrivals = [] → 1 < m → Does (.chainBarrierArrivalCell l cj bar ph) s (fun u =>
        u = v.modLnk (fun k => { k with arrivals := [(cj.toNat, bar.toNat, ph, f.src)] }))) ∧
      (∀ a, s.lnk.arrivals = [(cj.toNat, bar.toNat, ph, a)] → m = 2 → first = s.node → s.grid.jobs = [j] → j.multi.isSome = true →
        j.chainJob = cj.toNat → Does (.chainBarrierArrivalCell l cj bar ph) s (fun u => u.lnk.arrivals = [] ∧
          u.mesh = s.mesh ++ j.coreList.map (fun c => .barDone c bar.toNat) ∧
          u.lnk.queue = s.lnk.queue ++ [⟨4, 2, (first + 1) % 256, s.node, fld 3 1 e.2.toNat, 0, 0,
            .cells [.barDone cj.toNat bar.toNat ph], fld 3 1 e.2.toNat, none, linkStop⟩]))) ∧
    (s.grid.jobs = [j] → j.multi.isSome = true → j.chainJob = cj.toNat →
      Does (.chainBarrierCompletionCell l cj bar) s (fun u => u = v.sendAll (j.coreList.map (fun c => .barDone c bar.toNat)))) ∧
    (∀ div (tick : DWord), Does (.dividerProposalCell l cj div tick) s (fun u => u = v.modPwr (fun p =>
      { p with props := p.props ++ [⟨cj.toNat, f.src, div, tick.toNat, false⟩] }))) ∧
    (∀ n m, s.grid.jobs = [j] → j.multi = some m → s.fab.rem = [] → n ∉ s.lnk.noticed →
      (∀ k : Fin 4, (s.sub k).carries = decide (k.val = 3)) → l.val ≠ 3 →
      (j.phase = .running → j.status = 0 → memberOf m n = true → Does (.downNotice l [n]) s (fun u =>
        u.grid.jobs = [{ j with status := 0x1001 }] ∧ (∀ c ∈ j.coreList, (u.core c).seq.halted = true) ∧
        u.lnk.noticed = s.lnk.noticed ++ [n] ∧
        u.lnk.queue = s.lnk.queue ++ [⟨4, 2, (s.sub 3).peer, s.node, 0, 0, 0, .cells [.down [n]], 0, none, linkStop⟩])) ∧
      (memberOf m n = false → Does (.downNotice l [n]) s (fun u => u.grid.jobs = [j] ∧ u.cores = s.cores ∧
        u.lnk.noticed = s.lnk.noticed ++ [n]))) ∧
    (∀ n, s.grid.jobs = [j] → j.multi.isSome = true → j.chainJob = cj.toNat → s.inReset j.part = false → j.phase = .running →
      Does (.restartCell l cj n) s (fun u =>
        u.grid.jobs = [{ j with replays := max j.replays (n - 1), phase := .restart }] ∧
        u.flt.resets = s.flt.resets ++ [⟨j.part, false, false, [], []⟩] ∧
        ∀ c ∈ (s.part j.part).coreList, (u.core c).seq.halted = true))

/-! ## Start-up, the Almanac, power-down (R504 to R518, R533, R534) -/

/-- Block reset puts everything but the fuses' and the NVM's contents at its reset value (R534). The start-up events of R504 follow
one another: straps, fuses, PLL, boot and remap (with too few good cores the block halts), the NVM's mode and repair area, copies A and
B with their status, the one valid copy or the newer of two or else the wait for the host, the sections with the partition defaults,
and last the clearing of the memories, after which the block is ready and enabled ports wait for lock. -/
def Obligations.StartUpPhasesLeadToReady : Prop :=
  ∀ (s : State) (nvMode addr4 : Bool) (speed : BitVec 2) (f : Fuses) (mode : BitVec 4) (data : List Byte),
    let m := s.alm
    let good := (List.range s.cfg.phys).filter (fun x => !m.fuses.bad.contains x)
    let st := s.almCheck data
    Does .porAssert s (fun u => u.alm = { Almanac.reset with repair := { m.repair with dirty := false } } ∧ u.pending = s.pending ∧
      u.cfg = s.cfg ∧ u.lds.keys = List.replicate 8 (List.replicate 16 none) ∧ u.lds.kept = [] ∧
      u = { State.reset with cfg := s.cfg, pending := s.pending, free := s.free, alm := u.alm, tap := u.tap }) ∧
    (m.phase = .held → Does (.porDeassert nvMode speed) s (fun u =>
      u = { s with alm := { m with phase := .fuses, nvMode := nvMode, nvSpeed := speed.toNat } })) ∧
    (m.phase = .fuses → Does (.fuseSenseDone f) s (fun u => u.alm = { m with phase := .pll, fuses := f } ∧
      u.lds = { s.lds with secret := f.secret, lifecycle := f.lifecycle, secVersion := f.secVersion } ∧
      u.grid = { s.grid with bad := f.bad } ∧ u.cores = s.cores)) ∧
    (m.phase = .pll → Does .pllLock s (fun u => u = { s with alm := { m with phase := .boot } })) ∧
    (m.phase = .boot →
      (good.length < s.cfg.cores → Does .binnacleBootDone s (fun u => u = { s with alm := { m with
        st := .halted, phase := .done, copyA := (0x110B, false), copyB := (0x110B, false) } })) ∧
      (s.cfg.cores ≤ good.length → Does .binnacleBootDone s (fun u => u.alm = { m with st := .reading, phase := .discover } ∧
        (∀ i, i < s.cfg.cores → u.grid.remap[i]? = some ⟨good.getD i 0, 1, 0⟩) ∧ u.cores = s.cores))) ∧
    (m.phase = .discover → Does (.nvmDiscoveryDone mode addr4) s (fun u => u.alm = { m with
      phase := .copyA, mode := if m.nvMode then 4 else mode.toNat % 4, addr4 := addr4 && !m.nvMode } ∧
      u.flt.spareBank = m.repair.spareBank ∧ u.flt.ssSpare = m.repair.ssSpare)) ∧
    (m.phase = .copyA → Does (.copyReadDone data) s (fun u => u = { s with alm := { m with
      phase := .copyB, copyA := (st, !data.isEmpty), images := if st = 0 then [(0, data)] else [] } })) ∧
    (m.phase = .copyB → Does (.copyReadDone data) s (fun u => u.alm.copyB = (st, !data.isEmpty) ∧ u.cores = s.cores ∧
      (st ≠ 0 → m.images = [] → u.alm.st = .awaitHost) ∧
      (∀ k x, st ≠ 0 → m.images = [(k, x)] → u.alm.st = .applying ∧ u.alm.copy = k ∧ u.alm.image = x) ∧
      (st = 0 → m.images = [] → u.alm.st = .applying ∧ u.alm.copy = 1 ∧ u.alm.image = data) ∧
      (∀ x, st = 0 → m.images = [(0, x)] → u.alm.st = .applying ∧
        u.alm.copy = (if seqBefore (almSeq x) (almSeq data) then 1 else 0) ∧
        u.alm.image = (if seqBefore (almSeq x) (almSeq data) then data else x)))) ∧
    (m.phase = .apply → Does .sectionsApplied s (fun u => u.alm.phase = .clear ∧ u.alm.fwDigest = sha384 (almSect m.image 1) ∧
      (∀ g : Fin 7, g ≠ 4 → u.alm.agreed[g.val]? = some (agreedVersion (almSect m.image 5) g)) ∧
      (almWrites m.image = [] → (∀ c : Fin 32, (u.core c).tile = (s.core c).tile) ∧ u.pwr.cap = defaultCap s.cfg ∧ (u.part 0).cores = BitVec.ofNat 32 (2 ^ s.cfg.cores - 1) ∧
        (u.part 0).share = [1024, 1024, 1024, 1024] ∧ (u.part 0).ssUnits = 16 ∧
        ∀ p : Fin 8, p ≠ 0 → (u.part p).cores = 0#32 ∧ (u.part p).share = [0, 0, 0, 0]))) ∧
    (∀ d, m.phase = .clear → s.lds.dpriv = some d → LinksShape s → Does .chartClearDone s (fun u =>
      u.alm = { m with st := .ready, phase := .done } ∧ u.store = [] ∧ (∀ c : Fin 32, (u.core c).tile = []) ∧
      ∀ p : Fin 2, p.val < s.cfg.links → (s.lport (2 * p.val)).cfg.getLsbD 0 = true → (s.sub (2 * p.val)).st = .down →
        s.grid.watch ≠ .watch → (u.sub (2 * p.val)).st = .lock))

/-- The go of an Almanac operation reaches the port (R515 to R517). -/
abbrev TakesGo (s : State) (a : HostAcc) (op : Nat) : Prop :=
  s.portOpen = true ∧ a.full = true ∧ s.admitsFull a.mid = true ∧ a.size = 2#2 ∧ (a.data.toNat % 2 ^ 32).testBit 31 = true ∧
    fld 1 0 (a.data.toNat % 2 ^ 32) = op

/-- Almanac operations (R515, R516): a load takes a pushed image in await-host, a program or an activation reads one from system
memory; each ends with done and its result, is refused out of its state with 0x1109, and while one runs another go only sets overflow;
block reset and an activation clear every key slot and discard the kept reports (R471). A power-down request is answered with NACK while anything
runs, else the block prepares and acknowledges when every write is (R533). -/
def Obligations.AlmanacOperationsAndPowerDown : Prop :=
  ∀ (s : State) (a : HostAcc) (nvOk : Bool) (n : Nat),
    let m := s.alm
    let ends := fun (u : State) (r : Nat) => u.alm.busy = false ∧ u.alm.done = true ∧ u.alm.result = r ∧ u.alm.op = none
    let addr := addrPair m.srcLo m.srcHi
    let b := s.accsData .almanac
    let chk := if b.isEmpty then 0x1101 else (s.dropAccs .almanac).almCheck b
    let seqd := if chk ≠ 0 then chk else if seqBefore m.seq (almSeq b) then 0 else 0x110A
    Does .porAssert s (fun u => u.lds.anyKey = false ∧ u.lds.kept = []) ∧
    (TakesGo s a 0 →
      (m.busy = true → Does (.almLoad a) s (fun u => u = { s with alm := { m with overflow := true } })) ∧
      (m.busy = false → m.st ≠ .awaitHost → Does (.almLoad a) s (fun u => ends u 0x1109 ∧ u.alm.image = m.image)) ∧
      (m.busy = false → m.st = .awaitHost → Does (.almLoad a) s (fun u =>
        let x := s.store.read 0 m.len
        (s.almCheck x = 0 → ends u 0 ∧ u.alm.st = .applying ∧ u.alm.phase = .apply ∧ u.alm.copy = 2 ∧ u.alm.image = x) ∧
        (s.almCheck x ≠ 0 → ends u (if x.isEmpty then 0x1101 else s.almCheck x) ∧ u.alm.st = .awaitHost) ∧
        u.cores = s.cores ∧ u.store = s.store))) ∧
    (TakesGo s a 1 →
      (m.busy = false → m.st ≠ .ready → Does (.almProgram a) s (fun u => ends u 0x1109)) ∧
      (m.busy = false → m.st = .ready → 0 < m.len → Does (.almProgram a) s (fun u =>
        u.alm = { m with busy := true, op := some (.program m.len) } ∧
        Accesses s u .almanac false false addr (min m.len (1024 - addr % 1024)) []))) ∧
    (TakesGo s a 2 → m.busy = false →
      ((m.st ≠ .ready ∨ ∃ p : Fin 8, s.hasJob p = true) → Does (.almActivate a) s (fun u => ends u 0x1109 ∧ u.alm.st = m.st)) ∧
      (m.st = .ready → (∀ p : Fin 8, s.hasJob p = false) → 0 < m.len → Does (.almActivate a) s (fun u =>
        u.alm = { m with st := .activating, busy := true, op := some (.activate m.len) } ∧
        Accesses s u .almanac false false addr (min m.len (1024 - addr % 1024)) []))) ∧
    ((s.accsOf .almanac).all FabAcc.done = true →
      (m.op = some (.program n) → Does (.almOperationDone nvOk) s (fun u =>
        ends u (if seqd ≠ 0 then seqd else if nvOk then 0 else 0x1108) ∧ u.cores = s.cores)) ∧
      (m.op = some (.activate n) → Does (.almOperationDone nvOk) s (fun u => ends u seqd ∧ u.alm.st = .ready ∧
        (seqd = 0 → u.alm.fwDigest = sha384 (almSect b 1) ∧ u.lds.anyKey = false ∧ u.lds.kept = []) ∧
        (seqd ≠ 0 → u.lds = s.lds)))) ∧
    (s.pw.downReq = false → s.pw.preparing = false → s.pw.ack = false →
      (s.grid.jobs = [] → s.grid.disp = [] → m.busy = false → Does (.pwDownReq true) s (fun u =>
        u = { s with pw := { s.pw with downReq := true, preparing := true } })) ∧
      ((s.grid.jobs ≠ [] ∨ s.grid.disp ≠ [] ∨ m.busy = true) → Does (.pwDownReq true) s (fun u =>
        u = { s with pw := { s.pw with downReq := true, nack := true } }))) ∧
    Does (.pwDownReq false) s (fun u => u = { s with pw := { s.pw with downReq := false, nack := false } }) ∧
    (s.pw.preparing = true → (∀ x ∈ s.fab.accs, x.write = true → x.done = true) → Does .downReady s (fun u =>
      u.pw = { s.pw with preparing := false, ack := true } ∧ u.alm.repair = { m.repair with dirty := false } ∧
      u.cores = s.cores ∧ u.fab = s.fab))

/-! ## The fabric and near-memory ports and the test port (R521 to R524, R535) -/

/-- A read's beats gather until the last, when its owner has its bytes and its tag is free; an acknowledged write of a core is over
(R521, R522), and that of a completion record keeps its tick, the job's completion, past whose deadline a miss is counted (R43). An error on an access made for a job resets its partition; one made for none is issued once more after 1 µs and
abandoned at a second error, which counts (R524). The test port's controller moves with TST_TMS on rising edges and shows its data on
falling ones; IDCODE captures the configuration's code; an internal scan instruction that R474 does not lock is a fault, for the spec
gives it no effect (R535). -/
def Obligations.PortsBringResponsesAndScan : Prop :=
  (∀ (s : State) (a : FabAcc) (n : Nat) (data : List Byte), s.fab.accs = [a] → a.tag = some n → a.done = false → a.again = none →
    a.no < s.fab.next →
    let got := a.got ++ slice data 0 64
    (a.write = false →
      Does (.fabricReadResponse a.chan n data false false) s (fun u =>
        u = { s with fab := { s.fab with accs := [{ a with got := got }] } }) ∧
      (∀ c k i, a.owner = .stream c k i →
        Does (.fabricReadResponse a.chan n data true false) s (fun u => u = { s with noc := u.noc, fab := { s.fab with
          accs := [{ a with got := slice got (a.addr % 64) a.len, done := true, tag := none }] } }) ∧
        (∀ p : Fin 8, a.part = some p.val → s.inReset p = false → Does (.fabricReadResponse a.chan n data true true) s (fun u =>
          u.inReset p = true ∧ (∀ c ∈ (s.part p).coreList, (u.core c).seq.halted = true) ∧ ∀ y ∈ u.fab.accs, y.no ≠ a.no)))) ∧
    (a.write = true →
      (∀ c t i, a.owner = .write c t i → Does (.fabricWriteAck a.chan n false) s (fun u =>
        u = { s with noc := u.noc, fab := { s.fab with accs := [] } })) ∧
      (∀ (p : Fin 8) (x : Record) (j : Job), a.owner = .record p → s.grid.records = [x] → x.issued = some a.no → x.acked = none →
        x.job = true → x.part = p.val → s.grid.jobs = [j] → j.part = p.val → j.ring = x.ring → j.phase = .record → x.ends j = true →
        Does (.fabricWriteAck a.chan n false) s (fun u => u.grid.records = [{ x with acked := some s.tick }] ∧ u.cores = s.cores ∧
          (u.part p).missCnt = (if j.deadline ≠ 0 ∧ j.bell + j.deadline ≤ s.tick then sat32 (s.part p).missCnt 1
            else (s.part p).missCnt))) ∧
      (a.owner = .logbook → a.part = none →
        (a.retried = false → Does (.fabricWriteAck a.chan n true) s (fun u => u.cores = s.cores ∧
          ∃ y ∈ u.fab.accs, y.no = a.no ∧ y.tag = none ∧ y.again = some (s.tick + 100) ∧ y.data = a.data)) ∧
        (a.retried = true → Does (.fabricWriteAck a.chan n true) s (fun u => u.cores = s.cores ∧
          u.fab.errCnt = sat32 s.fab.errCnt 1 ∧ ∀ y ∈ u.fab.accs, y.no ≠ a.no))))) ∧
  (∀ (s : State) (a : FabAcc) (t : Nat), s.fab.accs = [a] → a.tag = none → a.retried = false → a.again = some t → t ≤ s.tick →
    Does (.fabricRetry a.no) s (fun u => u.cores = s.cores ∧
      ∃ y ∈ u.fab.accs, y.no = a.no ∧ y.again = none ∧ y.retried = true ∧ y.data = a.data ∧ y.addr = a.addr)) ∧
  (∀ (s : State) (rise tms tdi : Bool),
    let t := s.tap
    let id := 0x3 * 2 ^ 28 + partNumber s.cfg * 2 ^ 12 + t.mfr % 2 ^ 11 * 2 + 1
    Does (.testPortTck rise tms tdi true) s (fun u => u = { s with tap := { t with st := .reset, ir := none, tdo := false } }) ∧
    (t.internal = true → s.scanLocked = false → exec (.testPortTck rise tms tdi false) s = .fault .internalScan) ∧
    ((t.internal = false ∨ s.scanLocked = true) →
      Does (.testPortTck true tms tdi false) s (fun u => u = { s with tap := u.tap } ∧ u.tap.st = t.st.next tms ∧
        (t.st = .captureDr → t.ir = none → u.tap.dr = (List.range 32).map (fun i => id.testBit i)) ∧
        (t.st = .shiftDr → u.tap.dr = t.dr.drop 1 ++ [tdi]) ∧ (t.st = .shiftIr → u.tap.irShift = t.irShift.drop 1 ++ [tdi])) ∧
      Does (.testPortTck false tms tdi false) s (fun u => u = { s with tap := u.tap } ∧ u.tap.st = t.st ∧
        (t.st = .shiftDr → u.tap.tdo = t.dr.headD false ∧ u.tap.dr = t.dr) ∧
        (t.st = .updateIr → u.tap.ir = some t.irShift))))

/-! ## Reset and invariants -/

/-- Registers with the reset values their tables give on SD3-32, by page (Table 18.11), offset and value; CORE pages of every core. -/
def resetValues : List (Nat × Nat × Nat) :=
  [(0x0, 0x0, 0x00030200), (0x0, 0x10, 0), (0x0, 0x28, 0), (0x3, 0x8, 0xFA), (0x5, 0x0, 0x74), (0x6, 0x0, 0x240102),
   (0x7, 0x10, 0xFF00), (0x7, 0x20, 0x1000), (0x8, 0x4, 0x8000), (0x9, 0x0, 0x403), (0xB, 0x0, 0x20104), (0xC, 0x0, 0x18)]

def coreResetValues : List (Nat × Nat) :=
  [(0x0700, 0x1000), (0x0A00, 0xFFFFFFFF), (0x0A1C, 0xFFFFFFFF), (0x0C00, 0x16840)]

/-- After reset the registers read the values the spec gives, the on-chip memories read 0 (the model's choice, log 7), and the
memories hold their canonical form; no packet, access, job, command or
doorbell is in the block, and no core runs. -/
def Obligations.ResetLeavesTheSpecValues : Prop :=
  (∀ e ∈ resetValues, State.reset.regRead e.1 e.2.1 = e.2.2) ∧
  (∀ (c : Fin 32), ∀ e ∈ coreResetValues, State.reset.regRead (0x100 + c.val) e.1 = e.2) ∧
  memOk State.reset = true ∧ (∀ a, State.reset.store.byte a = 0#8) ∧
  (∀ (c : Fin 32) (a : Nat), (State.reset.core c).tile.byte a = 0#8 ∧ (State.reset.core c).live = false) ∧
  State.reset.mesh = [] ∧ State.reset.fab.accs = [] ∧ State.reset.grid.jobs = [] ∧ State.reset.grid.disp = [] ∧
  State.reset.pending = []

/-- Every step keeps the on-chip memories in their canonical form, so that equal memories are equal data. -/
def Obligations.StepsKeepMemoriesCanonical : Prop :=
  ∀ s t : State, memOk s = true → step s = .next t → memOk t = true

/-- No command touches the queue's rest or the configuration: what it leaves has the same waiting commands and the same
configuration. -/
def Obligations.CommandsLeaveQueueAndConfiguration : Prop :=
  ∀ (i : Instr) (s t : State), exec i s = .next t → t.pending = s.pending ∧ t.cfg = s.cfg
end

