-- ==== Sys2Proof/Laws/State.lean ====
section
/-! SUPPORT. Field lemmas of the state's updates, true by unfolding: no later proof unfolds a record update. -/

namespace Sys2Proof.Machine

variable (s : State)

@[simp] theorem State.send_cfg (p : Pkt) : (s.send p).cfg = s.cfg := rfl
@[simp] theorem State.send_clk (p : Pkt) : (s.send p).clk = s.clk := rfl
@[simp] theorem State.send_cores (p : Pkt) : (s.send p).cores = s.cores := rfl
@[simp] theorem State.send_parts (p : Pkt) : (s.send p).parts = s.parts := rfl
@[simp] theorem State.send_grid (p : Pkt) : (s.send p).grid = s.grid := rfl
@[simp] theorem State.send_store (p : Pkt) : (s.send p).store = s.store := rfl
@[simp] theorem State.send_storeSeal (p : Pkt) : (s.send p).storeSeal = s.storeSeal := rfl
@[simp] theorem State.send_fab (p : Pkt) : (s.send p).fab = s.fab := rfl
@[simp] theorem State.send_cht (p : Pkt) : (s.send p).cht = s.cht := rfl
@[simp] theorem State.send_lds (p : Pkt) : (s.send p).lds = s.lds := rfl
@[simp] theorem State.send_lnk (p : Pkt) : (s.send p).lnk = s.lnk := rfl
@[simp] theorem State.send_flt (p : Pkt) : (s.send p).flt = s.flt := rfl
@[simp] theorem State.send_pwr (p : Pkt) : (s.send p).pwr = s.pwr := rfl
@[simp] theorem State.send_itk (p : Pkt) : (s.send p).itk = s.itk := rfl
@[simp] theorem State.send_alm (p : Pkt) : (s.send p).alm = s.alm := rfl
@[simp] theorem State.send_tap (p : Pkt) : (s.send p).tap = s.tap := rfl
@[simp] theorem State.send_pw (p : Pkt) : (s.send p).pw = s.pw := rfl
@[simp] theorem State.send_fresh (p : Pkt) : (s.send p).fresh = s.fresh := rfl
@[simp] theorem State.send_mesh (p : Pkt) : (s.send p).mesh = s.mesh ++ [p] := rfl
@[simp] theorem State.send_noc (p : Pkt) : (s.send p).noc = { s.noc with flights := s.noc.flights ++ [s.flightOf p] } := rfl
@[simp] theorem State.send_reads (p : Pkt) : (s.send p).reads = s.reads := rfl
@[simp] theorem State.send_free (p : Pkt) : (s.send p).free = s.free := rfl
@[simp] theorem State.send_pending (p : Pkt) : (s.send p).pending = s.pending := rfl

@[simp] theorem State.sendAll_cfg (ps : List Pkt) : (s.sendAll ps).cfg = s.cfg := rfl
@[simp] theorem State.sendAll_clk (ps : List Pkt) : (s.sendAll ps).clk = s.clk := rfl
@[simp] theorem State.sendAll_cores (ps : List Pkt) : (s.sendAll ps).cores = s.cores := rfl
@[simp] theorem State.sendAll_parts (ps : List Pkt) : (s.sendAll ps).parts = s.parts := rfl
@[simp] theorem State.sendAll_grid (ps : List Pkt) : (s.sendAll ps).grid = s.grid := rfl
@[simp] theorem State.sendAll_store (ps : List Pkt) : (s.sendAll ps).store = s.store := rfl
@[simp] theorem State.sendAll_storeSeal (ps : List Pkt) : (s.sendAll ps).storeSeal = s.storeSeal := rfl
@[simp] theorem State.sendAll_fab (ps : List Pkt) : (s.sendAll ps).fab = s.fab := rfl
@[simp] theorem State.sendAll_cht (ps : List Pkt) : (s.sendAll ps).cht = s.cht := rfl
@[simp] theorem State.sendAll_lds (ps : List Pkt) : (s.sendAll ps).lds = s.lds := rfl
@[simp] theorem State.sendAll_lnk (ps : List Pkt) : (s.sendAll ps).lnk = s.lnk := rfl
@[simp] theorem State.sendAll_flt (ps : List Pkt) : (s.sendAll ps).flt = s.flt := rfl
@[simp] theorem State.sendAll_pwr (ps : List Pkt) : (s.sendAll ps).pwr = s.pwr := rfl
@[simp] theorem State.sendAll_itk (ps : List Pkt) : (s.sendAll ps).itk = s.itk := rfl
@[simp] theorem State.sendAll_alm (ps : List Pkt) : (s.sendAll ps).alm = s.alm := rfl
@[simp] theorem State.sendAll_tap (ps : List Pkt) : (s.sendAll ps).tap = s.tap := rfl
@[simp] theorem State.sendAll_pw (ps : List Pkt) : (s.sendAll ps).pw = s.pw := rfl
@[simp] theorem State.sendAll_fresh (ps : List Pkt) : (s.sendAll ps).fresh = s.fresh := rfl
@[simp] theorem State.sendAll_mesh (ps : List Pkt) : (s.sendAll ps).mesh = s.mesh ++ ps := rfl
@[simp] theorem State.sendAll_noc (ps : List Pkt) :
    (s.sendAll ps).noc = { s.noc with flights := s.noc.flights ++ ps.map s.flightOf } := rfl
@[simp] theorem State.sendAll_reads (ps : List Pkt) : (s.sendAll ps).reads = s.reads := rfl
@[simp] theorem State.sendAll_free (ps : List Pkt) : (s.sendAll ps).free = s.free := rfl
@[simp] theorem State.sendAll_pending (ps : List Pkt) : (s.sendAll ps).pending = s.pending := rfl

@[simp] theorem State.modGrid_cfg (f : Grid → Grid) : (s.modGrid f).cfg = s.cfg := rfl
@[simp] theorem State.modGrid_clk (f : Grid → Grid) : (s.modGrid f).clk = s.clk := rfl
@[simp] theorem State.modGrid_cores (f : Grid → Grid) : (s.modGrid f).cores = s.cores := rfl
@[simp] theorem State.modGrid_parts (f : Grid → Grid) : (s.modGrid f).parts = s.parts := rfl
@[simp] theorem State.modGrid_grid (f : Grid → Grid) : (s.modGrid f).grid = f s.grid := rfl
@[simp] theorem State.modGrid_store (f : Grid → Grid) : (s.modGrid f).store = s.store := rfl
@[simp] theorem State.modGrid_storeSeal (f : Grid → Grid) : (s.modGrid f).storeSeal = s.storeSeal := rfl
@[simp] theorem State.modGrid_fab (f : Grid → Grid) : (s.modGrid f).fab = s.fab := rfl
@[simp] theorem State.modGrid_cht (f : Grid → Grid) : (s.modGrid f).cht = s.cht := rfl
@[simp] theorem State.modGrid_lds (f : Grid → Grid) : (s.modGrid f).lds = s.lds := rfl
@[simp] theorem State.modGrid_lnk (f : Grid → Grid) : (s.modGrid f).lnk = s.lnk := rfl
@[simp] theorem State.modGrid_flt (f : Grid → Grid) : (s.modGrid f).flt = s.flt := rfl
@[simp] theorem State.modGrid_pwr (f : Grid → Grid) : (s.modGrid f).pwr = s.pwr := rfl
@[simp] theorem State.modGrid_itk (f : Grid → Grid) : (s.modGrid f).itk = s.itk := rfl
@[simp] theorem State.modGrid_alm (f : Grid → Grid) : (s.modGrid f).alm = s.alm := rfl
@[simp] theorem State.modGrid_tap (f : Grid → Grid) : (s.modGrid f).tap = s.tap := rfl
@[simp] theorem State.modGrid_pw (f : Grid → Grid) : (s.modGrid f).pw = s.pw := rfl
@[simp] theorem State.modGrid_fresh (f : Grid → Grid) : (s.modGrid f).fresh = s.fresh := rfl
@[simp] theorem State.modGrid_mesh (f : Grid → Grid) : (s.modGrid f).mesh = s.mesh := rfl
@[simp] theorem State.modGrid_noc (f : Grid → Grid) : (s.modGrid f).noc = s.noc := rfl
@[simp] theorem State.modGrid_reads (f : Grid → Grid) : (s.modGrid f).reads = s.reads := rfl
@[simp] theorem State.modGrid_free (f : Grid → Grid) : (s.modGrid f).free = s.free := rfl
@[simp] theorem State.modGrid_pending (f : Grid → Grid) : (s.modGrid f).pending = s.pending := rfl

@[simp] theorem State.modCht_cfg (f : ChartUnit → ChartUnit) : (s.modCht f).cfg = s.cfg := rfl
@[simp] theorem State.modCht_clk (f : ChartUnit → ChartUnit) : (s.modCht f).clk = s.clk := rfl
@[simp] theorem State.modCht_cores (f : ChartUnit → ChartUnit) : (s.modCht f).cores = s.cores := rfl
@[simp] theorem State.modCht_parts (f : ChartUnit → ChartUnit) : (s.modCht f).parts = s.parts := rfl
@[simp] theorem State.modCht_grid (f : ChartUnit → ChartUnit) : (s.modCht f).grid = s.grid := rfl
@[simp] theorem State.modCht_store (f : ChartUnit → ChartUnit) : (s.modCht f).store = s.store := rfl
@[simp] theorem State.modCht_storeSeal (f : ChartUnit → ChartUnit) : (s.modCht f).storeSeal = s.storeSeal := rfl
@[simp] theorem State.modCht_fab (f : ChartUnit → ChartUnit) : (s.modCht f).fab = s.fab := rfl
@[simp] theorem State.modCht_cht (f : ChartUnit → ChartUnit) : (s.modCht f).cht = f s.cht := rfl
@[simp] theorem State.modCht_lds (f : ChartUnit → ChartUnit) : (s.modCht f).lds = s.lds := rfl
@[simp] theorem State.modCht_lnk (f : ChartUnit → ChartUnit) : (s.modCht f).lnk = s.lnk := rfl
@[simp] theorem State.modCht_flt (f : ChartUnit → ChartUnit) : (s.modCht f).flt = s.flt := rfl
@[simp] theorem State.modCht_pwr (f : ChartUnit → ChartUnit) : (s.modCht f).pwr = s.pwr := rfl
@[simp] theorem State.modCht_itk (f : ChartUnit → ChartUnit) : (s.modCht f).itk = s.itk := rfl
@[simp] theorem State.modCht_alm (f : ChartUnit → ChartUnit) : (s.modCht f).alm = s.alm := rfl
@[simp] theorem State.modCht_tap (f : ChartUnit → ChartUnit) : (s.modCht f).tap = s.tap := rfl
@[simp] theorem State.modCht_pw (f : ChartUnit → ChartUnit) : (s.modCht f).pw = s.pw := rfl
@[simp] theorem State.modCht_fresh (f : ChartUnit → ChartUnit) : (s.modCht f).fresh = s.fresh := rfl
@[simp] theorem State.modCht_mesh (f : ChartUnit → ChartUnit) : (s.modCht f).mesh = s.mesh := rfl
@[simp] theorem State.modCht_noc (f : ChartUnit → ChartUnit) : (s.modCht f).noc = s.noc := rfl
@[simp] theorem State.modCht_reads (f : ChartUnit → ChartUnit) : (s.modCht f).reads = s.reads := rfl
@[simp] theorem State.modCht_free (f : ChartUnit → ChartUnit) : (s.modCht f).free = s.free := rfl
@[simp] theorem State.modCht_pending (f : ChartUnit → ChartUnit) : (s.modCht f).pending = s.pending := rfl

@[simp] theorem State.modCore_cfg (c : Nat) (f : Core → Core) : (s.modCore c f).cfg = s.cfg := by
  unfold State.modCore; split <;> rfl
@[simp] theorem State.modCore_clk (c : Nat) (f : Core → Core) : (s.modCore c f).clk = s.clk := by
  unfold State.modCore; split <;> rfl
@[simp] theorem State.modCore_parts (c : Nat) (f : Core → Core) : (s.modCore c f).parts = s.parts := by
  unfold State.modCore; split <;> rfl
@[simp] theorem State.modCore_grid (c : Nat) (f : Core → Core) : (s.modCore c f).grid = s.grid := by
  unfold State.modCore; split <;> rfl
@[simp] theorem State.modCore_store (c : Nat) (f : Core → Core) : (s.modCore c f).store = s.store := by
  unfold State.modCore; split <;> rfl
@[simp] theorem State.modCore_storeSeal (c : Nat) (f : Core → Core) : (s.modCore c f).storeSeal = s.storeSeal := by
  unfold State.modCore; split <;> rfl
@[simp] theorem State.modCore_fab (c : Nat) (f : Core → Core) : (s.modCore c f).fab = s.fab := by
  unfold State.modCore; split <;> rfl
@[simp] theorem State.modCore_cht (c : Nat) (f : Core → Core) : (s.modCore c f).cht = s.cht := by
  unfold State.modCore; split <;> rfl
@[simp] theorem State.modCore_lds (c : Nat) (f : Core → Core) : (s.modCore c f).lds = s.lds := by
  unfold State.modCore; split <;> rfl
@[simp] theorem State.modCore_lnk (c : Nat) (f : Core → Core) : (s.modCore c f).lnk = s.lnk := by
  unfold State.modCore; split <;> rfl
@[simp] theorem State.modCore_flt (c : Nat) (f : Core → Core) : (s.modCore c f).flt = s.flt := by
  unfold State.modCore; split <;> rfl
@[simp] theorem State.modCore_pwr (c : Nat) (f : Core → Core) : (s.modCore c f).pwr = s.pwr := by
  unfold State.modCore; split <;> rfl
@[simp] theorem State.modCore_itk (c : Nat) (f : Core → Core) : (s.modCore c f).itk = s.itk := by
  unfold State.modCore; split <;> rfl
@[simp] theorem State.modCore_alm (c : Nat) (f : Core → Core) : (s.modCore c f).alm = s.alm := by
  unfold State.modCore; split <;> rfl
@[simp] theorem State.modCore_tap (c : Nat) (f : Core → Core) : (s.modCore c f).tap = s.tap := by
  unfold State.modCore; split <;> rfl
@[simp] theorem State.modCore_pw (c : Nat) (f : Core → Core) : (s.modCore c f).pw = s.pw := by
  unfold State.modCore; split <;> rfl
@[simp] theorem State.modCore_fresh (c : Nat) (f : Core → Core) : (s.modCore c f).fresh = s.fresh := by
  unfold State.modCore; split <;> rfl
@[simp] theorem State.modCore_mesh (c : Nat) (f : Core → Core) : (s.modCore c f).mesh = s.mesh := by
  unfold State.modCore; split <;> rfl
@[simp] theorem State.modCore_noc (c : Nat) (f : Core → Core) : (s.modCore c f).noc = s.noc := by
  unfold State.modCore; split <;> rfl
@[simp] theorem State.modCore_reads (c : Nat) (f : Core → Core) : (s.modCore c f).reads = s.reads := by
  unfold State.modCore; split <;> rfl
@[simp] theorem State.modCore_free (c : Nat) (f : Core → Core) : (s.modCore c f).free = s.free := by
  unfold State.modCore; split <;> rfl
@[simp] theorem State.modCore_pending (c : Nat) (f : Core → Core) : (s.modCore c f).pending = s.pending := by
  unfold State.modCore; split <;> rfl

@[simp] theorem State.modPart_cfg (c : Nat) (f : Part → Part) : (s.modPart c f).cfg = s.cfg := by
  unfold State.modPart; split <;> rfl
@[simp] theorem State.modPart_clk (c : Nat) (f : Part → Part) : (s.modPart c f).clk = s.clk := by
  unfold State.modPart; split <;> rfl
@[simp] theorem State.modPart_cores (c : Nat) (f : Part → Part) : (s.modPart c f).cores = s.cores := by
  unfold State.modPart; split <;> rfl
@[simp] theorem State.modPart_grid (c : Nat) (f : Part → Part) : (s.modPart c f).grid = s.grid := by
  unfold State.modPart; split <;> rfl
@[simp] theorem State.modPart_store (c : Nat) (f : Part → Part) : (s.modPart c f).store = s.store := by
  unfold State.modPart; split <;> rfl
@[simp] theorem State.modPart_storeSeal (c : Nat) (f : Part → Part) : (s.modPart c f).storeSeal = s.storeSeal := by
  unfold State.modPart; split <;> rfl
@[simp] theorem State.modPart_fab (c : Nat) (f : Part → Part) : (s.modPart c f).fab = s.fab := by
  unfold State.modPart; split <;> rfl
@[simp] theorem State.modPart_cht (c : Nat) (f : Part → Part) : (s.modPart c f).cht = s.cht := by
  unfold State.modPart; split <;> rfl
@[simp] theorem State.modPart_lds (c : Nat) (f : Part → Part) : (s.modPart c f).lds = s.lds := by
  unfold State.modPart; split <;> rfl
@[simp] theorem State.modPart_lnk (c : Nat) (f : Part → Part) : (s.modPart c f).lnk = s.lnk := by
  unfold State.modPart; split <;> rfl
@[simp] theorem State.modPart_flt (c : Nat) (f : Part → Part) : (s.modPart c f).flt = s.flt := by
  unfold State.modPart; split <;> rfl
@[simp] theorem State.modPart_pwr (c : Nat) (f : Part → Part) : (s.modPart c f).pwr = s.pwr := by
  unfold State.modPart; split <;> rfl
@[simp] theorem State.modPart_itk (c : Nat) (f : Part → Part) : (s.modPart c f).itk = s.itk := by
  unfold State.modPart; split <;> rfl
@[simp] theorem State.modPart_alm (c : Nat) (f : Part → Part) : (s.modPart c f).alm = s.alm := by
  unfold State.modPart; split <;> rfl
@[simp] theorem State.modPart_tap (c : Nat) (f : Part → Part) : (s.modPart c f).tap = s.tap := by
  unfold State.modPart; split <;> rfl
@[simp] theorem State.modPart_pw (c : Nat) (f : Part → Part) : (s.modPart c f).pw = s.pw := by
  unfold State.modPart; split <;> rfl
@[simp] theorem State.modPart_fresh (c : Nat) (f : Part → Part) : (s.modPart c f).fresh = s.fresh := by
  unfold State.modPart; split <;> rfl
@[simp] theorem State.modPart_mesh (c : Nat) (f : Part → Part) : (s.modPart c f).mesh = s.mesh := by
  unfold State.modPart; split <;> rfl
@[simp] theorem State.modPart_noc (c : Nat) (f : Part → Part) : (s.modPart c f).noc = s.noc := by
  unfold State.modPart; split <;> rfl
@[simp] theorem State.modPart_reads (c : Nat) (f : Part → Part) : (s.modPart c f).reads = s.reads := by
  unfold State.modPart; split <;> rfl
@[simp] theorem State.modPart_free (c : Nat) (f : Part → Part) : (s.modPart c f).free = s.free := by
  unfold State.modPart; split <;> rfl
@[simp] theorem State.modPart_pending (c : Nat) (f : Part → Part) : (s.modPart c f).pending = s.pending := by
  unfold State.modPart; split <;> rfl

end Sys2Proof.Machine
end

