-- ==== Sys2Proof/Laws/Core.lean ====
section
/-! SUPPORT. Reading a core or a partition after a change; what a step of one core does to the state; what the issue of an
instruction does to its core. -/

namespace Sys2Proof.Machine

/-! ## Parts of the state -/

theorem State.core_eq (s : State) (c : Fin 32) : s.core c = s.cores[c] := by
  simp [State.core, List.getD_eq_getElem?_getD]

@[simp] theorem State.core_modCore (s : State) (c : Fin 32) (f : Core → Core) : (s.modCore c f).core c = f (s.core c) := by
  simp [State.core_eq, State.modCore]

theorem State.core_modCore_ne (s : State) (c d : Fin 32) (f : Core → Core) (h : d ≠ c) :
    (s.modCore c f).core d = s.core d := by
  have : c.val ≠ d.val := fun e => h (Fin.ext e.symm)
  simp [State.core_eq, State.modCore, this]

theorem State.part_eq (s : State) (p : Fin 8) : s.part p = s.parts[p] := by
  simp [State.part, List.getD_eq_getElem?_getD]

@[simp] theorem State.part_modPart (s : State) (p : Fin 8) (f : Part → Part) : (s.modPart p f).part p = f (s.part p) := by
  simp [State.part_eq, State.modPart]

theorem State.part_modPart_ne (s : State) (p d : Fin 8) (f : Part → Part) (h : d ≠ p) :
    (s.modPart p f).part d = s.part d := by
  have : p.val ≠ d.val := fun e => h (Fin.ext e.symm)
  simp [State.part_eq, State.modPart, this]

@[simp] theorem State.core_modPart (s : State) (p : Nat) (f : Part → Part) (c : Nat) : (s.modPart p f).core c = s.core c := by
  simp [State.core]

@[simp] theorem State.part_modCore (s : State) (c : Nat) (f : Core → Core) (p : Nat) : (s.modCore c f).part p = s.part p := by
  simp [State.part]

theorem State.onlyCore_modCore (s : State) (c : Fin 32) (f : Core → Core) : OnlyCore s (s.modCore c f) c := by
  refine ⟨?_, fun d h => s.core_modCore_ne c d f h⟩
  unfold State.modCore
  split <;> rfl

/-- A step of one core that does not stop it changes that core alone. -/
theorem State.onCore_of_stop (s : State) (c : Fin 32) (f : Core → Core)
    (h : (s.core c).seq.stop.isSome ∨ (f (s.core c)).seq.stop = none) : s.onCore c f = s.modCore c f := by
  unfold State.onCore
  simp only [State.core_modCore]
  split
  · rename_i h1 h2
    rcases h with h | h
    · rw [h1] at h; cases h
    · rw [h2] at h; cases h
  · rfl

/-! ## Tasks -/

@[simp] theorem Core.task_setTask (c : Core) (t : Fin 4) (k : Task) : (c.setTask t k).task t = k := by
  simp [Core.task, Core.setTask]

theorem Core.task_setTask_ne (c : Core) (t v : Fin 4) (k : Task) (h : v ≠ t) : (c.setTask t k).task v = c.task v := by
  have : t.val ≠ v.val := fun e => h (Fin.ext e.symm)
  simp [Core.task, Core.setTask, this]

@[simp] theorem Core.task_modTask (c : Core) (t : Fin 4) (f : Task → Task) : (c.modTask t f).task t = f (c.task t) := by
  simp [Core.modTask]

theorem Core.task_modTask_ne (c : Core) (t v : Fin 4) (f : Task → Task) (h : v ≠ t) :
    (c.modTask t f).task v = c.task v := by
  simp [Core.modTask, Core.task_setTask_ne, h]

@[simp] theorem Core.seq_setTask (c : Core) (t : Fin 4) (k : Task) : (c.setTask t k).seq = c.seq := rfl
@[simp] theorem Core.seq_modTask (c : Core) (t : Fin 4) (f : Task → Task) : (c.modTask t f).seq = c.seq := rfl
@[simp] theorem Core.task_spend (c : Core) (n m : Nat) (t : Fin 4) : (c.spend n m).task t = c.task t := rfl
@[simp] theorem Core.task_counted (c : Core) (t : Fin 4) : c.counted.task t = c.task t := rfl
@[simp] theorem Core.task_done (c : Core) (t : Fin 4) : (c.done t).task t = (c.task t).advance := by
  simp [Core.done]

theorem Core.task_done_ne (c : Core) (t v : Fin 4) (h : v ≠ t) : (c.done t).task v = c.task v := by
  simp [Core.done, Core.task_modTask_ne, h]

@[simp] theorem Core.seq_spend_stop (c : Core) (n m : Nat) : (c.spend n m).seq.stop = c.seq.stop := rfl
@[simp] theorem Core.seq_counted_stop (c : Core) : c.counted.seq.stop = c.seq.stop := rfl
@[simp] theorem Core.seq_done_stop (c : Core) (t : Fin 4) : (c.done t).seq.stop = c.seq.stop := rfl

@[simp] theorem Task.reg_setReg (k : Task) (n : BitVec 5) (v : Word) (u : Nat) : (k.setReg n v u).reg n = v := by
  simp [Task.reg, Task.setReg]

theorem Task.reg_setReg_ne (k : Task) (n m : BitVec 5) (v : Word) (u : Nat) (h : m ≠ n) :
    (k.setReg n v u).reg m = k.reg m := by
  have : n.toNat ≠ m.toNat := fun e => h (BitVec.eq_of_toNat_eq e.symm)
  simp [Task.reg, Task.setReg, this]

@[simp] theorem Task.usable_setReg (k : Task) (n : BitVec 5) (v : Word) (u : Nat) : (k.setReg n v u).usable n = u := by
  simp [Task.usable, Task.setReg]

@[simp] theorem Task.pred_setReg (k : Task) (n : BitVec 5) (v : Word) (u : Nat) (m : BitVec 3) :
    (k.setReg n v u).pred m = k.pred m := rfl

@[simp] theorem Task.reg_setPred (k : Task) (n : BitVec 3) (v : Bool) (m : BitVec 5) : (k.setPred n v).reg m = k.reg m := by
  unfold Task.setPred
  split <;> rfl

theorem Task.pred_setPred (k : Task) (n : BitVec 3) (v : Bool) : (k.setPred n v).pred n = (decide (n = 0#3) || v) := by
  unfold Task.setPred
  split
  · simp [Task.pred, *]
  · simp [Task.pred, *]

theorem Task.pred_setPred_ne (k : Task) (n m : BitVec 3) (v : Bool) (h : m ≠ n) : (k.setPred n v).pred m = k.pred m := by
  have : n.toNat ≠ m.toNat := fun e => h (BitVec.eq_of_toNat_eq e.symm)
  unfold Task.setPred
  split
  · rfl
  · simp [Task.pred, this]

@[simp] theorem Task.reg_advance (k : Task) (n : BitVec 5) : k.advance.reg n = k.reg n := rfl
@[simp] theorem Task.pred_advance (k : Task) (n : BitVec 3) : k.advance.pred n = k.pred n := rfl
@[simp] theorem Task.usable_advance (k : Task) (n : BitVec 5) : k.advance.usable n = k.usable n := rfl

/-! ## Issue -/

theorem Core.issuer_live {q : Core} {t : Fin 4} (h : q.issuer = some t) :
    q.seq.started = true ∧ q.seq.stop = none ∧ q.seq.running = some t := by
  unfold Core.issuer Core.live at h
  split at h
  · cases h
  · rename_i h1
    split at h
    · cases h
    · rename_i u hu
      dsimp only at h
      split at h
      · injection h with h
        subst h
        simp at h1
        exact ⟨h1.1.1.1.1, h1.1.1.1.2, hu⟩
      · cases h

theorem Core.issue_ready {l : List Nat} {n : Nat} (h : ∀ x ∈ l, x ≤ n) (m : Nat) (hm : m ≤ n) : l.foldl max m ≤ n := by
  induction l generalizing m with
  | nil => exact hm
  | cons x l ih => exact ih (fun y hy => h y (List.mem_cons_of_mem _ hy)) _ (by have := h x (List.mem_cons_self ..); omega)

/-- An instruction that issues with its registers usable and its guard true has its effect at once. -/
theorem Core.issue_of_issues {q : Core} {t : Fin 4} {f : Fields} {reads : List (BitVec 5)} (h : Issues q t f reads)
    (eff : Core → Fin 4 → Core) : q.issue f none reads eff = eff (q.spend 0 0) t := by
  obtain ⟨h1, h2, h3, h4, h5⟩ := h
  have hr : (reads.map (q.task t).usable).foldl max 0 - q.seq.cyc = 0 := by
    have := Core.issue_ready (l := reads.map (q.task t).usable) (n := q.seq.cyc) (by simpa using h4) 0 (Nat.zero_le _)
    omega
  unfold Core.issue
  simp only [h1]
  simp [Nat.not_le.mpr h2, hr, h3]
  intro x hx ho
  simp [h5 x hx] at ho

/-- A core that issues is not stopped. -/
theorem stop_of_issues {q : Core} {t : Fin 4} {f : Fields} {reads : List (BitVec 5)} (h : Issues q t f reads) :
    q.seq.stop = none := (Core.issuer_live h.1).2.1

/-- An instruction that does not stop its core: the next state differs in that core alone, which is r. -/
theorem does_of_core {i : Instr} {s : State} {c : Fin 32} {F : Core → Core} {r : Core}
    (hi : exec i s = .next (s.onCore c F)) (hF : F (s.core c) = r) (hr : r.seq.stop = none) {P : State → Prop}
    (hP : ∀ u, OnlyCore s u c → u.core c = r → P u) : Does i s P := by
  refine ⟨_, hi, ?_⟩
  rw [State.onCore_of_stop _ _ _ (.inr (by rw [hF]; exact hr))]
  exact hP _ (State.onlyCore_modCore _ _ _) (by simp [hF])

/-- An instruction that issues and does not stop its core. -/
theorem does_of_issue {i : Instr} {s : State} {c : Fin 32} {F : Core → Core} {t : Fin 4} {f : Fields} {bad : Option Nat}
    {reads : List (BitVec 5)} {eff : Core → Fin 4 → Core} (h : Issues (s.core c) t f reads)
    (hi : exec i s = .next (s.onCore c F)) (hF : F (s.core c) = (s.core c).issue f bad reads eff) (hbad : bad = none)
    (hr : (eff ((s.core c).spend 0 0) t).seq.stop = none) {P : State → Prop}
    (hP : ∀ u, OnlyCore s u c → u.core c = eff ((s.core c).spend 0 0) t → P u) : Does i s P := by
  subst hbad
  exact does_of_core hi (hF.trans (Core.issue_of_issues h eff)) hr hP

/-- A legal word passes the check of R199. -/
theorem illegalUnless_true {b : Bool} (h : b = true) : illegalUnless b = none := by simp [illegalUnless, h]

/-- The class-specific bits of an instruction that uses x[0] alone. -/
theorem Fields.x_le_one {f : Fields} (h : f.x.toNat ≤ 1) : f.x = 0#3 ∨ f.x = 1#3 := by
  rcases (by omega : f.x.toNat = 0 ∨ f.x.toNat = 1) with h | h
  · exact .inl (BitVec.eq_of_toNat_eq h)
  · exact .inr (BitVec.eq_of_toNat_eq h)

/-! ## Dispatch and waits -/

/-- The core a command is dispatched from: the stall counter's empty update, the dispatch number used. -/
def Core.tagged (q : Core) : Core :=
  { q.spend 0 0 with seq := { (q.spend 0 0).seq with nextId := q.seq.nextId + 1, block := none } }

@[simp] theorem Core.depth_spend (q : Core) (n m : Nat) (u : UnitQ) : (q.spend n m).depth u = q.depth u := by
  cases u <;> rfl

/-- A dispatch with room in the unit's queue. -/
theorem Core.dispatch_of_room {q : Core} {t : Fin 4} {u : UnitQ} {put : Core → QTag → Core} (h : q.depth u < 8) :
    (q.spend 0 0).dispatch t u put = (put q.tagged (tagOf q t)).done t := by
  unfold Core.dispatch
  rw [if_neg (by simp; omega)]
  rfl

/-- A command with a parameter block that issues, passes its checks and finds room. -/
theorem Core.blockCommand_of_issues {q : Core} {t : Fin 4} {f : Fields} {ov : Bool} {size : Nat} {u : UnitQ}
    {take : List Byte → Option Word → Option Word → Option (Core → QTag → Core)} {put : Core → QTag → Core}
    (h : Issues q t f f.blockReads) (hok : f.blockOk ov = true) (hb : q.seq.block = none)
    (ha : (f.addr (q.task t)).toNat % 16 = 0) (hs : (f.addr (q.task t)).toNat + size ≤ 2 ^ 21) (hd : q.depth u < 8)
    (ht : take (q.tile.read (f.addr (q.task t)).toNat size) (if f.x0 then some ((q.task t).reg f.rb) else none)
      (if f.x1 then some ((q.task t).reg f.rd) else none) = some put) :
    q.blockCommand f ov size u take = (put q.tagged (tagOf q t)).done t := by
  unfold Core.blockCommand
  rw [illegalUnless, if_pos hok, Core.issue_of_issues h]
  have h1 : ¬ ((f.addr (q.task t)).toNat % 16 ≠ 0 ∨ tileBytes < (f.addr (q.task t)).toNat + size) := by
    simp [tileBytes, ha]; omega
  have h2 : ((q.spend 0 0).seq.block.getD (q.spend 0 0).tile).read (f.addr (q.task t)).toNat size =
      q.tile.read (f.addr (q.task t)).toNat size := by
    show Mem.read (q.seq.block.getD q.tile) _ _ = _
    rw [hb]; rfl
  have h3 : ¬ 8 ≤ (q.spend 0 0).depth u := by cases u <;> exact Nat.not_le.mpr hd
  simp only [Core.task_spend, if_neg h3, if_neg h1, h2, ht]
  exact Core.dispatch_of_room (q := { q with seq := { q.seq with block := none } }) (by cases u <;> exact hd)

/-- What a dispatch changes. -/
theorem dispatches_of_done {q new : Core} {t : Fin 4} (ht : new.tasks = q.tasks) (hs : new.seq = q.tagged.seq) :
    (new.done t).seq.stop = q.seq.stop ∧
      ∀ new' : Core, { new' with seq := new.seq } = new → Dispatches q (new.done t) t new' := by
  have hk : ∀ v, new.task v = q.task v := fun v => by simp [Core.task, ht]
  refine ⟨by simp [hs]; rfl, fun new' he => ⟨?_, ?_, ⟨?_, ?_⟩, ?_, ?_, ?_⟩⟩
  · rw [← he]; rfl
  · show new.seq.nextId = _
    rw [hs]; rfl
  · simp [Task.advance, hk]
  · simp [Task.advance, hk]
  · intro v hv
    simp [Core.task_done_ne _ _ _ hv, hk]
  · intro n
    simp [hk]
  · intro n
    simp [hk]

/-- A command that is dispatched: the next state. -/
theorem does_of_dispatch {i : Instr} {s : State} {c : Fin 32} {F : Core → Core} {t : Fin 4} {new new' : Core}
    (hi : exec i s = .next (s.onCore c F)) (hstop : (s.core c).seq.stop = none) (hF : F (s.core c) = new.done t)
    (ht : new.tasks = (s.core c).tasks) (hs : new.seq = (s.core c).tagged.seq) (he : { new' with seq := new.seq } = new) :
    Does i s (fun u => OnlyCore s u c ∧ Dispatches (s.core c) (u.core c) t new') := by
  have hd := dispatches_of_done (q := s.core c) (t := t) ht hs
  refine does_of_core hi hF (hd.1.trans hstop) (fun u h1 h2 => ⟨h1, ?_⟩)
  rw [h2]
  exact hd.2 _ he

@[simp] theorem Core.task_runTask (c : Core) (t v : Fin 4) :
    (c.runTask t).task v = if v = t then { c.task v with st := .running } else c.task v := by
  show (c.modTask t (fun k => { k with st := .running })).task v = _
  by_cases h : v = t
  · subst h; simp
  · rw [if_neg h, Core.task_modTask_ne c t v _ h]

/-- A switch changes only the state of the task that comes to run. -/
theorem Core.switchFrom_task (c : Core) (t v : Fin 4) :
    (c.switchFrom t).task v = if c.nextReady t = some v then { c.task v with st := .running } else c.task v := by
  unfold Core.switchFrom
  split
  · rename_i u hu
    simp only [Core.task_runTask]
    by_cases h : v = u
    · subst h; simp [hu]
    · have : ¬ some u = some v := fun e => h (Option.some.inj e).symm
      simp [hu, h, this]
  · rename_i hu
    simp [hu]; rfl

theorem Core.switchFrom_rest (c : Core) (t : Fin 4) :
    c.switchFrom t = { c with tasks := (c.switchFrom t).tasks, seq := (c.switchFrom t).seq } ∧
      (c.switchFrom t).seq.stop = c.seq.stop ∧ (c.switchFrom t).seq.running = c.nextReady t ∧
      (c.switchFrom t).seq.nextId = c.seq.nextId := by
  unfold Core.switchFrom
  split
  · rename_i u hu
    exact ⟨rfl, rfl, by simp [hu]; rfl, rfl⟩
  · rename_i hu
    exact ⟨rfl, rfl, by simp [hu], rfl⟩

theorem Core.nextReady_ready {c : Core} {t u : Fin 4} (h : c.nextReady t = some u) : (c.task u).st = .ready := by
  have := List.find?_some h
  simpa using this

@[simp] theorem Core.switchFrom_reg (c : Core) (t v : Fin 4) (n : BitVec 5) :
    ((c.switchFrom t).task v).reg n = (c.task v).reg n := by
  rw [Core.switchFrom_task]; split <;> rfl

@[simp] theorem Core.switchFrom_pred (c : Core) (t v : Fin 4) (n : BitVec 3) :
    ((c.switchFrom t).task v).pred n = (c.task v).pred n := by
  rw [Core.switchFrom_task]; split <;> rfl

/-- A task that is not ready is not the one a switch runs. -/
theorem Core.switchFrom_other {c : Core} {t v : Fin 4} (h : (c.task v).st ≠ .ready) : (c.switchFrom t).task v = c.task v := by
  rw [Core.switchFrom_task, if_neg]
  intro e
  exact h (Core.nextReady_ready e)

/-- The waiting task. -/
theorem Core.waitOn_task (c : Core) (t : Fin 4) (w : Wait) :
    (c.waitOn t w).task t = { c.task t with st := .waiting, wait := w } := by
  unfold Core.waitOn
  rw [Core.switchFrom_other (by simp)]
  simp

@[simp] theorem Core.waitOn_reg (c : Core) (t v : Fin 4) (w : Wait) (n : BitVec 5) :
    ((c.waitOn t w).task v).reg n = (c.task v).reg n := by
  unfold Core.waitOn
  rw [Core.switchFrom_reg]
  by_cases h : v = t
  · subst h; simp; rfl
  · rw [Core.task_modTask_ne _ _ _ _ h]

@[simp] theorem Core.waitOn_pred (c : Core) (t v : Fin 4) (w : Wait) (n : BitVec 3) :
    ((c.waitOn t w).task v).pred n = (c.task v).pred n := by
  unfold Core.waitOn
  rw [Core.switchFrom_pred]
  by_cases h : v = t
  · subst h; simp; rfl
  · rw [Core.task_modTask_ne _ _ _ _ h]

theorem Core.waitOn_rest (c : Core) (t : Fin 4) (w : Wait) :
    c.waitOn t w = { c with tasks := (c.waitOn t w).tasks, seq := (c.waitOn t w).seq } ∧
      (c.waitOn t w).seq.stop = c.seq.stop := by
  unfold Core.waitOn
  obtain ⟨h1, h2, _⟩ := Core.switchFrom_rest (c.modTask t (fun k => { k with st := .waiting, wait := w })) t
  exact ⟨h1, h2⟩

/-- What coming to wait changes. -/
theorem waits_of_waitOn (q : Core) (t : Fin 4) (w : Wait) : Waits q ((q.spend 0 0).waitOn t w) t w := by
  refine ⟨(Core.waitOn_rest _ _ _).1, ?_, ?_, ?_, ?_, fun n => ?_, fun n => ?_⟩ <;> simp [Core.waitOn_task] <;> rfl

/-- An instruction that comes to wait. -/
theorem does_of_wait {i : Instr} {s : State} {c : Fin 32} {F : Core → Core} {t : Fin 4} {w : Wait}
    (hi : exec i s = .next (s.onCore c F)) (hstop : (s.core c).seq.stop = none)
    (hF : F (s.core c) = ((s.core c).spend 0 0).waitOn t w) :
    Does i s (fun u => OnlyCore s u c ∧ Waits (s.core c) (u.core c) t w) := by
  refine does_of_core hi hF ((Core.waitOn_rest _ _ _).2.trans hstop) (fun u h1 h2 => ⟨h1, ?_⟩)
  rw [h2]
  exact waits_of_waitOn _ _ _

end Sys2Proof.Machine
end

