-- ==== Sys2Proof/Laws/Memory.lean ====
section
/-! SUPPORT. Sparse storage: every operation keeps the canonical form, a read after a write gives the value written, and a
write leaves every other key alone. -/

namespace Sys2Proof.Machine

/-! ## Sparse storage -/

section Stores

variable {α : Type} [DecidableEq α]

theorem Sparse.wfFrom_mono {d : α} {m : Sparse α} {lo hi : Nat} (h : Sparse.wfFrom d hi m = true) (hl : lo ≤ hi) :
    Sparse.wfFrom d lo m = true := by
  cases m with
  | nil => rfl
  | cons e m =>
    simp only [Sparse.wfFrom, Bool.and_eq_true, decide_eq_true_eq] at h ⊢
    exact ⟨⟨by omega, h.1.2⟩, h.2⟩

/-- A key below the first reads as the default. -/
theorem Sparse.get_below {d : α} {m : Sparse α} {lo a : Nat} (h : Sparse.wfFrom d lo m = true) (ha : a < lo) :
    Sparse.get d m a = d := by
  cases m with
  | nil => rfl
  | cons e m =>
    simp only [Sparse.wfFrom, Bool.and_eq_true, decide_eq_true_eq] at h
    simp only [Sparse.get]
    rw [if_neg (by omega), if_pos (by omega)]

theorem Sparse.wfFrom_set {d : α} {m : Sparse α} {lo a : Nat} (x : α) (h : Sparse.wfFrom d lo m = true) (ha : lo ≤ a) :
    Sparse.wfFrom d lo (Sparse.set d m a x) = true := by
  induction m generalizing lo with
  | nil => simp only [Sparse.set]; split <;> simp [Sparse.wfFrom, *]
  | cons e m ih =>
    have h' := h
    simp only [Sparse.wfFrom, Bool.and_eq_true, decide_eq_true_eq, Bool.not_eq_true', decide_eq_false_iff_not] at h'
    simp only [Sparse.set]
    split
    · split
      · exact Sparse.wfFrom_mono h'.2 (by omega)
      · simp [Sparse.wfFrom, *]
    · split
      · split
        · exact h
        · simp only [Sparse.wfFrom, Bool.and_eq_true, decide_eq_true_eq, Bool.not_eq_true', decide_eq_false_iff_not]
          exact ⟨⟨ha, ‹_›⟩, ⟨by omega, h'.1.2⟩, h'.2⟩
      · simp only [Sparse.wfFrom, Bool.and_eq_true, decide_eq_true_eq, Bool.not_eq_true', decide_eq_false_iff_not]
        exact ⟨h'.1, ih h'.2 (by omega)⟩

theorem Sparse.wf_set {d : α} {m : Sparse α} (a : Nat) (x : α) (h : Sparse.wf d m = true) :
    Sparse.wf d (Sparse.set d m a x) = true := Sparse.wfFrom_set x h (Nat.zero_le _)

theorem Sparse.wfFrom_filter {d : α} {m : Sparse α} {lo : Nat} (p : Nat × α → Bool) (h : Sparse.wfFrom d lo m = true) :
    Sparse.wfFrom d lo (m.filter p) = true := by
  induction m generalizing lo with
  | nil => rfl
  | cons e m ih =>
    simp only [Sparse.wfFrom, Bool.and_eq_true, decide_eq_true_eq, Bool.not_eq_true', decide_eq_false_iff_not] at h
    simp only [List.filter_cons]
    split
    · simp only [Sparse.wfFrom, Bool.and_eq_true, decide_eq_true_eq, Bool.not_eq_true', decide_eq_false_iff_not]
      exact ⟨h.1, ih h.2⟩
    · exact ih (Sparse.wfFrom_mono h.2 (by omega))

theorem Sparse.wf_clear {d : α} {m : Sparse α} (lo n : Nat) (h : Sparse.wf d m = true) :
    Sparse.wf d (Sparse.clear m lo n) = true := Sparse.wfFrom_filter _ h

theorem Sparse.wf_keep {d : α} {m : Sparse α} (p : Nat → Bool) (h : Sparse.wf d m = true) :
    Sparse.wf d (Sparse.keep m p) = true := Sparse.wfFrom_filter _ h

theorem Sparse.get_set_from {d : α} {m : Sparse α} {lo : Nat} (h : Sparse.wfFrom d lo m = true) (a b : Nat) (x : α) :
    Sparse.get d (Sparse.set d m a x) b = if b = a then x else Sparse.get d m b := by
  induction m generalizing lo with
  | nil =>
    simp only [Sparse.set]
    by_cases hx : x = d
    · simp [hx, Sparse.get]
    · simp [hx, Sparse.get]
  | cons e m ih =>
    simp only [Sparse.wfFrom, Bool.and_eq_true, decide_eq_true_eq, Bool.not_eq_true', decide_eq_false_iff_not] at h
    have hb : ∀ c, c ≤ e.1 → Sparse.get d m c = d := fun c hc => Sparse.get_below h.2 (by omega)
    simp only [Sparse.set]
    split
    · rename_i ha
      subst ha
      split
      · rename_i hx
        by_cases hc : b = e.1
        · subst hc; simp [hb, hx]
        · simp only [Sparse.get, hc, if_false]
          split
          · exact hb b (by omega)
          · rfl
      · simp only [Sparse.get]
        by_cases hc : b = e.1 <;> simp [hc]
    · split
      · rename_i ha hl
        by_cases hc : b = a
        · subst hc
          split
          · rename_i hx
            simp [Sparse.get, ha, hl, hx]
          · simp [Sparse.get]
        · split
          · simp
          · simp only [Sparse.get, hc, if_false]
            by_cases h1 : b < a
            · simp [h1, show b ≠ e.1 by omega, show b < e.1 by omega]
            · simp [h1]
      · rename_i ha hl
        simp only [Sparse.get]
        by_cases hc : b = a
        · subst hc
          simp only [ha, hl, if_false, if_true]
          rw [ih h.2]; simp
        · simp only [hc, if_false]
          rw [ih h.2]; simp [hc]

theorem Sparse.get_set {d : α} {m : Sparse α} (h : Sparse.wf d m = true) (a b : Nat) (x : α) :
    Sparse.get d (Sparse.set d m a x) b = if b = a then x else Sparse.get d m b := Sparse.get_set_from h a b x

/-- Two canonical lists that read alike are one list. -/
theorem Sparse.ext_from {d : α} {m n : Sparse α} {lo : Nat} (hm : Sparse.wfFrom d lo m = true)
    (hn : Sparse.wfFrom d lo n = true) (h : ∀ a, Sparse.get d m a = Sparse.get d n a) : m = n := by
  induction m generalizing n lo with
  | nil =>
    cases n with
    | nil => rfl
    | cons f n =>
      simp only [Sparse.wfFrom, Bool.and_eq_true, decide_eq_true_eq, Bool.not_eq_true', decide_eq_false_iff_not] at hn
      have := h f.1
      simp only [Sparse.get, if_true] at this
      exact absurd this.symm hn.1.2
  | cons e m ih =>
    simp only [Sparse.wfFrom, Bool.and_eq_true, decide_eq_true_eq, Bool.not_eq_true', decide_eq_false_iff_not] at hm
    cases n with
    | nil =>
      have := h e.1
      simp only [Sparse.get, if_true] at this
      exact absurd this hm.1.2
    | cons f n =>
      simp only [Sparse.wfFrom, Bool.and_eq_true, decide_eq_true_eq, Bool.not_eq_true', decide_eq_false_iff_not] at hn
      have h1 := h e.1
      have h2 := h f.1
      simp only [Sparse.get, if_true] at h1 h2
      have he : e.1 = f.1 := by
        rcases Nat.lt_trichotomy e.1 f.1 with hl | hl | hl
        · rw [if_neg (by omega), if_pos hl] at h1; exact absurd h1 hm.1.2
        · exact hl
        · rw [if_neg (by omega), if_pos hl] at h2; exact absurd h2.symm hn.1.2
      have hv : e.2 = f.2 := by simpa [he] using h1
      have ht : m = n := by
        refine ih hm.2 (by rw [he]; exact hn.2) (fun a => ?_)
        have h3 := h a
        simp only [Sparse.get] at h3
        by_cases ha : a = e.1
        · rw [ha, Sparse.get_below hm.2 (by omega), Sparse.get_below hn.2 (by omega)]
        · by_cases hl : a < e.1
          · rw [Sparse.get_below hm.2 (by omega), Sparse.get_below hn.2 (by omega)]
          · simpa [← he, ha, hl] using h3
      obtain ⟨k, v⟩ := e
      obtain ⟨k', v'⟩ := f
      simp only at he hv
      rw [he, hv, ht]

end Stores

/-! ## Byte memory -/

theorem Mem.wf_put {m : Mem} (a : Nat) (b : Byte) (h : m.wf = true) : (m.put a b).wf = true := Sparse.wf_set a b h

theorem Mem.wf_write {m : Mem} (a : Nat) (bs : List Byte) (h : m.wf = true) : (m.write a bs).wf = true := by
  induction bs generalizing m a with
  | nil => exact h
  | cons b bs ih => exact ih (a + 1) (Mem.wf_put a b h)

theorem Mem.wf_clear {m : Mem} (lo n : Nat) (h : m.wf = true) : Mem.wf (Sparse.clear m lo n) = true := Sparse.wf_clear lo n h

theorem Mem.byte_put {m : Mem} (h : m.wf = true) (a c : Nat) (b : Byte) :
    (m.put a b).byte c = if c = a then b else m.byte c := Sparse.get_set h a c b

/-- A byte outside those written is as before; one of them is as written. -/
theorem Mem.byte_write {m : Mem} (h : m.wf = true) (a c : Nat) (bs : List Byte) :
    (m.write a bs).byte c = if a ≤ c ∧ c < a + bs.length then bs.getD (c - a) 0#8 else m.byte c := by
  induction bs generalizing m a with
  | nil =>
    have h0 : ¬(a ≤ c ∧ c < a + ([] : List Byte).length) := by simp only [List.length_nil]; omega
    rw [if_neg h0]; rfl
  | cons b bs ih =>
    rw [Mem.write, ih (Mem.wf_put a b h), Mem.byte_put h]
    by_cases h1 : c = a
    · subst h1; rw [if_neg (by omega)]; simp
    · by_cases h2 : a + 1 ≤ c ∧ c < a + 1 + bs.length
      · rw [if_pos h2, if_pos (by simp; omega)]
        obtain ⟨k, rfl⟩ := Nat.exists_eq_add_of_le h2.1
        simp [show a + 1 + k - a = k + 1 by omega]
      · rw [if_neg h2, if_neg h1, if_neg (by simp; omega)]

theorem Mem.byte_write_out {m : Mem} (h : m.wf = true) {a c : Nat} {bs : List Byte} (hc : c < a ∨ a + bs.length ≤ c) :
    (m.write a bs).byte c = m.byte c := by
  rw [Mem.byte_write h, if_neg (by omega)]

@[simp] theorem Mem.length_read (m : Mem) (a n : Nat) : (m.read a n).length = n := by
  induction n generalizing a with
  | zero => rfl
  | succ n ih => simp [Mem.read, ih]

theorem Mem.getElem?_read (m : Mem) (a n i : Nat) (h : i < n) : (m.read a n)[i]? = some (m.byte (a + i)) := by
  induction n generalizing a i with
  | zero => omega
  | succ n ih =>
    cases i with
    | zero => simp [Mem.read]
    | succ i => simp [Mem.read, ih (a + 1) i (by omega), show a + 1 + i = a + (i + 1) by omega]

/-- Equal memories are equal data. -/
theorem Mem.ext {m n : Mem} (hm : m.wf = true) (hn : n.wf = true) (h : ∀ a, m.byte a = n.byte a) : m = n :=
  Sparse.ext_from hm hn h

/-! ## The memories of the block -/

theorem memOk_iff (s : State) : memOk s = true ↔ s.store.wf = true ∧ ∀ i (h : i < 32), (s.cores[i]).tile.wf = true := by
  unfold memOk
  rw [Bool.and_eq_true, List.all_eq_true]
  refine and_congr_right fun _ => ⟨fun h i hi => h _ (by simp), fun h c hc => ?_⟩
  obtain ⟨i, hi, rfl⟩ := List.getElem_of_mem hc
  simpa using h i (by simpa using hi)

theorem memOk_reset : memOk State.reset = true := by decide +kernel

end Sys2Proof.Machine
end

