-- ==== Sys2Proof/WellFormed.lean ====
section
/-! DEFINITION. Commands that the ports, packets and frames of the block can carry: operands whose Lean type is wider than
the thing they stand for are in range. Command handling itself is total and takes any operand. -/

namespace Sys2Proof

/-- A P-384 point in the 97 B uncompressed form. -/
def pointLen (b : List Byte) : Bool := b.length = 97

/-- Request tags of a channel: 7 bits on the fabric, 6 on the near-memory port (R521, R527). -/
def tagsOf (ch : Nat) : Nat := if ch < 12 then 128 else 64

/-- The operands are in range. -/
def WellFormed : Instr → Bool
  | .linkHandshake _ key eph sig _ => pointLen key && pointLen eph && sig.length = 96
  | .dataFrameReceive _ bs => bs.length = 320
  | .remoteReadRequest _ len => 0 < len && len ≤ 1024
  | .downNotice _ nodes => nodes.all (fun n => n < 256)
  | .copyReadDone data => data.length < 2 ^ 23
  | .fabricReadResponse ch tag data _ err => ch < 14 && tag < tagsOf ch && (err || data.length = 64)
  | .fabricWriteAck ch tag _ => ch < 14 && tag < tagsOf ch
  | .chartLineReturn _ line => line < 2 ^ 21
  | .powerIntervalClose acts _ _ => acts.length ≤ 32
  | .fuseSenseDone f => f.secret.length = 32 && f.signer.length = 48 && f.bad.all (fun n => n < 34)
  | .linkCreditReturn _ _ n => n < 2 ^ 16
  | .restartCell _ _ n => 0 < n && n ≤ 16
  | _ => true

end Sys2Proof
end

