-- ==== Sys2Proof/Tests/Slice0.lean ====
section
/-! SUPPORT. Witnesses: for every statement with hypotheses, concrete states and operands that meet them, clause by clause, with
the command that then runs; ill-formed commands are refused; a few steps whose results are worked out from the spec's text. -/

namespace Sys2Proof.Tests

open Machine

/-- The command ends in a next state. -/
def runs (i : Instr) (s : State) : Prop := ∃ u, exec i s = .next u

theorem runs_of {i : Instr} {s : State} {P : State → Prop} (h : Does i s P) : runs i s := h.imp fun _ k => k.1

/-! ## Small states -/

/-- A descriptor naming cores by a mask. -/
def descOf (mask flags : Nat) : List Byte := toLe 2 0 ++ toLe 2 flags ++ toLe 4 mask ++ List.replicate 120 0#8

/-- A job of partition 0, ring 0 in a phase. -/
def jobIn (ph : JobPhase) (mask flags : Nat) : Job :=
  { part := 0, ring := 0, kind := 0, desc := descOf mask flags, stamp := 0, pos := 0, dpos := 0, phase := ph, bell := 0,
    bellSeq := 0, multi := none, tStart := none, tFinal := 0, status := 0, stopCore := none, replays := 0, addrs := [], got := [],
    images := [], loads := [], ran := [], notices := [], numflags := 0, energy := 0, measured := false, silent := false,
    lost := false, opened := 0, resume := none, certTicks := 0 }

/-- Task 0 runs at pc 1 with s1 = 64, s2 = 7. -/
def runTask : Task :=
  { Task.idle0 with pc := 1, st := .running, s := (Task.idle0.s.set 1 64#32).set 2 7#32 }

/-- A core that runs task 0 of a job, its first instruction line held. -/
def runCore : Core :=
  { Core.reset with
    seq := { Seq.reset with started := true, running := some 0 }
    tasks := Core.reset.tasks.set 0 runTask, ib := [0], img := { Residency_.none with codeSize := 1024 } }

/-- The block with core 0 so, a running job on it. -/
def onCore0 (q : Core) : State :=
  { State.reset with
    cores := State.reset.cores.set 0 q, grid := { Grid.reset with jobs := [jobIn .running 1 0] }
    alm := { Almanac.reset with st := .ready, phase := .done } }

/-- Core 0 with task 0 changed. -/
def withTask (f : Task → Task) : Core := { runCore with tasks := runCore.tasks.set 0 (f runTask) }

/-- An instruction's fields. -/
def fld3 (rd ra rb : BitVec 5) (x : BitVec 3) (imm : Word) : Fields := ⟨0#3, false, rd, ra, rb, x, imm⟩

def run0 : State := onCore0 runCore

/-- The block ready, with nothing on it. -/
def idle0 : State := { State.reset with alm := { Almanac.reset with st := .ready, phase := .done } }

/-- A 4 B write through the full aperture. -/
def wr (v : Nat) : HostAcc := ⟨0, true, 2#2, BitVec.ofNat 64 v⟩

/-- These packets in flight. -/
def mesh (s : State) (l : List Pkt) : State := ({ s with mesh := [], noc := .reset } : State).sendAll l

/-- These accesses accepted. -/
def accs (s : State) (l : List FabAcc) : State := { s with fab := { s.fab with accs := l, next := 9 } }

/-- A finished read. -/
def readAcc (o : FabOwner) (got : List Byte) : FabAcc :=
  { no := 1, owner := o, write := false, near := false, coh := false, addr := 64, len := got.length, data := [], part := none,
    deadline := none, src := 0, chan := 0, tag := some 0, got := got, done := true, again := none, retried := false, held := false }

/-- Core 0's banks all granted to one requester. -/
def denied (s : State) (r : Requester) : State := s.modCore 0 fun q => { q with bank := { q.bank with won := (List.range 64).map (fun n => (n, r)) } }

/-! ## Scalar instructions -/

namespace Ga

theorem met_ScalarArithmeticWritesRd (h : Obligations.ScalarArithmeticWritesRd) :
    runs (.add 0 (fld3 3 1 2 0 0)) run0 ∧
    runs (.shl 0 (fld3 3 1 2 0 0)) run0 ∧
    runs (.sra 0 (fld3 3 1 2 0 0)) run0 ∧
    runs (.mulhu 0 (fld3 1 1 0 1 4294967295)) run0 ∧
    runs (.maxu 0 (fld3 31 1 2 0 0)) run0 ∧
    runs (.mov 0 (fld3 31 0 2 0 0)) run0 :=
  ⟨runs_of ((h.1 _ List.mem_cons_self run0 0 0 (fld3 3 1 2 0 0)) (by decide) (by decide) (by decide)),
   runs_of ((h.1 _ (List.mem_of_getElem? (i := 5) rfl) run0 0 0 (fld3 3 1 2 0 0)) (by decide) (by decide) (by decide)),
   runs_of ((h.1 _ (List.mem_of_getElem? (i := 7) rfl) run0 0 0 (fld3 3 1 2 0 0)) (by decide) (by decide) (by decide)),
   runs_of ((h.1 _ (List.mem_of_getElem? (i := 9) rfl) run0 0 0 (fld3 1 1 0 1 0xFFFFFFFF)) (by decide) (by decide) (by decide)),
   runs_of ((h.1 _ (List.mem_of_getElem? (i := 13) rfl) run0 0 0 (fld3 31 1 2 0 0)) (by decide) (by decide) (by decide)),
   runs_of ((h.2 run0 0 0 (fld3 31 0 2 0 0)) (by decide) (by decide) (by decide) (by decide))⟩

theorem met_ComparesSetThePredicate (h : Obligations.ComparesSetThePredicate) :
    runs (.ceq 0 (fld3 3 1 2 0 0)) run0 ∧
    runs (.cge 0 (fld3 0 1 2 0 0)) run0 :=
  ⟨runs_of ((h _ List.mem_cons_self run0 0 0 (fld3 3 1 2 0 0)) (by decide) (by decide) (by decide) (by decide)),
   runs_of ((h _ (List.mem_of_getElem? (i := 3) rfl) run0 0 0 (fld3 0 1 2 0 0)) (by decide) (by decide) (by decide) (by decide))⟩

theorem met_PredicateInstructionsCombine (h : Obligations.PredicateInstructionsCombine) : runs (.pand 0 (fld3 3 0 2 2 0)) run0 :=
  runs_of ((h _ List.mem_cons_self run0 0 0 (fld3 3 0 2 2 0)) (by decide) (by decide) (by decide) (by decide) (by decide) (by decide))

theorem met_LoadsAndStoresMoveOneWord (h : Obligations.LoadsAndStoresMoveOneWord) :
    runs (.ld 0 (fld3 3 1 0 0 0)) run0 ∧
    runs (.st 0 (fld3 0 1 2 0 4)) run0 :=
  ⟨runs_of ((h.1 run0 0 0 (fld3 3 1 0 0 0)) (by decide) (by decide) (by decide) (by decide) (by decide)),
   runs_of ((h.2 run0 0 0 (fld3 0 1 2 0 4)) (by decide) (by decide) (by decide) (by decide) (by decide) (by decide) (by decide) (by decide))⟩

end Ga

/-! ## Control instructions -/

namespace Gb
def loopTask : Core := withTask fun k => { k with pc := 5, loops := [⟨2, 5, 3, 0⟩] }
def loopLast : Core := withTask fun k => { k with pc := 5, loops := [⟨2, 5, 3, 2⟩] }
def offEnd : Core := withTask fun k => { k with pc := 128 }
def guarded : Fields := { fld3 3 1 2 0 0 with pg := 1 }
def codeAt64 : Core := { runCore with img := { runCore.img with valid := true, sections := [⟨0, 128, 0, false, 0⟩] } }

theorem met_CsrInstructionsReadAndWrite (h : Obligations.CsrInstructionsReadAndWrite) :
    runs (.csrr 0 (fld3 3 0 0 0 8)) run0 ∧
    runs (.csrr 0 (fld3 3 0 0 0 10)) run0 ∧
    runs (.csrr 0 (fld3 3 0 0 0 17)) run0 ∧
    runs (.csrw 0 (fld3 0 1 0 0 48)) run0 :=
  ⟨runs_of ((h.1 run0 0 0 (fld3 3 0 0 0 8) (8, 0)) (by decide) (by decide) (by decide) (by decide) (by decide) (by decide)),
   runs_of ((h.1 run0 0 0 (fld3 3 0 0 0 0xA) (0xA, 0)) (by decide) (by decide) (by decide) (by decide) (by decide) (by decide)),
   runs_of ((h.1 run0 0 0 (fld3 3 0 0 0 0x11) (0x11, 2)) (by decide) (by decide) (by decide) (by decide) (by decide) (by decide)),
   runs_of ((h.2 run0 0 0 (fld3 0 1 0 0 0x30)) (by decide) (by decide) (by decide) (by decide) (by decide))⟩

theorem met_BranchesGoToTheirTarget (h : Obligations.BranchesGoToTheirTarget) :
    runs (.br 0 (fld3 0 0 0 0 1)) (onCore0 loopTask) ∧
    runs (.br 0 (fld3 0 0 0 0 (-1))) (onCore0 loopTask) ∧
    runs (.jmp 0 (fld3 0 1 0 0 4294967294)) run0 :=
  ⟨runs_of ((h.1 (onCore0 loopTask) 0 0 (fld3 0 0 0 0 1)) (by decide) (by decide) (by decide) (by decide) (by decide)),
   runs_of ((h.1 (onCore0 loopTask) 0 0 (fld3 0 0 0 0 (-1))) (by decide) (by decide) (by decide) (by decide) (by decide)),
   runs_of ((h.2 run0 0 0 (fld3 0 1 0 0 0xFFFFFFFE)) (by decide) (by decide) (by decide) (by decide))⟩

theorem met_LoopsRunTheirBody (h : Obligations.LoopsRunTheirBody) :
    runs (.loop 0 (fld3 0 2 0 0 131072)) run0 ∧
    runs (.loop 0 (fld3 0 0 0 1 131072)) run0 ∧
    runs (.loop 0 (fld3 0 0 0 1 131075)) run0 ∧
    runs (.nop 0 (fld3 0 0 0 0 0)) run0 ∧
    runs (.nop 0 (fld3 0 0 0 0 0)) (onCore0 loopTask) ∧
    runs (.nop 0 (fld3 0 0 0 0 0)) (onCore0 loopLast) :=
  ⟨runs_of ((h.1 run0 0 0 (fld3 0 2 0 0 0x20000)) (by decide) (by decide) (by decide) (by decide)),
   runs_of ((h.1 run0 0 0 (fld3 0 0 0 1 0x20000)) (by decide) (by decide) (by decide) (by decide)),
   runs_of ((h.1 run0 0 0 (fld3 0 0 0 1 0x20003)) (by decide) (by decide) (by decide) (by decide)),
   runs_of ((h.2 run0 0 0 (fld3 0 0 0 0 0)) (by decide) (by decide) (by decide) (by decide) (by decide) (by decide)),
   runs_of ((h.2 (onCore0 loopTask) 0 0 (fld3 0 0 0 0 0)) (by decide) (by decide) (by decide) (by decide) (by decide) (by decide)),
   runs_of ((h.2 (onCore0 loopLast) 0 0 (fld3 0 0 0 0 0)) (by decide) (by decide) (by decide) (by decide) (by decide) (by decide))⟩

theorem met_FalseGuardHasNoEffect (h : Obligations.FalseGuardHasNoEffect) :
    runs (.add 0 guarded) run0 ∧
    runs (.br 0 guarded) run0 ∧
    runs (.cnvWin 0 guarded) run0 ∧
    runs (.wpt 0 guarded) run0 :=
  ⟨runs_of ((h.2 _ List.mem_cons_self run0 0 0 guarded) (by decide) (by decide) (by decide)),
   runs_of ((h.2 _ (List.mem_of_getElem? (i := 28) rfl) run0 0 0 guarded) (by decide) (by decide) (by decide)),
   runs_of ((h.2 _ (List.mem_of_getElem? (i := 40) rfl) run0 0 0 guarded) (by decide) (by decide) (by decide)),
   runs_of ((h.2 _ (List.mem_of_getElem? (i := 55) rfl) run0 0 0 guarded) (by decide) (by decide) (by decide))⟩

theorem met_PcOutsideTheCodeStopsTheCore (h : Obligations.PcOutsideTheCodeStopsTheCore) :
    runs (.add 0 guarded) (onCore0 offEnd) ∧
    runs (.taskDecl 0 guarded) (onCore0 offEnd) :=
  ⟨runs_of ((h _ List.mem_cons_self (onCore0 offEnd) 0 0 guarded) (by decide) (by decide)),
   runs_of ((h _ (List.mem_of_getElem? (i := 57) rfl) (onCore0 offEnd) 0 0 guarded) (by decide) (by decide))⟩

theorem met_BadScalarAddressesStopTheCore (h : Obligations.BadScalarAddressesStopTheCore) :
    runs (.ld 0 (fld3 3 1 0 0 1)) run0 ∧
    runs (.st 0 (fld3 0 1 2 0 2097152)) run0 ∧
    runs (.st 0 (fld3 0 1 2 0 0)) (onCore0 codeAt64) :=
  ⟨runs_of (((h.1 run0 0 0 (fld3 3 1 0 0 1) (by decide) (by decide)).1) (by decide) (by decide)),
   runs_of (((h.1 run0 0 0 (fld3 0 1 2 0 0x200000) (by decide) (by decide)).2) (by decide) (by decide)),
   runs_of ((h.2 (onCore0 codeAt64) 0 0 (fld3 0 1 2 0 0)) (by decide) (by decide) (by decide) (by decide) (by decide) (by decide) (by decide))⟩

end Gb

/-! ## Block commands, tests, waits, waypoints -/

namespace Gc
def gotHandle : State := (onCore0 runCore).modPart 0 fun p => { p with hqs := modAt p.hqs 3 fun q => { q with q := [5#64] } }
def hqJob (s : State) : State := { s with grid := { s.grid with jobs := [{ jobIn .running 1 0 with desc := (descOf 1 0).take 16 ++ List.replicate 8 0xFF#8 ++ List.replicate 104 0#8 }] } }
def twoCores : State := { run0 with grid := { run0.grid with jobs := [jobIn .running 3 0] } }
def withStr (f : StreamUnit → StreamUnit) : Core := { runCore with str := f runCore.str }
def withMsg (f : MsgUnit → MsgUnit) : Core := { runCore with msg := f runCore.msg }
def landedHalf : Buf := ⟨0, 4096, ⟨.landed, 0, []⟩, ⟨.empty, 0, []⟩⟩
def busySlot : StrSlot := { StrSlot.idle0 with st := .running }
def queuedSend : Core := withMsg fun u => { u with queue := [(⟨0, 0, 0⟩, .send 0 1)] }
def task1 (st : TaskState) (run : Fin 4) : Core :=
  { runCore with seq := { runCore.seq with running := some run }, tasks := (runCore.tasks.set 1 { runTask with st := st }) }
def in1 : Core := { task1 .running 1 with tasks := ((task1 .running 1).tasks.set 0 { runTask with st := .ready }) }
def withTile (m : Mem) : Core := { runCore with tile := m }

theorem met_BlockCommandsEnterTheirQueue (h : Obligations.BlockCommandsEnterTheirQueue) :
    runs (.arrOp 0 (fld3 0 1 0 0 0)) run0 ∧
    runs (.arrLoad 0 (fld3 0 1 2 1 0)) run0 ∧
    runs (.elpCmd 0 (fld3 0 1 0 0 0)) (onCore0 (withTile [(64, 72#8), (65, 4#8), (72, 1#8)])) ∧
    runs (.elpBind 0 (fld3 0 1 0 0 0)) (onCore0 (withTile [(64, 16#8)])) ∧
    runs (.cnvWin 0 (fld3 0 1 0 0 0)) run0 ∧
    runs (.cnvGavg 0 (fld3 0 1 0 0 0)) run0 :=
  ⟨runs_of (((h run0 0 0 (fld3 0 1 0 0 0) (by decide) (by decide) (by decide)).1) (by decide) (by decide) (by decide) (by decide) (by decide)),
   runs_of (((h run0 0 0 (fld3 0 1 2 1 0) (by decide) (by decide) (by decide)).2.1) (by decide) (by decide) (by decide) (by decide) (by decide) (by decide)),
   runs_of (((h (onCore0 (withTile [(64, 0x48#8), (65, 4#8), (72, 1#8)])) 0 0 (fld3 0 1 0 0 0) (by decide) (by decide) (by decide)).2.2.1) (by decide) (by decide) (by decide) (by decide) (by decide)),
   runs_of (((h (onCore0 (withTile [(64, 0x10#8)])) 0 0 (fld3 0 1 0 0 0) (by decide) (by decide) (by decide)).2.2.2.1) (by decide) (by decide) (by decide) (by decide) (by decide) (by decide)),
   runs_of (((h run0 0 0 (fld3 0 1 0 0 0) (by decide) (by decide) (by decide)).2.2.2.2.1) (by decide) (by decide) (by decide) (by decide) (by decide) (by decide) (by decide)),
   runs_of (((h run0 0 0 (fld3 0 1 0 0 0) (by decide) (by decide) (by decide)).2.2.2.2.2) (by decide) (by decide) (by decide) (by decide) (by decide) (by decide))⟩

theorem met_PlainCommandsEnterTheirQueue (h : Obligations.PlainCommandsEnterTheirQueue) :
    runs (.elpCfg 0 (fld3 3 1 0 0 0)) run0 ∧
    runs (.elpTable 0 (fld3 3 1 0 0 0)) run0 ∧
    runs (.elpSwapout 0 (fld3 15 0 0 0 0)) run0 ∧
    runs (.elpSwapin 0 (fld3 15 0 0 0 0)) run0 ∧
    runs (.strGo 0 (fld3 0 1 0 5 0)) run0 ∧
    runs (.bufRelease 0 (fld3 0 0 0 1 63)) run0 ∧
    runs (.mbSend 0 (fld3 0 1 3 0 0)) twoCores ∧
    runs (.barArrive 0 (fld3 0 0 0 0 255)) run0 :=
  ⟨runs_of ((((h run0 0 0 (fld3 3 1 0 0 0)).1) (by decide) (by decide) (by decide) (by decide) (by decide) (by decide)).1 (by decide)),
   runs_of ((((h run0 0 0 (fld3 3 1 0 0 0)).1) (by decide) (by decide) (by decide) (by decide) (by decide) (by decide)).2 (by decide)),
   runs_of (((h run0 0 0 (fld3 15 0 0 0 0)).2.1) (by decide) (by decide) (by decide) (by decide) (by decide) (by decide) (by decide)).1,
   runs_of (((h run0 0 0 (fld3 15 0 0 0 0)).2.1) (by decide) (by decide) (by decide) (by decide) (by decide) (by decide) (by decide)).2,
   runs_of (((h run0 0 0 (fld3 0 1 0 5 0)).2.2.1) (by decide) (by decide) (by decide) (by decide) (by decide)),
   runs_of (((h run0 0 0 (fld3 0 0 0 1 63)).2.2.2.1) (by decide) (by decide) (by decide) (by decide) (by decide) (by decide) (by decide)),
   runs_of (((h twoCores 0 0 (fld3 0 1 3 0 0)).2.2.2.2.1) (by decide) (by decide) (by decide) (by decide) (by decide) (by decide)),
   runs_of (((h run0 0 0 (fld3 0 0 0 0 255)).2.2.2.2.2) (by decide) (by decide) (by decide) (by decide) (by decide) (by decide) (by decide))⟩

theorem met_TestInstructionsSetThePredicate (h : Obligations.TestInstructionsSetThePredicate) :
    runs (.strTest 0 (fld3 7 0 0 5 0)) run0 ∧
    runs (.hqTest 0 (fld3 7 0 0 0 3)) (hqJob gotHandle) ∧
    runs (.mbTest 0 (fld3 7 0 0 0 0)) run0 :=
  ⟨runs_of (((h run0 0 0 (fld3 7 0 0 5 0) (by decide) (by decide) (by decide) (by decide)).1) (by decide) (by decide)),
   runs_of (((h (hqJob gotHandle) 0 0 (fld3 7 0 0 0 3) (by decide) (by decide) (by decide) (by decide)).2.1) (by decide) (by decide) (by decide)),
   runs_of (((h run0 0 0 (fld3 7 0 0 0 0) (by decide) (by decide) (by decide) (by decide)).2.2) (by decide) (by decide))⟩

theorem met_WaitingInstructionsWait (h : Obligations.WaitingInstructionsWait) :
    runs (.strWait 0 (fld3 0 0 0 5 0)) run0 ∧
    runs (.strWait 0 (fld3 0 0 0 0 0)) (onCore0 (withStr fun u => { u with slots := [busySlot] })) ∧
    runs (.bufAwait 0 (fld3 0 0 0 0 0)) (onCore0 (withStr fun u => { u with bufs := [landedHalf] })) ∧
    runs (.bufAwait 0 (fld3 0 0 0 1 0)) (onCore0 (withStr fun u => { u with bufs := [landedHalf] })) ∧
    runs (.barWait 0 (fld3 0 0 0 0 255)) run0 ∧
    runs (.barWait 0 (fld3 0 0 0 0 4)) (onCore0 (withMsg fun u => { u with arr := [(4, 1#16)] })) ∧
    runs (.mbRecv 0 (fld3 3 1 0 0 0)) run0 ∧
    runs (.mbRecv 0 (fld3 3 1 0 0 0)) (onCore0 (withMsg fun u => { u with entries := [⟨0, 1, [], false⟩] })) :=
  ⟨runs_of ((((h run0 0 0 (fld3 0 0 0 5 0)).1) (by decide) (by decide) (by decide) (by decide) (by decide) (by decide)).1 (by decide)),
   runs_of ((((h (onCore0 (withStr fun u => { u with slots := [busySlot] })) 0 0 (fld3 0 0 0 0 0)).1) (by decide) (by decide) (by decide) (by decide) (by decide) (by decide)).2 (by decide)),
   runs_of ((((h (onCore0 (withStr fun u => { u with bufs := [landedHalf] })) 0 0 (fld3 0 0 0 0 0)).2.1) (by decide) (by decide) (by decide) (by decide) (by decide) (by decide)).1 (by decide)),
   runs_of ((((h (onCore0 (withStr fun u => { u with bufs := [landedHalf] })) 0 0 (fld3 0 0 0 1 0)).2.1) (by decide) (by decide) (by decide) (by decide) (by decide) (by decide)).2 (by decide)),
   runs_of (((((h run0 0 0 (fld3 0 0 0 0 255)).2.2.1) (by decide) (by decide) (by decide) (by decide) (by decide) (by decide)).2 (by decide)) (by decide)),
   runs_of (((((h (onCore0 (withMsg fun u => { u with arr := [(4, 1#16)] })) 0 0 (fld3 0 0 0 0 4)).2.2.1) (by decide) (by decide) (by decide) (by decide) (by decide) (by decide)).1 (by decide)).2 (by decide)),
   runs_of ((((h run0 0 0 (fld3 3 1 0 0 0)).2.2.2) (by decide) (by decide) (by decide) (by decide) (by decide)).1 (by decide)),
   runs_of ((((h (onCore0 (withMsg fun u => { u with entries := [⟨0, 1, [], false⟩] })) 0 0 (fld3 3 1 0 0 0)).2.2.2 (by decide) (by decide) (by decide) (by decide) (by decide)).2 ⟨0, 1, [], false⟩) (by decide) (by decide))⟩

theorem met_HandleInstructionsSendTheirPacket (h : Obligations.HandleInstructionsSendTheirPacket) :
    runs (.hqPut 0 (fld3 0 2 0 0 3)) (hqJob gotHandle) ∧
    runs (.hqGet 0 (fld3 4 0 0 0 3)) (hqJob gotHandle) :=
  ⟨runs_of (((h (hqJob gotHandle) 0 0 (fld3 0 2 0 0 3) (by decide) (by decide) (by decide) (by decide)).1) (by decide) (by decide) (by decide) (by decide)),
   runs_of (((h (hqJob gotHandle) 0 0 (fld3 4 0 0 0 3) (by decide) (by decide) (by decide) (by decide)).2) (by decide) (by decide) (by decide))⟩

theorem met_WaypointsHoldTheTask (h : Obligations.WaypointsHoldTheTask) :
    runs (.wpt 0 (fld3 0 0 0 0 319)) run0 ∧
    runs (.wpt 0 (fld3 0 0 0 0 2111)) run0 ∧
    runs (.wpt 0 (fld3 0 0 0 0 2623)) (onCore0 queuedSend) ∧
    runs (.wpt 0 (fld3 0 0 0 0 2623)) (onCore0 { queuedSend with seq := { queuedSend.seq with nextId := 1 } }) ∧
    runs (.wpt 0 (fld3 0 0 0 0 2111)) (onCore0 { queuedSend with seq := { queuedSend.seq with nextId := 1 } }) ∧
    runs (.wpt 0 (fld3 0 0 0 0 319)) (onCore0 { queuedSend with seq := { queuedSend.seq with nextId := 1 } }) ∧
    runs (.wptFinal 0 (fld3 0 0 0 0 0)) run0 ∧
    runs (.wptFinal 0 (fld3 0 0 0 0 0)) (onCore0 in1) :=
  ⟨runs_of ((((h run0 0 0 (fld3 0 0 0 0 0x13F)).1) (by decide) (by decide) (by decide) (by decide) (by decide) (by decide)).1 (by decide)),
   runs_of ((((h run0 0 0 (fld3 0 0 0 0 0x83F)).1) (by decide) (by decide) (by decide) (by decide) (by decide) (by decide)).1 (by decide)),
   runs_of ((((h (onCore0 queuedSend) 0 0 (fld3 0 0 0 0 0xA3F)).1) (by decide) (by decide) (by decide) (by decide) (by decide) (by decide)).1 (by decide)),
   runs_of (((((((h (onCore0 { queuedSend with seq := { queuedSend.seq with nextId := 1 } }) 0 0 (fld3 0 0 0 0 0xA3F)).1) (by decide) (by decide) (by decide) (by decide) (by decide) (by decide)).2.1 (by decide)) (by decide)) (by decide)) (by decide)),
   runs_of ((((((h (onCore0 { queuedSend with seq := { queuedSend.seq with nextId := 1 } }) 0 0 (fld3 0 0 0 0 0x83F)).1) (by decide) (by decide) (by decide) (by decide) (by decide) (by decide)).2.2.2 (by decide)) (by decide)) (by decide)),
   runs_of ((((((h (onCore0 { queuedSend with seq := { queuedSend.seq with nextId := 1 } }) 0 0 (fld3 0 0 0 0 0x13F)).1) (by decide) (by decide) (by decide) (by decide) (by decide) (by decide)).2.2.2 (by decide)) (by decide)) (by decide)),
   runs_of ((((h run0 0 0 (fld3 0 0 0 0 0)).2) (by decide) (by decide) (by decide) (by decide) (by decide) (by decide)).1 (by decide)),
   runs_of ((((h (onCore0 in1) 0 1 (fld3 0 0 0 0 0)).2) (by decide) (by decide) (by decide) (by decide) (by decide) (by decide)).2 (by decide))⟩

theorem met_TaskInstructionsDeclareYieldEnd (h : Obligations.TaskInstructionsDeclareYieldEnd) :
    runs (.taskDecl 0 (fld3 0 1 0 1 3)) run0 ∧
    runs (.taskDecl 0 (fld3 0 1 0 0 3)) run0 ∧
    runs (.taskYield 0 (fld3 0 0 0 0 0)) run0 ∧
    runs (.taskEnd 0 (fld3 0 0 0 0 0)) run0 ∧
    runs (.taskYield 0 (fld3 0 0 0 0 0)) (onCore0 (task1 TaskState.ready 0)) ∧
    runs (.taskEnd 0 (fld3 0 0 0 0 0)) (onCore0 (task1 TaskState.ready 0)) ∧
    runs (.taskEnd 0 (fld3 0 0 0 0 0)) (onCore0 in1) :=
  ⟨runs_of (((((h run0 0 0 1 (fld3 0 1 0 1 3)).1) (by decide) (by decide) (by decide) (by decide)).1 (by decide)) (by decide)),
   runs_of ((((h run0 0 0 0 (fld3 0 1 0 0 3)).1) (by decide) (by decide) (by decide) (by decide)).2 (by decide)),
   runs_of ((((h run0 0 0 0 (fld3 0 0 0 0 0)).2) (by decide) (by decide) (by decide) (by decide) (by decide) (by decide)).1 (by decide)),
   runs_of ((((h run0 0 0 0 (fld3 0 0 0 0 0)).2) (by decide) (by decide) (by decide) (by decide) (by decide) (by decide)).2.2.2 (by decide)),
   runs_of ((((h (onCore0 (task1 .ready 0)) 0 0 0 (fld3 0 0 0 0 0)).2) (by decide) (by decide) (by decide) (by decide) (by decide) (by decide)).2.1 (by decide)),
   runs_of ((((h (onCore0 (task1 .ready 0)) 0 0 0 (fld3 0 0 0 0 0)).2) (by decide) (by decide) (by decide) (by decide) (by decide) (by decide)).2.2.2 (by decide)),
   runs_of ((((h (onCore0 in1) 0 1 0 (fld3 0 0 0 0 0)).2) (by decide) (by decide) (by decide) (by decide) (by decide) (by decide)).2.2.1 (by decide))⟩

end Gc

/-! ## Sequencer events, array, elements, convolution -/

namespace Gd
def waitTask : Core := withTask fun k => { k with st := .waiting, wait := .slot 0 }
def noneRuns (q : Core) : Core := { q with seq := { q.seq with running := none } }
def started0 (hot : Bool) : State := mesh (onCore0 { Core.reset with img := { Residency_.none with codeSize := 1024, entry := 3, hotEntry := 4 } }) [.start 0 hot]
def int8 : Fmt := ⟨1, false, false⟩
def wOp (n : Nat) (drain : Bool) : ArrOp :=
  { form := some .normal, heading := some .w, transposed := false, mode := some .mac, mask := 1, slot := 0, rnd := 0,
    accInit := true, drain := drain, conv := false, fs := int8, fv := int8, fc := int8, n := n, rows := 2, ncols := 1, accBase := [0], srcV := 0, vstride := 32, srcC := 0,
    sclV := 0, sclC := 0, sclT := 0 }
def rowLoad : ArrLoad := ⟨1, 0, int8, 64, 32, 0, 0⟩
def tg : QTag := ⟨0, 1, 0⟩
def withArr (f : ArrayUnit → ArrayUnit) : Core := { runCore with arr := f runCore.arr }
def loaded (u : ArrayUnit) : ArrayUnit := { u with slots := setAt u.slots 0 ⟨true, int8, true, 0, int8, [[3#8], [0xFC#8]], []⟩ }
def inIssue (lim : Nat) : Core := withArr fun u => { loaded u with limit := lim, ops := [{ ArrAct.new tg (wOp 1 false) with started := true, read := 1, bcast := 1, fed := [⟨[5#8, 2#8], []⟩] }] }
def drains : Core := withArr fun u => { loaded u with acc := [(accKey 0 0 0, ⟨7, false, true, 1⟩)], ops := [{ ArrAct.new tg (wOp 1 true) with started := true, read := 1, bcast := 1, lanes := [⟨1, false, 1, 1, 0, [], [], []⟩] }] }
def kept : Core := withArr fun u => { u with last := some (.normal, .w, false, 1), budget := 64, gapBudget := 64 }
def withElm (f : ElementUnit → ElementUnit) : Core := { runCore with elm := f runCore.elm }
def fp32 : Fmt := ⟨7, false, false⟩
def elp (dst : Bool) : ElpCmd :=
  { cfg := 0, src0 := 0, src1 := 0, dst := dst, rec_ := false, lanes := 4, sh := 0, rows := 1, fmt0 := fp32, fmt1 := fp32, fmtO := fp32, rndO := 0,
    satO := false, count := 1, gen := 0, dcount := 1, addr0 := 0, stride0 := 0, scl0 := 0, addr1 := 0, stride1 := 0, scl1 := 0, addrO := 128,
    dstride0 := 0, dstride1 := 0, sclO := 0, maskAddr := 0 }
def elmQ (e : ElmCmd) : Core := withElm fun u => { u with queue := [(tg, e)] }
def okCfg (u : ElementUnit) : ElementUnit := { u with cfgs := setAt u.cfgs 0 (List.replicate 8 0), cfgLoaded := setAt u.cfgLoaded 0 true }
def bound (r : Residency) (u : ElementUnit) : ElementUnit := { u with handles := setAt u.handles 3 ⟨256, 1, false, 0, 0, r, false⟩ }
def withCnv (f : ConvUnit → ConvUnit) : Core := { runCore with cnv := f runCore.cnv }
def gav : GavgCmd := { fmt := int8, planes := 1, base := 512, planeStride := 16, rowStride := 16, h := 1, w := 4, dest := 1024 }
def gavAct (r : Nat) : ConvAct := ⟨tg, .gavg gav, [], [], r, 0, 0, 0, 0, if r = 0 then [] else [[3#8, 5#8, 0#8, 0#8]]⟩
def win : WinCmd := { fmt := int8, planes := 1, kh := 1, kw := 1, sy := 1, sx := 1, padY := .zero, padX := .zero, keep := false, dy := 1, dx := 1, padConst := 0, pt := 0, pl := 0, base := 512, planeStride := 16, rowStride := 16, h := 1, w := 4, yLo := 0, yHi := 1, xLo := 0, xHi := 4, wOut := 4, count := 4, q0 := 0, s0 := 0, ns := 1 }
def winAct : ConvAct := ⟨tg, .win win, [(0, 0)], [], 0, 0, 0, 0, 0, []⟩
def convOp : ArrAct := ArrAct.new tg { wOp 4 false with conv := true, rows := 1 }
def prot (q : Core) : Core := { q with img := { runCore.img with valid := true, sections := [⟨0, 2048, 1, false, 0⟩] } }
def chunkReady : Core := withElm fun u => { bound .resident (okCfg u) with wait := some (tg, { elp true with rec_ := true, sh := 3, fmtO := int8 }), fileSh := 3, fileValid := true }
def wb : WriteBack := ⟨tg, 3, 256, 1, false, []⟩

theorem met_SequencerEventsActOnTheirTask (h : Obligations.SequencerEventsActOnTheirTask) :
    runs (.taskReady 0 0) (onCore0 (noneRuns waitTask)) ∧
    runs (.instructionBufferMiss 0) (onCore0 (withTask fun k => { k with pc := 20 })) ∧
    runs (.coreHang 0) (onCore0 { runCore with seq := { runCore.seq with idle := 2 ^ 26 } }) ∧
    runs (.startPacket 0) (started0 false) ∧
    runs (.startPacket 0) (started0 true) ∧
    runs (.instructionBufferMiss 0) (denied (onCore0 (withTask fun k => { k with pc := 20 })) .window) :=
  ⟨runs_of (((h (onCore0 (noneRuns waitTask)) 0 0).1) (by decide) (by decide) (by decide)),
   runs_of (((h (onCore0 (withTask fun k => { k with pc := 20 })) 0 0).2.2.1) (by decide) (by decide) (by decide) (by decide)),
   runs_of (((h (onCore0 { runCore with seq := { runCore.seq with idle := 2 ^ 26 } }) 0 0).2.2.2.1) (by decide) (by decide)),
   runs_of (((h (started0 false) 0 0).2.2.2.2 (jobIn .running 1 0) false) (by decide) (by decide) (by decide) (by decide) (by decide) (by decide)),
   runs_of (((h (started0 true) 0 0).2.2.2.2 (jobIn .running 1 0) true) (by decide) (by decide) (by decide) (by decide) (by decide) (by decide)),
   runs_of (((h (denied (onCore0 (withTask fun k => { k with pc := 20 })) .window) 0 0).2.1) (by decide))⟩

theorem met_ArrayUnitTakesAndFeeds (h : Obligations.ArrayUnitTakesAndFeeds) :
    runs (.arrayQueueTake 0) (onCore0 (withArr fun u => { loaded u with queue := [(tg, .op (wOp 2 false))] })) ∧
    runs (.arrayQueueTake 0) (onCore0 (withArr fun u => { u with queue := [(tg, .op (wOp 2 false))] })) ∧
    runs (.arrayQueueTake 0) (onCore0 (withArr fun u => { u with queue := [(tg, .load rowLoad)] })) ∧
    runs (.slotLoadComplete 0) (onCore0 { withArr (fun u => { u with loads := [⟨tg, rowLoad⟩] }) with tile := [(64, 9#8), (97, 4#8)] }) ∧
    runs (.streamedVectorRead 0) (onCore0 (withArr fun u => { loaded u with ops := [ArrAct.new tg (wOp 2 false)] })) ∧
    runs (.broadcastWrite 0) (onCore0 (withArr fun u => { loaded u with ops := [{ ArrAct.new tg (wOp 2 false) with read := 1, inflight := [⟨[5#8], []⟩] }] })) ∧
    runs (.streamedVectorRead 0) (denied (onCore0 (withArr fun u => { loaded u with ops := [ArrAct.new tg (wOp 2 false)] })) .window) :=
  ⟨runs_of ((((h (onCore0 (withArr fun u => { loaded u with queue := [(tg, .op (wOp 2 false))] })) 0).1 tg (wOp 2 false) [] (by decide) (by decide) (by decide)).1) (by decide)),
   runs_of ((((h (onCore0 (withArr fun u => { u with queue := [(tg, .op (wOp 2 false))] })) 0).1 tg (wOp 2 false) [] (by decide) (by decide) (by decide)).2 0x0407) (by decide) (by decide)),
   runs_of (((h (onCore0 (withArr fun u => { u with queue := [(tg, .load rowLoad)] })) 0).2.1 tg rowLoad []) (by decide) (by decide) (by decide)),
   runs_of (((h (onCore0 { withArr (fun u => { u with loads := [⟨tg, rowLoad⟩] }) with tile := [(64, 9#8), (97, 4#8)] }) 0).2.2.1 ⟨tg, rowLoad⟩ []) (by decide) (by decide) (by decide)),
   runs_of (((h (onCore0 (withArr fun u => { loaded u with ops := [ArrAct.new tg (wOp 2 false)] })) 0).2.2.2.2.1 (ArrAct.new tg (wOp 2 false)) []) (by decide) (by decide) (by decide)),
   runs_of (((h (onCore0 (withArr fun u => { loaded u with ops := [{ ArrAct.new tg (wOp 2 false) with read := 1, inflight := [⟨[5#8], []⟩] }] })) 0).2.2.2.2.2 { ArrAct.new tg (wOp 2 false) with read := 1, inflight := [⟨[5#8], []⟩] } ⟨[5#8], []⟩ [] []) (by decide) (by decide) (by decide) (by decide)),
   runs_of (((h (denied (onCore0 (withArr fun u => { loaded u with ops := [ArrAct.new tg (wOp 2 false)] })) .window) 0).2.2.2.1) (by decide))⟩

theorem met_ArrayCyclesIssueDrainAndKeep (h : Obligations.ArrayCyclesIssueDrainAndKeep) :
    runs (.arrayIssueCycle 0) (onCore0 (inIssue 8)) ∧
    runs (.arrayIssueCycle 0) (onCore0 (inIssue 64)) ∧
    runs (.drainRead 0) (onCore0 drains) ∧
    runs (.stationKeepingDummy 0) (onCore0 kept) :=
  ⟨runs_of ((((h (onCore0 (inIssue 8)) 0).1 { ArrAct.new tg (wOp 1 false) with started := true, read := 1, bcast := 1, fed := [⟨[5#8, 2#8], []⟩] } []) (by decide) (by decide) (by decide) (by decide)).1 (by decide)),
   runs_of ((((((h (onCore0 (inIssue 64)) 0).1 { ArrAct.new tg (wOp 1 false) with started := true, read := 1, bcast := 1, fed := [⟨[5#8, 2#8], []⟩] } []) (by decide) (by decide) (by decide) (by decide)).2 (by decide)) (by decide)) (by decide)),
   runs_of (((h (onCore0 drains) 0).2.1 { ArrAct.new tg (wOp 1 true) with started := true, read := 1, bcast := 1, lanes := [⟨1, false, 1, 1, 0, [], [], []⟩] } []) (by decide) (by decide) (by decide) (by decide)),
   runs_of (((h (onCore0 kept) 0).2.2) (by decide) (by decide) (by decide) (by decide) (by decide) (by decide) (by decide) (by decide) (by decide) (by decide) (by decide))⟩

theorem met_ElementUnitTakesAndLoads (h : Obligations.ElementUnitTakesAndLoads) :
    runs (.elementQueueTake 0) (onCore0 (withElm fun u => { okCfg u with queue := [(tg, .cmd (elp true))] })) ∧
    runs (.elementQueueTake 0) (onCore0 (elmQ (.cmd { elp true with fmtO := ⟨15, false, false⟩ }))) ∧
    runs (.elementQueueTake 0) (onCore0 (elmQ (ElmCmd.cfg 2 64))) ∧
    runs (.elementQueueTake 0) (onCore0 (elmQ (.bind ⟨3, 1, false, false, 7, 256, 0⟩))) ∧
    runs (.elementQueueTake 0) (onCore0 (withElm fun u => { bound .resident u with queue := [(tg, .swapOut 3)] })) ∧
    runs (.configLoadComplete 0) (onCore0 (withElm fun u => { u with load := some (.cfg tg 2 64) })) ∧
    runs (.tableLoadComplete 0) (onCore0 (withElm fun u => { u with load := some (.table tg 2 64) })) :=
  ⟨runs_of (((((h (onCore0 (withElm fun u => { okCfg u with queue := [(tg, .cmd (elp true))] })) 0).1 tg (elp true) []) (by decide) (by decide) (by decide) (by decide)).1 (by decide)) (by decide)),
   runs_of ((((h (onCore0 (elmQ (.cmd { elp true with fmtO := ⟨15, false, false⟩ }))) 0).1 tg { elp true with fmtO := ⟨15, false, false⟩ } [] (by decide) (by decide) (by decide) (by decide)).2 0x0501) (by decide) (by decide)),
   runs_of (((h (onCore0 (elmQ (.cfg 2 64))) 0).2.1 tg 2 64 []) (by decide) (by decide) (by decide) (by decide)),
   runs_of (((h (onCore0 (elmQ (.bind ⟨3, 1, false, false, 7, 256, 0⟩))) 0).2.2.1 tg ⟨3, 1, false, false, 7, 256, 0⟩ []) (by decide) (by decide) (by decide) (by decide) (by decide) (by decide) (by decide)),
   runs_of (((h (onCore0 (withElm fun u => { bound .resident u with queue := [(tg, .swapOut 3)] })) 0).2.2.2.1 tg 3 []) (by decide) (by decide) (by decide) (by decide) (by decide) (by decide) (by decide)),
   runs_of (((h (onCore0 (withElm fun u => { u with load := some (.cfg tg 2 64) })) 0).2.2.2.2.1 tg 2 64) (by decide) (by decide) (by decide) (by decide)),
   runs_of (((h (onCore0 (withElm fun u => { u with load := some (.table tg 2 64) })) 0).2.2.2.2.2 tg 2 64) (by decide) (by decide) (by decide) (by decide))⟩

theorem met_ElementVectorsPassAndAreWritten (h : Obligations.ElementVectorsPassAndAreWritten) :
    runs (.elementVectorEntry 0) (onCore0 (withElm fun u => { okCfg u with acts := [⟨tg, elp true, 0, 0, none, 0, none⟩] })) ∧
    runs (.outputWriterWrite 0) (onCore0 (withElm fun u => { u with outQ := [⟨tg, elp true, 0, plainVector 4⟩] })) ∧
    runs (.outputWriterWrite 0) (onCore0 { withElm (fun u => { u with outQ := [⟨tg, elp true, 0, plainVector 4⟩] }) with img := { runCore.img with valid := true, sections := [⟨0, 256, 1, false, 0⟩] } }) ∧
    runs (.elementVectorEntry 0) (denied (onCore0 (withElm fun u => { okCfg u with outQ := [⟨tg, elp true, 0, plainVector 4⟩], acts := [⟨tg, elp true, 0, 0, none, 0, none⟩] })) .window) ∧
    runs (.outputWriterWrite 0) (denied (onCore0 (withElm fun u => { u with outQ := [⟨tg, elp true, 0, plainVector 4⟩] })) .window) :=
  ⟨runs_of ((((h.1 (onCore0 (withElm fun u => { okCfg u with acts := [⟨tg, elp true, 0, 0, none, 0, none⟩] })) 0 ⟨tg, elp true, 0, 0, none, 0, none⟩ [] (by decide) (by decide) (by decide) (by decide) (by decide) (by decide) (by decide) (by decide)).2 (by decide) (by decide)).1) (by decide +kernel)),
   runs_of (((h.2 (onCore0 (withElm fun u => { u with outQ := [⟨tg, elp true, 0, plainVector 4⟩] })) 0 ⟨tg, elp true, 0, plainVector 4⟩ [] (by decide) (by decide)).2.1) (by decide) (by decide)),
   runs_of (((h.2 (onCore0 { withElm (fun u => { u with outQ := [⟨tg, elp true, 0, plainVector 4⟩] }) with img := { runCore.img with valid := true, sections := [⟨0, 256, 1, false, 0⟩] } }) 0 ⟨tg, elp true, 0, plainVector 4⟩ [] (by decide) (by decide)).2.2) (by decide) (by decide) (by decide)),
   runs_of (((h.1 (denied (onCore0 (withElm fun u => { okCfg u with outQ := [⟨tg, elp true, 0, plainVector 4⟩], acts := [⟨tg, elp true, 0, 0, none, 0, none⟩] })) .window) 0 ⟨tg, elp true, 0, 0, none, 0, none⟩ [] (by decide) (by decide) (by decide) (by decide) (by decide) (by decide) (by decide) (by decide)).1) (by decide)),
   runs_of (((h.2 (denied (onCore0 (withElm fun u => { u with outQ := [⟨tg, elp true, 0, plainVector 4⟩] })) .window) 0 ⟨tg, elp true, 0, plainVector 4⟩ [] (by decide) (by decide)).1) (by decide))⟩

theorem met_StateHandlesAreWrittenBackAndSwapped (h : Obligations.StateHandlesAreWrittenBackAndSwapped) :
    runs (.chunkResume 0) (onCore0 chunkReady) ∧
    runs (.stateWritebackDone 0) (onCore0 (withElm fun u => { u with wbs := [wb] })) ∧
    runs (.swapComplete 0 3 []) (onCore0 (withElm fun u => { bound .outgoing u with swaps := [⟨3, true, none, true, 1048576⟩] })) ∧
    runs (.swapComplete 0 3 ((accs (onCore0 (withElm fun u => let __src := bound Residency.incoming u; { queue := __src.queue, acts := __src.acts, load := __src.load, cfgs := __src.cfgs, cfgLoaded := __src.cfgLoaded, tables := __src.tables, tabLoaded := __src.tabLoaded, lregs := __src.lregs, handles := __src.handles, file := __src.file, fileSh := __src.fileSh, fileValid := __src.fileValid, fileGen := __src.fileGen, wait := __src.wait, outQ := __src.outQ, wbs := __src.wbs, swaps := [{ sh := 3, out := false, tag := none, acked := true, pos := 1048576 }], entered := __src.entered, cnt := __src.cnt })) [readAcc (FabOwner.swapIn 0 3) [1#8, 2#8]]).ownerTake (FabOwner.swapIn ↑0 ↑3)).fst) (accs (onCore0 (withElm fun u => { bound .incoming u with swaps := [⟨3, false, none, true, 1048576⟩] })) [readAcc (.swapIn 0 3) [1#8, 2#8]]) ∧
    runs (.swapComplete 0 3 []) (onCore0 (withElm fun u => { bound .incoming u with swaps := [⟨3, false, none, true, 0⟩] })) :=
  ⟨runs_of (((h (onCore0 chunkReady) 0).1 tg { elp true with rec_ := true, sh := 3, fmtO := int8 }) (by decide) (by decide) (by decide)),
   runs_of (((h (onCore0 (withElm fun u => { u with wbs := [wb] })) 0).2.1 wb []) (by decide) (by decide)),
   runs_of ((((h (onCore0 (withElm fun u => { bound .outgoing u with swaps := [⟨3, true, none, true, 1048576⟩] })) 0).2.2 3 ⟨3, true, none, true, 1048576⟩ (by decide) (by decide) (by decide)).2.1) (by decide) (by decide) (by decide) (by decide) (by decide) (by decide) (by decide)),
   runs_of ((((h (accs (onCore0 (withElm fun u => { bound .incoming u with swaps := [⟨3, false, none, true, 1048576⟩] })) [readAcc (.swapIn 0 3) [1#8, 2#8]]) 0).2.2 3 ⟨3, false, none, true, 1048576⟩ (by decide) (by decide) (by decide)).2.2) (by decide) (by decide) (by decide) (by decide)),
   runs_of ((((h (onCore0 (withElm fun u => { bound .incoming u with swaps := [⟨3, false, none, true, 0⟩] })) 0).2.2 3 ⟨3, false, none, true, 0⟩ (by decide) (by decide) (by decide)).1 []) (by decide))⟩

theorem met_ConvolutionEngineRunsItsCommands (h : Obligations.ConvolutionEngineRunsItsCommands) :
    runs (.convQueueTake 0) (onCore0 (withCnv fun u => { u with queue := [(tg, .gavg gav)] })) ∧
    runs (.convQueueTake 0) (onCore0 (withCnv fun u => { u with queue := [(tg, .gavg { gav with dest := 1025 })] })) ∧
    runs (.convQueueTake 0) (onCore0 (withCnv fun u => { u with queue := [(tg, .win win)] })) ∧
    runs (.lineLoadRead 0) (onCore0 (withCnv fun u => { u with acts := [gavAct 0] })) ∧
    runs (.vectorFormation 0) (onCore0 { withCnv (fun u => { u with acts := [winAct] }) with arr := { runCore.arr with ops := [convOp] } }) ∧
    runs (.globalAverageFinish 0) (onCore0 { withCnv (fun u => { u with acts := [gavAct 1] }) with tile := [(512, 3#8), (513, 5#8)] }) ∧
    runs (.globalAverageFinish 0) (onCore0 (prot (withCnv fun u => { u with acts := [gavAct 1] }))) ∧
    runs (.lineLoadRead 0) (denied (onCore0 (withCnv fun u => { u with acts := [gavAct 0] })) .window) :=
  ⟨runs_of ((((h (onCore0 (withCnv fun u => { u with queue := [(tg, .gavg gav)] })) 0).1 tg gav []) (by decide) (by decide)).1 (by decide)),
   runs_of ((((h (onCore0 (withCnv fun u => { u with queue := [(tg, .gavg { gav with dest := 1025 })] })) 0).1 tg { gav with dest := 1025 } [] (by decide) (by decide)).2 0x0603) (by decide) (by decide)),
   runs_of (((h (onCore0 (withCnv fun u => { u with queue := [(tg, .win win)] })) 0).2.1 tg win []) (by decide) (by decide) (by decide) (by decide) (by decide)),
   runs_of (((h (onCore0 (withCnv fun u => { u with acts := [gavAct 0] })) 0).2.2.2.1 (gavAct 0) gav []) (by decide) (by decide) (by decide) (by decide)),
   runs_of (((h (onCore0 { withCnv (fun u => { u with acts := [winAct] }) with arr := { runCore.arr with ops := [convOp] } }) 0).2.2.2.2.1 winAct win [] convOp []) (by decide) (by decide) (by decide) (by decide) (by decide) (by decide) (by decide) (by decide) (by decide) (by decide)),
   runs_of ((((h (onCore0 { withCnv (fun u => { u with acts := [gavAct 1] }) with tile := [(512, 3#8), (513, 5#8)] }) 0).2.2.2.2.2 (gavAct 1) gav []) (by decide) (by decide) (by decide)).1 (by decide)),
   runs_of (((((h (onCore0 (prot (withCnv fun u => { u with acts := [gavAct 1] }))) 0).2.2.2.2.2 (gavAct 1) gav []) (by decide) (by decide) (by decide)).2 (by decide)) (by decide)),
   runs_of (((h (denied (onCore0 (withCnv fun u => { u with acts := [gavAct 0] })) .window) 0).2.2.1) (by decide))⟩

end Gd

/-! ## Mailbox, barriers, waypoint events, handle queues -/

namespace Ge
def tg : QTag := ⟨0, 1, 0⟩
def withMsg (f : MsgUnit → MsgUnit) : Core := { runCore with msg := f runCore.msg }
def sends : Core := withMsg fun u => { u with queue := [(tg, .send 0 1)] }
def prot (q : Core) : Core := { q with img := { runCore.img with valid := true, sections := [⟨0, 2048, 1, false, 0⟩] } }
def ent : MbEntry := ⟨4, 1, [9#8], true⟩
def recvs : Core := withMsg fun u => { u with queue := [(tg, .recv 128 3 4)], entries := [ent] }
def arrives (b : Nat) : Core := withMsg fun u => { u with queue := [(tg, .barArrive b)] }
def twoCores : State := { run0 with grid := { run0.grid with jobs := [jobIn .running 3 0] } }
def chainJob (m : Nat × Nat) : Job := { jobIn .running 1 0 with multi := some m }
def chained (m : Nat × Nat) : State := mesh { run0 with grid := { run0.grid with jobs := [chainJob m] } } [.barArrive 0 0 200 1#16]
def waitFor (w : Wait) : Core := { withTask (fun k => { k with st := .waiting, wait := w }) with seq := { runCore.seq with running := none } }
def wp : Wpt := ⟨63, 0, 0, 0⟩
def h1 : State := run0.modPart 0 fun p => { p with hqs := modAt p.hqs 3 fun q => { q with q := [5#64] } }
def hfull : State := run0.modPart 0 fun p => { p with hqs := modAt p.hqs 3 fun q => { q with q := List.replicate 32 5#64 } }
def hget : State := run0.modPart 0 fun p => { p with hqs := modAt p.hqs 3 fun q => { q with gets := [(1, 2)] } }
def href : State := run0.modPart 0 fun p => { p with hqs := modAt p.hqs 3 fun q => { q with q := [5#64], refused := [(1, 2)] } }
def two (q : Core) : State := { onCore0 q with grid := { run0.grid with jobs := [jobIn .running 3 0] } }

theorem met_MailboxEventsMoveCreditsAndMessages (h : Obligations.MailboxEventsMoveCreditsAndMessages) :
    runs (.mbSendTake 0) (onCore0 sends) ∧
    runs (.mbSendTake 0) (two { sends with msg := { sends.msg with credits := [(1, 2)] } }) ∧
    runs (.mbSendTake 0) (two sends) ∧
    runs (.creditRequest 1 0) (mesh (onCore0 (withMsg fun u => { u with pool := 0 })) [.creditReq 1 0 3]) ∧
    runs (.creditRequest 1 0) (mesh run0 [Pkt.creditReq 1 0 3]) ∧
    runs (.creditGrant 0 1) (mesh (onCore0 (withMsg fun u => { u with sending := some ⟨tg, 1, [1#8]⟩ })) [.creditGrant 0 1 3]) ∧
    runs (.creditReturn 1 0) (mesh run0 [Pkt.creditRet 1 0 3]) ∧
    runs (.creditReturn 1 0) (mesh (onCore0 (withMsg fun u => { u with pool := 0, reqList := [(5, 2)] })) [.creditRet 1 0 4]) ∧
    runs (.messageArrival 1 0) (mesh run0 [Pkt.message 1 0 [7#8]]) ∧
    runs (.mbRecvTake 0) (onCore0 recvs) ∧
    runs (.mbRecvTake 0) (onCore0 (prot recvs)) :=
  ⟨runs_of ((((h (onCore0 sends) 0 1 tg 0 1 [] []).1 (by decide) (by decide) (by decide) (by decide)).1) (by decide)),
   runs_of ((((h (two { sends with msg := { sends.msg with credits := [(1, 2)] } }) 0 1 tg 0 1 [] []).1 (by decide) (by decide) (by decide) (by decide)).2.1) (by decide) (by decide)),
   runs_of ((((h (two sends) 0 1 tg 0 1 [] []).1 (by decide) (by decide) (by decide) (by decide)).2.2) (by decide) (by decide)),
   runs_of ((((h (mesh (onCore0 (withMsg fun u => { u with pool := 0 })) [.creditReq 1 0 3]) 0 1 tg 0 3 [] []).2.1 (by decide) (by decide)).1) (by decide)),
   runs_of ((((h (mesh run0 [.creditReq 1 0 3]) 0 1 tg 0 3 [] []).2.1 (by decide) (by decide)).2) (by decide) (by decide)),
   runs_of (((h (mesh (onCore0 (withMsg fun u => { u with sending := some ⟨tg, 1, [1#8]⟩ })) [.creditGrant 0 1 3]) 0 1 tg 0 3 [] []).2.2.1 [1#8]) (by decide) (by decide) (by decide) (by decide)),
   runs_of (((h (mesh run0 [.creditRet 1 0 3]) 0 1 tg 0 3 [] []).2.2.2.1) (by decide) (by decide) (by decide)),
   runs_of (((h (mesh (onCore0 (withMsg fun u => { u with pool := 0, reqList := [(5, 2)] })) [.creditRet 1 0 4]) 0 1 tg 0 3 [] []).2.2.2.2.1 5 2) (by decide) (by decide) (by decide) (by decide)),
   runs_of (((h (mesh run0 [.message 1 0 [7#8]]) 0 1 tg 0 3 [] []).2.2.2.2.2.1 [7#8]) (by decide) (by decide)),
   runs_of ((((h (onCore0 recvs) 0 1 tg 128 3 [] []).2.2.2.2.2.2 ent 3#5) (by decide) (by decide) (by decide) (by decide) (by decide) (by decide)).1 (by decide)),
   runs_of (((((h (onCore0 (prot recvs)) 0 1 tg 128 3 [] []).2.2.2.2.2.2 ent 3#5) (by decide) (by decide) (by decide) (by decide) (by decide) (by decide)).2 (by decide)) (by decide))⟩

theorem met_BarrierEventsCountAndComplete (h : Obligations.BarrierEventsCountAndComplete) :
    runs (.barArriveTake 0) (onCore0 (arrives 7)) ∧
    runs (.barArriveTake 0) (onCore0 (arrives 200)) ∧
    runs (.barrierArrival 0 7) (mesh twoCores [Pkt.barArrive 0 0 7 1#16]) ∧
    runs (.barrierArrival 0 7) (mesh (twoCores.modPart 0 fun p => { p with bars := [⟨7, 1#16, 1⟩] }) [.barArrive 0 0 7 1#16]) ∧
    runs (.barrierArrival 0 200) (chained (1, 3)) ∧
    runs (.barrierArrival 0 200) (chained (0, 3)) ∧
    runs (.barrierCompletion 0 7) (mesh run0 [Pkt.barDone 0 7]) :=
  ⟨runs_of ((((h (onCore0 (arrives 7)) 0 7 (jobIn .running 1 0) [] (by decide)).1 tg [] (by decide) (by decide) (by decide) (by decide)).1) (by decide) (by decide)),
   runs_of ((((h (onCore0 (arrives 200)) 0 200 (jobIn .running 1 0) [] (by decide)).1 tg [] (by decide) (by decide) (by decide) (by decide)).2) (by decide) (by decide)),
   runs_of ((((h (mesh twoCores [.barArrive 0 0 7 1#16]) 0 7 (jobIn .running 3 0) [] (by decide)).2.1 0 1#16 (by decide) (by decide) (by decide)).1) (by decide)),
   runs_of ((((h (mesh (twoCores.modPart 0 fun p => { p with bars := [⟨7, 1#16, 1⟩] }) [.barArrive 0 0 7 1#16]) 0 7 (jobIn .running 3 0) [] (by decide)).2.1 0 1#16 (by decide) (by decide) (by decide)).2) (by decide)),
   runs_of ((((h (chained (1, 3)) 0 200 (chainJob (1, 3)) [] (by decide)).2.1 0 1#16 (by decide) (by decide) (by decide)).2 (by decide))),
   runs_of ((((h (chained (0, 3)) 0 200 (chainJob (0, 3)) [] (by decide)).2.1 0 1#16 (by decide) (by decide) (by decide)).2 (by decide))),
   runs_of (((h (mesh run0 [.barDone 0 7]) 0 7 (jobIn .running 1 0) [] (by decide)).2.2) (by decide) (by decide) (by decide))⟩

theorem met_WaypointEventsReleaseTasksAndCores (h : Obligations.WaypointEventsReleaseTasksAndCores) :
    runs (.waypointSatisfied 0 0) (onCore0 (waitFor (Wait.wpt wp false))) ∧
    runs (.releaseConditionMet 0 0) (onCore0 (withTask fun k => { k with rels := [wp] })) ∧
    runs (.finalWaypointRetire 0) (onCore0 (waitFor Wait.final)) ∧
    runs (.finalWaypointRetire 0) (onCore0 { waitFor .final with arr := { runCore.arr with ops := [ArrAct.new tg { form := some .normal, heading := some .w, transposed := false, mode := some .mac, mask := 1, slot := 0, rnd := 0, accInit := true, drain := false, conv := true, fs := ⟨1, false, false⟩, fv := ⟨1, false, false⟩, fc := ⟨1, false, false⟩, n := 1, rows := 2, ncols := 1, accBase := [0], srcV := 0, vstride := 32, srcC := 0, sclV := 0, sclC := 0, sclT := 0 }] } }) :=
  ⟨runs_of (((h (onCore0 (waitFor (.wpt wp false))) 0 0).1 wp false) (by decide) (by decide) (by decide) (by decide) (by decide) (by decide)),
   runs_of (((h (onCore0 (withTask fun k => { k with rels := [wp] })) 0 0).2.1 wp []) (by decide) (by decide) (by decide) (by decide)),
   runs_of ((((h (onCore0 (waitFor .final)) 0 0).2.2 (jobIn .running 1 0) (by decide) (by decide) (by decide) (by decide) (by decide)).1) (by decide) (by decide) (by decide)),
   runs_of ((((h (onCore0 { waitFor .final with arr := { runCore.arr with ops := [ArrAct.new tg { form := some .normal, heading := some .w, transposed := false, mode := some .mac, mask := 1, slot := 0, rnd := 0, accInit := true, drain := false, conv := true, fs := ⟨1, false, false⟩, fv := ⟨1, false, false⟩, fc := ⟨1, false, false⟩, n := 1, rows := 2, ncols := 1, accBase := [0], srcV := 0, vstride := 32, srcC := 0, sclV := 0, sclC := 0, sclT := 0 }] } }) 0 0).2.2 (jobIn .running 1 0) (by decide) (by decide) (by decide) (by decide) (by decide)).2) (by decide))⟩

theorem met_HandleQueueEventsDeliver (h : Obligations.HandleQueueEventsDeliver) :
    runs (.hqPutPacket 0 0) (mesh run0 [Pkt.hqPut 0 0 0 3 (9#64) 0]) ∧
    runs (.hqPutPacket 0 0) (mesh hget [Pkt.hqPut 0 0 0 3 (9#64) 0]) ∧
    runs (.hqPutPacket 0 0) (mesh hfull [Pkt.hqPut 0 0 0 3 (9#64) 0]) ∧
    runs (.hqGetRequest 0 0) (mesh h1 [Pkt.hqGet 0 0 0 3]) ∧
    runs (.hqGetRequest 0 0) (mesh href [Pkt.hqGet 0 0 0 3]) ∧
    runs (.hqGetRequest 0 0) (mesh run0 [Pkt.hqGet 0 0 0 3]) ∧
    runs (.hqPutReply 0 0) (mesh (onCore0 (waitFor (Wait.hqPut 3 9 false))) [Pkt.hqPutRep 0 0 true]) ∧
    runs (.hqPutReply 0 0) (mesh (onCore0 (waitFor (Wait.hqPut 3 9 false))) [Pkt.hqPutRep 0 0 false]) ∧
    runs (.hqGetReply 0 0) (mesh (onCore0 (waitFor (Wait.hqGet 3 4))) [Pkt.hqGetRep 0 0 9 0]) ∧
    runs (.hqSpaceNotice 0 0) (mesh (onCore0 (waitFor (Wait.hqPut 3 9 true))) [Pkt.hqSpace 0 0]) :=
  ⟨runs_of ((((h (mesh run0 [.hqPut 0 0 0 3 9#64 0]) 0 0 0 3 9 0 [] (by decide)).1 (by decide) (by decide) (by decide)).1) (by decide) (by decide)),
   runs_of ((((h (mesh hget [.hqPut 0 0 0 3 9#64 0]) 0 0 0 3 9 0 [] (by decide)).1 (by decide) (by decide) (by decide)).2.1 1 2 []) (by decide) (by decide)),
   runs_of ((((h (mesh hfull [.hqPut 0 0 0 3 9#64 0]) 0 0 0 3 9 0 [] (by decide)).1 (by decide) (by decide) (by decide)).2.2) (by decide)),
   runs_of ((((h (mesh h1 [.hqGet 0 0 0 3]) 0 0 0 3 5 0 [] (by decide)).2.1 (by decide) (by decide) (by decide)).1 []) (by decide) (by decide) (by decide)),
   runs_of ((((h (mesh href [.hqGet 0 0 0 3]) 0 0 0 3 5 0 [] (by decide)).2.1 (by decide) (by decide) (by decide)).2.1 [] 1 2 []) (by decide) (by decide) (by decide) (by decide)),
   runs_of ((((h (mesh run0 [.hqGet 0 0 0 3]) 0 0 0 3 5 0 [] (by decide)).2.1 (by decide) (by decide) (by decide)).2.2) (by decide)),
   runs_of (((h (mesh (onCore0 (waitFor (.hqPut 3 9 false))) [.hqPutRep 0 0 true]) 0 0 0 3 9 0 [] (by decide)).2.2.1) (by decide) (by decide) (by decide) (by decide) (by decide) (by decide)),
   runs_of (((h (mesh (onCore0 (waitFor (.hqPut 3 9 false))) [.hqPutRep 0 0 false]) 0 0 0 3 9 0 [] (by decide)).2.2.2.1) (by decide) (by decide) (by decide) (by decide)),
   runs_of (((h (mesh (onCore0 (waitFor (.hqGet 3 4))) [.hqGetRep 0 0 9 0]) 0 0 0 3 9 0 [] (by decide)).2.2.2.2.1 4#5) (by decide) (by decide) (by decide) (by decide) (by decide) (by decide) (by decide)),
   runs_of (((h (mesh (onCore0 (waitFor (.hqPut 3 9 true))) [.hqSpace 0 0]) 0 0 0 3 9 0 [] (by decide)).2.2.2.2.2) (by decide) (by decide) (by decide) (by decide) (by decide) (by decide))⟩

end Ge

/-! ## Streams -/

namespace Gf
def tg : QTag := ⟨0, 1, 0⟩
def mkDesc (ctl deadline src srcLoc dst dstLoc : Nat) (counts : List Nat) (ss ds : List Nat) : List Byte :=
  toLe 4 ctl ++ toLe 4 deadline ++ toLe 6 src ++ toLe 1 srcLoc ++ toLe 1 dstLoc ++ toLe 6 dst ++
  counts.flatMap (fun c => toLe 2 (c - 1)) ++ ss.flatMap (toLe 4) ++ ds.flatMap (toLe 4)
def withStr (f : StreamUnit → StreamUnit) : Core := { runCore with str := f runCore.str }
def placed (b : List Byte) (q : Core) : Core := { q with tile := q.tile.write 4096 b }
def goQ : Core := withStr fun u => { u with queue := [(tg, .go 0 4096)] }
def defB (len : Nat) : List Byte := mkDesc (1 + 4 * len + 2048 + 5*2^15) 0 77 0 128 0 [4,1,1,1,1] [0,0,0,0] [0,0,0,0]
def mv (src dst : Nat) : List Byte := mkDesc 2048 0 src 0 dst 0 [16,1,1,1,1] [0,0,0,0] [0,0,0,0]
def slot0 (f : StrSlot → StrSlot) : Core := withStr fun u => { u with slots := setAt u.slots 0 (f { StrSlot.idle0 with tag := tg }) }
def chn : Desc := parseDesc (mkDesc (2 + 2048 + 3 * 2^12) 0 0 0 0 (1 + 8) [1,1,1,1,1] [0,0,0,0] [0,0,0,0])
def mvD : Desc := parseDesc (mv 0 64)
def landed (st : HalfState) (q : Core) : Core := { q with str := { q.str with bufs := setAt q.str.bufs 5 ⟨256, 64, ⟨st, 7, []⟩, ⟨.empty, 6, []⟩⟩ } }
def toHalf (land gen : Nat) : Desc := parseDesc (mkDesc (land * 1024) 0 0 0 (gen * 2^28 + 5 * 2^21) 4 [16,1,1,1,1] [0,0,0,0] [0,0,0,0])
def going (d : Desc) (q : Core := runCore) : Core := { q with str := { q.str with slots := setAt q.str.slots 0 { StrSlot.idle0 with tag := tg, st := .running, started := true, descs := [d] } } }
def sysD : Desc := parseDesc (mkDesc 2048 0 (2 * 2^44 + 65536 + 1000) 3 64 0 [48,1,1,1,1] [0,0,0,0] [0,0,0,0])
def mapped : Core := { runCore with mmu := { runCore.mmu with segs := setAt runCore.mmu.segs 2 ⟨0x00100000, 1, 16, 1⟩, cache := [⟨0, List.replicate 16 1#32⟩] } }
def rq : StrReq := ⟨0, .elems 3 1, some (.tile 0 3), 1, [], none⟩
def prot (q : Core) : Core := { q with img := { runCore.img with valid := true, sections := [⟨0, 2048, 1, false, 0⟩] } }
def retC : Core := { slot0 (fun l => { l with st := .running, started := true, descs := [mvD], pos := 16, reqs := [rq], nextReq := 1 }) with tile := [(3, 9#8)] }
def pk : ChainPkt := ⟨3, 4, [1#8, 2#8], false⟩
def rcv : Desc := parseDesc (mkDesc (3 + 2048 + 3 * 2^12) 0 0 0 128 0 [16,1,1,1,1] [0,0,0,0] [0,0,0,0])
def chained (q : Core) : State := mesh (onCore0 { q with str := { q.str with chains := setAt q.str.chains 3 (.succ 2) } }) [.chain 1 0 pk]

theorem met_StreamsTakeAndStartDescriptors (h : Obligations.StreamsTakeAndStartDescriptors) :
    runs (.strGoTake 0) (onCore0 (placed (defB 0) (withStr fun u => { u with queue := [(tg, .go 0 4097)] }))) ∧
    runs (.strGoTake 0) (onCore0 (placed (mkDesc (1 + 2048) 0 0 0 4 0 [1, 1, 1, 1, 1] [0, 0, 0, 0] [0, 0, 0, 0]) goQ)) ∧
    runs (.strGoTake 0) (onCore0 (placed (defB 0) goQ)) ∧
    runs (.strGoTake 0) (onCore0 (placed (defB 1 ++ mv 0 64) goQ)) ∧
    runs (.strGoTake 0) (onCore0 (placed (mv 0 64) goQ)) ∧
    runs (.descriptorStart 0 0) (onCore0 (slot0 fun l => { l with st := .running, descs := [mvD, chn], idx := 1 })) :=
  ⟨runs_of ((((h (onCore0 (placed (defB 0) (withStr fun u => { u with queue := [(tg, .go 0 4097)] }))) 0 0 tg 4097 [] (by decide) (by decide) (by decide) (by decide)).1 (by decide) (by decide) (by decide)).1) (by decide)),
   runs_of (((((h (onCore0 (placed (mkDesc (1+2048) 0 0 0 4 0 [1,1,1,1,1] [0,0,0,0] [0,0,0,0]) goQ)) 0 0 tg 4096 [] (by decide) (by decide) (by decide) (by decide)).1 (by decide) (by decide) (by decide)).2 (by decide) (by decide)).1 0x0701) (by decide)),
   runs_of ((((((h (onCore0 (placed (defB 0) goQ)) 0 0 tg 4096 [] (by decide) (by decide) (by decide) (by decide)).1 (by decide) (by decide) (by decide)).2 (by decide) (by decide)).2 (by decide)).1) (by decide) (by decide) (by decide) (by decide) (by decide)),
   runs_of ((((((h (onCore0 (placed (defB 1 ++ mv 0 64) goQ)) 0 0 tg 4096 [] (by decide +kernel) (by decide +kernel) (by decide +kernel) (by decide +kernel)).1 (by decide +kernel) (by decide +kernel) (by decide +kernel)).2 (by decide +kernel) (by decide +kernel)).2 (by decide +kernel)).1) (by decide +kernel) (by decide +kernel) (by decide +kernel) (by decide +kernel) (by decide +kernel)),
   runs_of ((((((h (onCore0 (placed (mv 0 64) goQ)) 0 0 tg 4096 [] (by decide) (by decide) (by decide) (by decide)).1 (by decide) (by decide) (by decide)).2 (by decide) (by decide)).2 (by decide)).2) (by decide) (by decide) (by decide) (by decide)),
   runs_of ((((h (onCore0 (slot0 fun l => { l with st := .running, descs := [mvD, chn], idx := 1 })) 0 0 tg 4096 [] (by decide) (by decide) (by decide) (by decide)).2)) (by decide) (by decide) (by decide) (by decide) (by decide) (by decide))⟩

theorem met_BufferHalvesFillLandAndEmpty (h : Obligations.BufferHalvesFillLandAndEmpty) :
    runs (.bufReleaseTake 0) (onCore0 (landed .landed (withStr fun u => { u with queue := [(tg, .release 5 false)] }))) ∧
    runs (.bufReleaseTake 0) (onCore0 (landed .filling (withStr fun u => { u with queue := [(tg, .release 5 false)] }))) ∧
    runs (.halfWaitEnd 0 0) (onCore0 (landed .empty (slot0 fun l => { l with st := .waiting, descs := [toHalf 1 7] }))) ∧
    runs (.transferFinished 0 0) (onCore0 (slot0 fun l => { l with st := .running, started := true, pos := 16, descs := [mvD] })) ∧
    runs (.transferFinished 0 0) (onCore0 (slot0 fun l => { l with st := .running, started := true, pos := 16, descs := [{ mvD with nodl := false }, mvD] })) ∧
    runs (.transferFinished 0 0) (onCore0 (landed .filling (slot0 fun l => { l with st := .running, started := true, pos := 16, descs := [toHalf 1 7, mvD] }))) :=
  ⟨runs_of ((((h (onCore0 (landed .landed (withStr fun u => { u with queue := [(tg, .release 5 false)] }))) 0 0 (by decide) (by decide) (by decide)).1 tg 5 false [] (by decide) (by decide)).1) (by decide)),
   runs_of ((((h (onCore0 (landed .filling (withStr fun u => { u with queue := [(tg, .release 5 false)] }))) 0 0 (by decide) (by decide) (by decide)).1 tg 5 false [] (by decide) (by decide)).2) (by decide)),
   runs_of ((((h (onCore0 (landed .empty (slot0 fun l => { l with st := .waiting, descs := [toHalf 1 7] }))) 0 0 (by decide) (by decide) (by decide)).2.1 0 5 false 7)) (by decide) (by decide) (by decide) (by decide) (by decide) (by decide) (by decide)),
   runs_of ((((h (onCore0 (slot0 fun l => { l with st := .running, started := true, pos := 16, descs := [mvD] })) 0 0 (by decide) (by decide) (by decide)).2.2 (by decide) (by decide) (by decide) (by decide) (by decide) (by decide)).1) (by decide)),
   runs_of ((((h (onCore0 (slot0 fun l => { l with st := .running, started := true, pos := 16, descs := [{ mvD with nodl := false }, mvD] })) 0 0 (by decide) (by decide) (by decide)).2.2 (by decide) (by decide) (by decide) (by decide) (by decide) (by decide)).1) (by decide)),
   runs_of ((((h (onCore0 (landed .filling (slot0 fun l => { l with st := .running, started := true, pos := 16, descs := [toHalf 1 7, mvD] }))) 0 0 (by decide) (by decide) (by decide)).2.2 (by decide) (by decide) (by decide) (by decide) (by decide) (by decide)).2 5 false) (by decide) (by decide) (by decide) (by decide) (by decide))⟩

theorem met_StreamsMoveBytes (h : Obligations.StreamsMoveBytes) :
    runs (.streamRequestIssue 0) (onCore0 (going mvD)) ∧
    runs (.streamRequestIssue 0) (onCore0 (going sysD mapped)) ∧
    runs (.streamReadReturn 0 0 rq.no) (onCore0 retC) ∧
    runs (.streamReadReturn 0 0 rq.no) (onCore0 (prot retC)) ∧
    runs (.streamReadReturn 0 0 0) (denied (onCore0 retC) Requester.feeder) ∧
    runs (.chainForwardPacket 0 3) (chained (going rcv)) ∧
    runs (.chainForwardPacket 0 3) (chained runCore) :=
  ⟨runs_of (((((h (onCore0 (going mvD)) 0 0 (by decide) (by decide)).1 (by decide) (by decide) (by decide)).1)) (by decide)),
   runs_of (((((h (onCore0 (going sysD mapped)) 0 0 (by decide) (by decide)).1 (by decide) (by decide) (by decide)).2 (0x100100000 + 65536) false)) (by decide) (by decide) (by decide)),
   runs_of ((((((h (onCore0 retC) 0 0 (by decide) (by decide)).2.2.1 rq (by decide) 3 (by decide) (by decide) (by decide) (by decide)) [9#8] (by decide) (by decide) (by decide) (by decide)).1)) (by decide)),
   runs_of ((((((h (onCore0 (prot retC)) 0 0 (by decide) (by decide)).2.2.1 rq (by decide) 3 (by decide) (by decide) (by decide) (by decide)) [9#8] (by decide) (by decide) (by decide) (by decide)).2)) (by decide)),
   runs_of (((h (denied (onCore0 retC) .feeder) 0 0 (by decide) (by decide)).2.1 0) (by decide)),
   runs_of ((((h (chained (going rcv)) 0 0 (by decide) (by decide)).2.2.2 3 1 pk [] (by decide) (by decide) (by decide)).1) (by decide) (by decide) (by decide) (by decide) (by decide)),
   runs_of ((((h (chained runCore) 0 0 (by decide) (by decide)).2.2.2 3 1 pk [] (by decide) (by decide) (by decide)).2) (by decide) (by decide))⟩

end Gf

/-! ## The Chart -/

namespace Gg
def e0 : Engine := .core 0
def ow (st : WalkState) : OutWalk := ⟨0, 37, 65536, false, 0, st, 0⟩
def asks (st : WalkState) : State := { onCore0 { runCore with mmu := { runCore.mmu with walks := [ow st] } } with clk := { Clock.reset with fcyc := 200 } }
def stopW (s : State) (f : Nat) (l : List Walk) (p : List Pending := []) : State := s.modCht fun c => { c with stops := setAt c.stops f ⟨l, p⟩ }
def wk (t : Bool) : Walk := ⟨2, t, [⟨.core 1, 0, 65536, false, 0⟩], [], 0⟩
def full32 : List Walk := (List.range 32).map fun i => ⟨2 * i + 4, false, [], [], 0⟩
def w0 : Waiter := ⟨.core 0, 0, 2 * 2 ^ 44 + 65536, false, 0⟩
def k0 : Walk := ⟨0, true, [w0], [], 1⟩
def mapped : Core := { runCore with mmu := { runCore.mmu with segs := setAt runCore.mmu.segs 2 ⟨0x00100000, 1, 16, 1⟩, walks := [⟨0, 1, 2 * 2 ^ 44 + 65536, false, 0, .sent, 0⟩] } }
def line (b : Byte) : FabAcc := readAcc (.walk 0 0) (List.replicate 16 [b, 0#8, 0#8, 0#8]).flatten
def back (b : Byte) (on : Bool) : State :=
  ((accs (stopW (onCore0 mapped) 0 [k0]) [line b]).modPart 0 fun p => { p with fringCfg := if on then 0x24#32 else 0 })
def ents : List Word := List.replicate 16 1#32
def lwk : StrSlot := { StrSlot.idle0 with st := .running, walking := some 1, started := true }
def halting : Core := { mapped with str := { mapped.str with slots := setAt mapped.str.slots 0 lwk } }
def rec0 : FaultRec := ⟨0, 0, true, false, 1, w0, 1, 0, 0⟩
def pd (seq : Option Word) : Pending := ⟨1, 0, [w0], true, false, seq, none⟩
def ringOn (s : State) : State := s.modPart 0 fun p => { p with fringCfg := 0x24#32, fringLo := 0x1000#32, fringWait := [rec0] }
def dd (v : Nat) : HostAcc := ⟨0, true, 3#2, BitVec.ofNat 64 v⟩
def edIdx (s : State) (i : Nat) : State := s.modCht fun c => { c with editIndex := i, editValue := 5 }
def ed0 (w : Bool) : Edit := ⟨4, 5, 1, false, false, [], 0, w, false⟩
def cht (f : ChartUnit → ChartUnit) : State := idle0.modCht f
def inv0 (r : List Engine) (a : List (Engine × List Nat)) : Inval := ⟨4, 10, 4, 0, r, a, []⟩

theorem met_ChartWalksQueueAndAreTaken (h : Obligations.ChartWalksQueueAndAreTaken) :
    runs (.walkRequest e0) (asks WalkState.toSend) ∧
    runs (.walkRequest e0) (stopW (asks WalkState.toSend) 0 full32) ∧
    runs (.walkRequest e0) (stopW (asks WalkState.toSend) 0 [wk true]) ∧
    runs (.walkRequestResend e0) (asks (WalkState.retry 3)) ∧
    runs (.walkRequestResend e0) (stopW (asks (WalkState.retry 3)) 0 full32) ∧
    runs (.walkRequestResend e0) (stopW (asks (WalkState.retry 3)) 0 [wk true]) ∧
    runs (.walkRetryReply e0) (mesh (asks WalkState.sent) [Pkt.retry e0 37]) ∧
    runs (.walkerTake 0) (stopW (asks WalkState.sent) 0 [wk false]) :=
  ⟨runs_of (((((h (asks .toSend) e0 (ow .toSend) 0 0 [] (by decide)).1 false (by decide) (by decide)).1) (by decide) (by decide)).1 (by decide)),
   runs_of (((((h (stopW (asks .toSend) 0 full32) e0 (ow .toSend) 0 0 [] (by decide)).1 false (by decide) (by decide)).2.1) (by decide) (by decide)).1 (by decide)),
   runs_of (((((h (stopW (asks .toSend) 0 [wk true]) e0 (ow .toSend) 0 0 [] (by decide)).1 false (by decide) (by decide)).2.2 (wk true) []) (by decide) (by decide) (by decide)).1 (by decide)),
   runs_of (((((h (asks (.retry 3)) e0 (ow (.retry 3)) 0 0 [] (by decide)).1 true (by decide) (by decide)).1) (by decide) (by decide)).2 (by decide)),
   runs_of (((((h (stopW (asks (.retry 3)) 0 full32) e0 (ow (.retry 3)) 0 0 [] (by decide)).1 true (by decide) (by decide)).2.1) (by decide) (by decide)).2 (by decide)),
   runs_of (((((h (stopW (asks (.retry 3)) 0 [wk true]) e0 (ow (.retry 3)) 0 0 [] (by decide)).1 true (by decide) (by decide)).2.2 (wk true) []) (by decide) (by decide) (by decide)).2 (by decide)),
   runs_of (((h (mesh (asks .sent) [.retry e0 37]) e0 (ow .sent) 0 37 [] (by decide)).2.1) (by decide) (by decide)),
   runs_of (((h (stopW (asks .sent) 0 [wk false]) e0 (ow .sent) 0 37 [] (by decide)).2.2 (wk false) []) (by decide) (by decide) (by decide))⟩

theorem met_ChartLinesAnswerTheirEngines (h : Obligations.ChartLinesAnswerTheirEngines) :
    runs (.chartLineReturn 0 k0.line) (back 1 false) ∧
    runs (.chartLineReturn 0 k0.line) (back 5 false) ∧
    runs (.chartLineReturn 0 k0.line) (back 0 false) ∧
    runs (.chartLineReturn 0 k0.line) (back 3 true) ∧
    runs (.walkFillReply (Engine.core 0)) (mesh (onCore0 mapped) [Pkt.fill e0 0 ents true none]) ∧
    runs (.walkFillReply (Engine.core 0)) (mesh (onCore0 mapped) [Pkt.fill e0 0 ents false none]) ∧
    runs (.walkFillReply (Engine.core 0)) (mesh (onCore0 { mapped with str := { mapped.str with slots := setAt mapped.str.slots 0 { lwk with st := .halted } } }) [.fill e0 0 ents true (some 1)]) ∧
    runs (.walkHaltReply (Engine.core 0)) (mesh (onCore0 halting) [Pkt.halt e0 1 0]) ∧
    runs (.walkHaltReply (Engine.core 0)) (mesh (onCore0 halting) [Pkt.halt e0 1 2051]) :=
  ⟨runs_of (((h.1 (back 1 false) 0 (line 1) w0 k0 [] [] (by decide) (by decide) (by decide) (by decide) (by decide) (by decide) (by decide) (by decide) (by decide) (by decide)).1 (.sys 0x100110000 false)) (by decide)),
   runs_of (((h.1 (back 5 false) 0 (line 5) w0 k0 [] [] (by decide) (by decide) (by decide) (by decide) (by decide) (by decide) (by decide) (by decide) (by decide) (by decide)).2.1) (by decide)),
   runs_of (((h.1 (back 0 false) 0 (line 0) w0 k0 [] [] (by decide) (by decide) (by decide) (by decide) (by decide) (by decide) (by decide) (by decide) (by decide) (by decide)).2.2.1 0) (by decide) (by decide)),
   runs_of (((h.1 (back 3 true) 0 (line 3) w0 k0 [] [] (by decide) (by decide) (by decide) (by decide) (by decide) (by decide) (by decide) (by decide) (by decide) (by decide)).2.2.2 1) (by decide) (by decide) (by decide)),
   runs_of (((h.2 (mesh (onCore0 mapped) [.fill e0 0 ents true none]) 0 0 1 ents []).1 none) (by decide) (by decide)),
   runs_of (((h.2 (mesh (onCore0 mapped) [.fill e0 0 ents false none]) 0 0 1 ents []).2.1 none) (by decide) (by decide)),
   runs_of (((h.2 (mesh (onCore0 { mapped with str := { mapped.str with slots := setAt mapped.str.slots 0 { lwk with st := .halted } } }) [.fill e0 0 ents true (some 1)]) 0 0 1 ents []).1 (some 1)) (by decide) (by decide)),
   runs_of ((((h.2 (mesh (onCore0 halting) [.halt e0 1 0]) 0 0 1 ents []).2.2 0 lwk (List.replicate 5 StrSlot.idle0) (by decide) (by decide) (by decide) (by decide) (by decide)).1) (by decide)),
   runs_of ((((h.2 (mesh (onCore0 halting) [.halt e0 1 0x0803]) 0 0 1 ents []).2.2 0x0803 lwk (List.replicate 5 StrSlot.idle0) (by decide) (by decide) (by decide) (by decide) (by decide)).2) (by decide) (by decide))⟩

theorem met_FaultRingRecordsAndReplays (h : Obligations.FaultRingRecordsAndReplays) :
    runs (.faultRecordPacket 0) (mesh (ringOn idle0) [Pkt.faultRec 0 rec0]) ∧
    runs (.faultRecordWrite 0) (ringOn (stopW idle0 0 [] [pd none])) ∧
    runs (.chtReplay 0 (dd 7)) (ringOn (stopW idle0 0 [] [pd (some 7)])) ∧
    runs (.chtReplay 0 (dd 8)) (ringOn (stopW idle0 0 [] [pd (some 7)])) ∧
    runs (.replayRelease 0) (mesh (stopW idle0 0 [] [pd (some 7)]) [Pkt.release 0 0 7 false]) ∧
    runs (.replayRelease 0) (mesh (stopW idle0 0 [] [pd (some 7)]) [Pkt.release 0 0 7 true]) ∧
    runs (.faultRingCfgWrite 0 (wr 38)) idle0 ∧
    runs (.faultRingHeadWrite 0 (wr 38)) idle0 ∧
    runs (.faultRingCfgWrite 0 (wr 4)) (ringOn run0) ∧
    runs (.faultRingHeadWrite 0 (wr 4)) (ringOn run0) :=
  ⟨runs_of (((h (mesh (ringOn idle0) [.faultRec 0 rec0]) 0 0 rec0 [] (wr 0) (by decide)).1) (by decide) (by decide) (by decide) (by decide)),
   runs_of (((h (ringOn (stopW idle0 0 [] [pd none])) 0 0 rec0 [] (wr 0) (by decide)).2.1 []) (by decide) (by decide) (by decide) (by decide)),
   runs_of ((((h (ringOn (stopW idle0 0 [] [pd (some 7)])) 0 0 rec0 [] (dd 7) (by decide)).2.2.1 (by decide) (by decide) (by decide) (by decide) (by decide)).1) (by decide)),
   runs_of ((((h (ringOn (stopW idle0 0 [] [pd (some 7)])) 0 0 rec0 [] (dd 8) (by decide)).2.2.1 (by decide) (by decide) (by decide) (by decide) (by decide)).2) (by decide)),
   runs_of (((h (mesh (stopW idle0 0 [] [pd (some 7)]) [.release 0 0 7 false]) 0 0 rec0 [] (dd 8) (by decide)).2.2.2.1 7 (pd (some 7))) (by decide) (by decide) (by decide) (by decide) (by decide)),
   runs_of (((h (mesh (stopW idle0 0 [] [pd (some 7)]) [.release 0 0 7 true]) 0 0 rec0 [] (dd 8) (by decide)).2.2.2.2.1 7 (pd (some 7)) w0) (by decide) (by decide) (by decide) (by decide) (by decide) (by decide) (by decide)),
   runs_of (((((h idle0 0 0 rec0 [] (wr 0x26) (by decide)).2.2.2.2.2 0x26 (by decide) (by decide))).1 (by decide)) (by decide)),
   runs_of (((h idle0 0 0 rec0 [] (wr 0x26) (by decide)).2.2.2.2.2 0x26 (by decide) (by decide))).2.2,
   runs_of ((((((h (ringOn run0) 0 0 rec0 [] (wr 4) (by decide)).2.2.2.2.2 4 (by decide) (by decide))).2.1 (by decide)) (by decide)) (by decide)),
   runs_of (((h (ringOn run0) 0 0 rec0 [] (wr 4) (by decide)).2.2.2.2.2 4 (by decide) (by decide))).2.2⟩

theorem met_ChartCommandsEditMoveAndInvalidate (h : Obligations.ChartCommandsEditMoveAndInvalidate) :
    runs (.chartEdit (wr (2 ^ 31 + 1))) (edIdx idle0 (2 ^ 25 - 1)) ∧
    runs (.chartEdit (wr (2 ^ 31 + 3))) (edIdx idle0 30) ∧
    runs (.chartRead (wr (2 ^ 31 + 2 ^ 17))) (edIdx idle0 30) ∧
    runs (.chartEdit (wr 2147483648)) (cht fun c => { c with edit := some (ed0 false) }) ∧
    runs (.chartRead (wr 2147614720)) (cht fun c => { c with edit := some (ed0 false) }) ∧
    runs .chartEditDone (accs (cht fun c => { c with edit := some (ed0 true) }) [readAcc (.edit 0) []]) ∧
    runs (.pageMove (wr (2 ^ 31 + 2 ^ 20 + 3))) idle0 ∧
    runs .pageMoveDone (cht fun c => { c with move := some ⟨0, 0, false, 64, 64⟩ }) ∧
    runs (.invalidation (wr 1)) idle0 ∧
    runs (.invalidation (wr 1)) (cht fun c => { c with inv := some (inv0 [] []) }) ∧
    runs (.invalidation (wr 1)) (cht fun c => { c with inv := some (inv0 [] []), invQueue := List.replicate 4 (0,0,0,0) }) ∧
    runs (.invalidationReachEngine (Engine.core 0)) ((onCore0 { mapped with mmu := { mapped.mmu with cache := [⟨0, ents⟩, ⟨3, ents⟩] } }).modCht fun c => { c with inv := some (inv0 [.core 0, .core 1] []) }) ∧
    runs (.invalidationAck (Engine.core 1)) (cht fun c => { c with inv := some (inv0 [] [(.core 1, [1])]) }) :=
  ⟨runs_of (((((h (edIdx idle0 (2^25-1)) (wr (2^31 + 1)) (2^31+1)).1 (by decide) (by decide) (by decide)).1 (by decide)).1) (by decide)),
   runs_of (((((h (edIdx idle0 30) (wr (2^31 + 3)) (2^31+3)).1 (by decide) (by decide) (by decide)).1 (by decide)).2) (by decide)),
   runs_of ((((h (edIdx idle0 30) (wr (2^31 + 2^17)) (2^31+2^17)).1 (by decide) (by decide) (by decide)).2) (by decide) (by decide)),
   runs_of (((h (cht fun c => { c with edit := some (ed0 false) }) (wr 0x80000000) 0x80000000).2.1) (by decide) (by decide) (by decide)),
   runs_of (((h (cht fun c => { c with edit := some (ed0 false) }) (wr 0x80020000) 0x80020000).2.1) (by decide) (by decide) (by decide)),
   runs_of (((h (accs (cht fun c => { c with edit := some (ed0 true) }) [readAcc (.edit 0) []]) (wr 0) 0).2.2.1 (ed0 true)) (by decide) (by decide) (by decide)),
   runs_of (((h idle0 (wr (2^31+2^20+3)) (2^31+2^20+3)).2.2.2.1) (by decide) (by decide) (by decide)),
   runs_of (((h (cht fun c => { c with move := some ⟨0, 0, false, 64, 64⟩ }) (wr 0) 0).2.2.2.2.1 ⟨0, 0, false, 64, 64⟩) (by decide) (by decide)),
   runs_of ((((h idle0 (wr 1) 1).2.2.2.2.2.1 (by decide) (by decide)).1) (by decide)),
   runs_of ((((h (cht fun c => { c with inv := some (inv0 [] []) }) (wr 1) 1).2.2.2.2.2.1 (by decide) (by decide)).2.1) (by decide) (by decide)),
   runs_of ((((h (cht fun c => { c with inv := some (inv0 [] []), invQueue := List.replicate 4 (0,0,0,0) }) (wr 1) 1).2.2.2.2.2.1 (by decide) (by decide)).2.2) (by decide) (by decide)),
   runs_of (((h ((onCore0 { mapped with mmu := { mapped.mmu with cache := [⟨0, ents⟩, ⟨3, ents⟩] } }).modCht fun c => { c with inv := some (inv0 [.core 0, .core 1] []) }) (wr 1) 1).2.2.2.2.2.2.1 0 (inv0 [.core 0, .core 1] [])) (by decide) (by decide)),
   runs_of (((h (cht fun c => { c with inv := some (inv0 [] [(.core 1, [1])]) }) (wr 1) 1).2.2.2.2.2.2.2 (.core 1) (inv0 [] [(.core 1, [1])]) [1]) (by decide) (by decide) (by decide) (by decide) (by decide) (by decide))⟩

end Gg

/-! ## Jobs -/

namespace Gh
def onRing : Ring := { Ring.reset with cfg := 0x14#32, baseLo := 0x2000#32, tail := 1, gen := 5 }
def ringed (s : State) (f : Ring → Ring := id) : State := s.modPart 0 fun p => { p with rings := setAt p.rings 2 (f onRing), cringCfg := 0x14#32, cringLo := 0x8000, cores := 3, enable := true }
def bell (tail gen : Nat) : HostAcc := ⟨0, true, 3#2, BitVec.ofNat 64 (2 + gen * 65536 + tail * 4294967296)⟩
def ent0 : DispEntry := ⟨0, 2, 0, 0, false⟩
def disp1 (s : State) : State := s.modGrid fun g => { g with disp := [ent0] }
def ftch (b : Bool) : Fetch := ⟨0, 2, 0, 0, 0, 0, b, 0⟩
def descB (stamp flags mask : Nat) : List Byte := toLe 2 stamp ++ toLe 2 flags ++ toLe 4 mask ++ List.replicate 120 0#8
def seg0 (s : State) : State := s.modPart 0 fun p => { p with segs := setAt p.segs 0 ⟨0x00100000, 1, 16, 1⟩ }
def fetched (d : List Byte) : State := accs ((ringed idle0).modGrid fun g => { g with fetches := [ftch false] }) [readAcc (.desc 0 2 0) d]
def jb (f : Job → Job) (mask flags : Nat) : Job := f { jobIn .table mask flags with ring := 2 }
def withJob (s : State) (j : Job) : State := s.modGrid fun g => { g with jobs := [j] }
def tj := jb id 3 0
def ents1 (b : Byte) : State := accs (seg0 (withJob (ringed idle0) tj)) [readAcc (.entries 0 2) (List.replicate 16 [b, 0#8, 0#8, 0#8]).flatten]
def tabIn : State := accs (seg0 (withJob (ringed idle0) tj)) [readAcc (.table 0 2) (toLe 8 0x20000 ++ toLe 8 64)]
def tab : List Byte := toLe 4 0 ++ toLe 4 256 ++ toLe 4 16 ++ toLe 4 0
def imgD : List Byte := List.replicate 16 7#8
def hd (good : Bool) : List Byte := List.replicate 64 3#8 ++ (if good then sha384 (List.replicate 64 3#8 ++ tab ++ imgD) else List.replicate 48 0#8) ++ List.replicate 16 0#8
def inf (g : Bool) : ImageInfo := ⟨0, 64, hd g, tab, [], false⟩
def lj (g : Bool) := jb (fun j => { j with phase := .loading, loads := [0], images := [inf g] }) 1 0
def loaded_ (g : Bool) : State := accs (withJob (ringed idle0) (lj g)) [readAcc (.image 0 2 0) imgD]
def rj (m : Nat) (n : List Nat) := jb (fun j => { j with phase := .running, notices := n }) m 0
def stopd (n : List Nat) : State := (withJob (ringed idle0) (rj 3 n)).modCore 0 fun q => { q with seq := { q.seq with stop := some 0x0301 }, fl := { NumFlags.none with nanIn := true } }
def ej := jb (fun j => { j with phase := .record }) 3 0
def rc : Record := ⟨0, 2, 0, List.replicate 64 0#8, false, true, 0, some 1, some 0⟩
def wAcc (o : FabOwner) : FabAcc := { readAcc o [] with write := true, done := true }
def pj (ph : JobPhase) := jb (fun j => { j with phase := ph }) 3 2
def hotS (ph : JobPhase) (runs : List (Word × Nat × Nat)) (hot : Bool := true) : State := withJob (ringed idle0 fun r => { r with hot := hot, pinnedGen := 6, pendingRuns := runs }) (pj ph)
def msg (d : Bool) : State := accs ((hotS .parked []).modPart 0 fun p => { p with msi := setAt p.msi 1 ⟨0x100, 0, 77, true, true, d⟩ }) [wAcc (.message 0 1)]
def hold (s : State) : State := s.modPart 0 fun p => { p with enable := true, cores := 3 }
def deniedSl (s : State) : State := s.modGrid fun g => { g with sliceWon := [some 3] }
def wins (s : State) (pl : Place) : State := s.modGrid fun g => { g with wins := [⟨4, some 0, pl, toLe 8 0x1122334455667788⟩] }
def meas : State := { idle0 with pwr := { PowerUnit.reset with thmMax := -77 }, clk := { Clock.reset with tick := 5000000000 } }

theorem met_DoorbellsAreQueuedAndDispatched (h : Obligations.DoorbellsAreQueuedAndDispatched) :
    runs (.doorbell 0 (bell 3 6)) (ringed idle0) ∧
    runs (.doorbell 0 (bell 3 6)) (ringed idle0 fun r => { r with hot := true, pinnedGen := 6 }) ∧
    runs (.doorbell 0 (wr 3)) (ringed idle0) ∧
    runs .dispatchTake (disp1 (ringed idle0)) ∧
    runs .dispatchTake (disp1 (ringed idle0 fun r => { r with tail := 4 })) ∧
    runs (.descriptorFetchReturn 0 2) (fetched (descB 5 0 0)) ∧
    runs (.descriptorFetchReturn 0 2) (seg0 (fetched (descB 5 0 3))) ∧
    runs (.descriptorFetchReturn 0 2) (seg0 (fetched (descB 5 8 3))) ∧
    runs (.descriptorFetchReturn 0 2) (fetched (descB 5 8 3)) ∧
    runs (.descriptorFetchReturn 0 2) (fetched (descB 4 8 3)) ∧
    runs (.descriptorReread 0 2) ((ringed idle0).modGrid fun g => { g with fetches := [ftch true] }) :=
  ⟨runs_of (((h (ringed idle0) 0 2 (bell 3 6)).1) (by decide) (by decide) (by decide) (by decide) (by decide) (by decide) (by decide)),
   runs_of (((h (ringed idle0 fun r => { r with hot := true, pinnedGen := 6 }) 0 2 (bell 3 6)).2.1) (by decide) (by decide) (by decide) (by decide) (by decide) (by decide)),
   runs_of (((h (ringed idle0) 0 2 (wr 3)).2.2.1) (by decide) (by decide) (by decide) (by decide)),
   runs_of (((h (disp1 (ringed idle0)) 0 2 (wr 3)).2.2.2.1 (by decide) (by decide) ent0 []) (by decide) (by decide) (by decide) (by decide) (by decide) (by decide) (by decide) (by decide) (by decide)),
   runs_of (((h (disp1 (ringed idle0 fun r => { r with tail := 4 })) 0 2 (wr 3)).2.2.2.1 (by decide) (by decide) ent0 []) (by decide) (by decide) (by decide) (by decide) (by decide) (by decide) (by decide) (by decide) (by decide)),
   runs_of ((((h (fetched (descB 5 0 0)) 0 2 (wr 3)).2.2.2.2.1 (ftch false) (by decide +kernel) (by decide +kernel) (by decide +kernel) (by decide +kernel) (by decide +kernel) (by decide +kernel) (by decide +kernel) (by decide +kernel) (by decide +kernel)).1 0x0902) (by decide +kernel) (by decide +kernel) (by decide +kernel)),
   runs_of (((((h (seg0 (fetched (descB 5 0 3))) 0 2 (wr 3)).2.2.2.2.1 (ftch false) (by decide +kernel) (by decide +kernel) (by decide +kernel) (by decide +kernel) (by decide +kernel) (by decide +kernel) (by decide +kernel) (by decide +kernel) (by decide +kernel)).2.1 (by decide +kernel) (by decide +kernel)).1) (by decide +kernel) (by decide +kernel)),
   runs_of (((((h (seg0 (fetched (descB 5 8 3))) 0 2 (wr 3)).2.2.2.2.1 (ftch false) (by decide +kernel) (by decide +kernel) (by decide +kernel) (by decide +kernel) (by decide +kernel) (by decide +kernel) (by decide +kernel) (by decide +kernel) (by decide +kernel)).2.1 (by decide +kernel) (by decide +kernel)).1) (by decide +kernel) (by decide +kernel)),
   runs_of (((((h (fetched (descB 5 8 3)) 0 2 (wr 3)).2.2.2.2.1 (ftch false) (by decide +kernel) (by decide +kernel) (by decide +kernel) (by decide +kernel) (by decide +kernel) (by decide +kernel) (by decide +kernel) (by decide +kernel) (by decide +kernel)).2.1 (by decide +kernel) (by decide +kernel)).2 0x0801) (by decide +kernel) (by decide +kernel)),
   runs_of ((((h (fetched (descB 4 8 3)) 0 2 (wr 3)).2.2.2.2.1 (ftch false) (by decide) (by decide) (by decide) (by decide) (by decide) (by decide) (by decide) (by decide) (by decide)).2.2) (by decide) (by decide)),
   runs_of (((h ((ringed idle0).modGrid fun g => { g with fetches := [ftch true] }) 0 2 (wr 3)).2.2.2.2.2 (ftch true)) (by decide) (by decide) (by decide) (by decide) (by decide) (by decide) (by decide) (by decide))⟩

theorem met_JobsLoadStartAndComplete (h : Obligations.JobsLoadStartAndComplete) :
    runs (.imageHeaderReturn 0 2 ((ents1 1).binBrought ↑0 ↑2).fst ((ents1 1).binBrought ↑0 ↑2).snd) (ents1 1) ∧
    runs (.imageHeaderReturn 0 2 ((ents1 0).binBrought ↑0 ↑2).fst ((ents1 0).binBrought ↑0 ↑2).snd) (ents1 0) ∧
    runs (.imageHeaderReturn 0 2 ((ents1 5).binBrought ↑0 ↑2).fst ((ents1 5).binBrought ↑0 ↑2).snd) (ents1 5) ∧
    runs (.imageHeaderReturn 0 2 (tabIn.binBrought ↑0 ↑2).fst (tabIn.binBrought ↑0 ↑2).snd) tabIn ∧
    runs (.imageLoadDone 0 ((loaded_ true).ownerTake (FabOwner.image ↑0 ↑2 ↑0)).fst) (loaded_ true) ∧
    runs (.imageLoadDone 0 ((loaded_ false).ownerTake (FabOwner.image ↑0 ↑2 ↑0)).fst) (loaded_ false) ∧
    runs (.completionNotice 0) (mesh (withJob (ringed idle0) (rj 3 [])) [Pkt.notice 0]) ∧
    runs (.completionNotice 0) (stopd []) ∧
    runs (.completionNotice 0) (mesh (withJob (ringed idle0) (rj 3 [1])) [Pkt.notice 0]) ∧
    runs (.completionNotice 0) (stopd [1]) ∧
    runs (.completionRecordAck 0) (accs ((withJob (ringed idle0) ej).modGrid fun g => { g with records := [rc], watchSel := 1 }) [wAcc (.record 0)]) :=
  ⟨runs_of (((((h (ents1 1) 0 2 tj (by decide) (by decide) (by decide) (by decide)).1 (by decide) (by decide) (by decide)).1 (by decide) (by decide) (by decide)).2.2 0 0x100100000 false) (by decide) (by decide) (by decide)),
   runs_of (((((h (ents1 0) 0 2 tj (by decide) (by decide) (by decide) (by decide)).1 (by decide) (by decide) (by decide)).1 (by decide) (by decide) (by decide)).2.1 0 0) (by decide) (by decide)),
   runs_of (((((h (ents1 5) 0 2 tj (by decide) (by decide) (by decide) (by decide)).1 (by decide) (by decide) (by decide)).1 (by decide) (by decide) (by decide)).1) (by decide)),
   runs_of ((((h tabIn 0 2 tj (by decide) (by decide) (by decide) (by decide)).1 (by decide) (by decide) (by decide)).2 (by decide) (by decide) (by decide)) (by decide) (by decide) (by decide)),
   runs_of ((((h (loaded_ true) 0 2 (lj true) (by decide +kernel) (by decide +kernel) (by decide +kernel) (by decide +kernel)).2.1 0 (inf true) (by decide +kernel) (by decide +kernel) (by decide +kernel) (by decide +kernel) (by decide +kernel) (by decide +kernel) (by decide +kernel)).1) (by decide +kernel)),
   runs_of ((((h (loaded_ false) 0 2 (lj false) (by decide +kernel) (by decide +kernel) (by decide +kernel) (by decide +kernel)).2.1 0 (inf false) (by decide +kernel) (by decide +kernel) (by decide +kernel) (by decide +kernel) (by decide +kernel) (by decide +kernel) (by decide +kernel)).2) (by decide +kernel)),
   runs_of ((((h (mesh (withJob (ringed idle0) (rj 3 [])) [.notice 0]) 0 2 (rj 3 []) (by decide) (by decide) (by decide) (by decide)).2.2.1 0 [] true (by decide) (by decide) (by decide) (by decide)).1) (by decide)),
   runs_of ((((h (stopd []) 0 2 (rj 3 []) (by decide) (by decide) (by decide) (by decide)).2.2.1 0 [] false (by decide) (by decide) (by decide) (by decide)).1) (by decide)),
   runs_of ((((h (mesh (withJob (ringed idle0) (rj 3 [1])) [.notice 0]) 0 2 (rj 3 [1]) (by decide) (by decide) (by decide) (by decide)).2.2.1 0 [] true (by decide) (by decide) (by decide) (by decide)).2) (by decide) (by decide)),
   runs_of ((((h (stopd [1]) 0 2 (rj 3 [1]) (by decide) (by decide) (by decide) (by decide)).2.2.1 0 [] false (by decide) (by decide) (by decide) (by decide)).2) (by decide) (by decide)),
   runs_of ((((h (accs ((withJob (ringed idle0) ej).modGrid fun g => { g with records := [rc], watchSel := 1 }) [wAcc (.record 0)]) 0 2 ej (by decide) (by decide) (by decide) (by decide)).2.2.2 rc (wAcc (.record 0)) [])) (by decide) (by decide) (by decide) (by decide) (by decide) (by decide) (by decide) (by decide) (by decide) (by decide) (by decide) (by decide) (by decide) (by decide))⟩

theorem met_HotRunsUnpinsAndMessages (h : Obligations.HotRunsUnpinsAndMessages) :
    runs (.hotRunStart 0 2) (hotS JobPhase.parked [(9, 4, 5)]) ∧
    runs (.hstUnpin 0 (wr 2)) (hotS JobPhase.parked []) ∧
    runs (.hstUnpin 0 (wr 2)) (hotS JobPhase.running []) ∧
    runs (.hstUnpin 0 (wr 2)) (hotS JobPhase.parked [] false) ∧
    runs (.interruptMessageAck (MsgVec.part 0 1)) (msg false) ∧
    runs (.interruptMessageAck (MsgVec.part 0 1)) (msg true) :=
  ⟨runs_of ((((h (hotS .parked [(9, 4, 5)]) 0 2 (pj .parked) (by decide) (by decide) (by decide) (by decide) (by decide)).1 9 4 5 [])) (by decide) (by decide) (by decide) (by decide) (by decide) (by decide)),
   runs_of ((((h (hotS .parked []) 0 2 (pj .parked) (by decide) (by decide) (by decide) (by decide) (by decide)).2.1 (wr 2) 2 (by decide) (by decide) (by decide)).1) (by decide) (by decide) (by decide)),
   runs_of ((((h (hotS .running []) 0 2 (pj .running) (by decide) (by decide) (by decide) (by decide) (by decide)).2.1 (wr 2) 2 (by decide) (by decide) (by decide)).2.1) (by decide) (by decide)),
   runs_of ((((h (hotS .parked [] false) 0 2 (pj .parked) (by decide) (by decide) (by decide) (by decide) (by decide)).2.1 (wr 2) 2 (by decide) (by decide) (by decide)).2.2) (by decide)),
   runs_of ((((h (msg false) 0 2 (pj .parked) (by decide) (by decide) (by decide) (by decide) (by decide)).2.2 1 (by decide) (by decide)).1) (by decide)),
   runs_of ((((h (msg true) 0 2 (pj .parked) (by decide) (by decide) (by decide) (by decide) (by decide)).2.2 1 (by decide) (by decide)).2) (by decide) (by decide) (by decide))⟩

theorem met_HostRegisterWritesTakeEffect (h : Obligations.HostRegisterWritesTakeEffect) :
    runs (.hstRingCfgWrite 0 2 (wr 458772)) idle0 ∧
    runs (.hstRingCfgWrite 0 2 (wr 458772)) (ringed idle0) ∧
    runs (.hstRingCfgWrite 0 2 (wr 458756)) (ringed idle0) ∧
    runs (.hstCringCfgWrite 0 (wr 4)) (withJob (ringed idle0) tj) ∧
    runs (.hstCringCfgWrite 0 (wr 20)) idle0 ∧
    runs (.hstWinBaseWrite 0 (wr 3860)) idle0 ∧
    runs (.hstCringHeadWrite 0 (wr 2)) ((ringed idle0).modPart 0 fun p => { p with cringTail := 3 }) ∧
    runs (.hstCringHeadWrite 0 (wr 4)) ((ringed idle0).modPart 0 fun p => { p with cringTail := 3 }) ∧
    runs (.registerWrite 0 (100679716#28) (2#2) 77) idle0 ∧
    runs (.registerWrite 0 (100741124#28) (2#2) 77) idle0 ∧
    runs (.registerWrite 0 (100741124#28) (2#2) 77) (idle0.modPart 3 fun p => { p with enable := true }) ∧
    runs (.registerWrite 0 (100742688#28) (2#2) 4660) idle0 ∧
    runs (.registerWrite 0 (100741124#28) (2#2) 4660) ({ idle0 with lds := { Lodestar.reset with acc := [] } }) :=
  ⟨runs_of ((((h idle0 0 2 (wr 0x70014) 0x70014 (by decide) (by decide)).1 (by decide)).1) (by decide) (by decide)),
   runs_of ((((h (ringed idle0) 0 2 (wr 0x70014) 0x70014 (by decide) (by decide)).1 (by decide)).2.1) (by decide) (by decide)),
   runs_of ((((h (ringed idle0) 0 2 (wr 0x70004) 0x70004 (by decide) (by decide)).1 (by decide)).2.2.1) (by decide) (by decide)),
   runs_of ((((h (withJob (ringed idle0) tj) 0 2 (wr 4) 4 (by decide) (by decide)).1 (by decide)).2.2.2.1) (by decide) (by decide) (by decide)),
   runs_of ((((h idle0 0 2 (wr 0x14) 0x14 (by decide) (by decide)).1 (by decide)).2.2.2.2) (by decide) (by decide) (by decide)),
   runs_of (((h idle0 0 2 (wr 0xF14) 0xF14 (by decide) (by decide)).2.1 (by decide)).1),
   runs_of (((((h ((ringed idle0).modPart 0 fun p => { p with cringTail := 3 }) 0 2 (wr 2) 2 (by decide) (by decide)).2.1 (by decide)).2 (by decide) (by decide)).1) (by decide)),
   runs_of (((((h ((ringed idle0).modPart 0 fun p => { p with cringTail := 3 }) 0 2 (wr 4) 4 (by decide) (by decide)).2.1 (by decide)).2 (by decide) (by decide)).2) (by decide)),
   runs_of (((((h idle0 0 2 (wr 4) 4 (by decide) (by decide)).2.2 0 77 0x6004024#28 (by decide)).1 (by decide)).1) (by decide)),
   runs_of (((((h idle0 3 2 (wr 4) 4 (by decide) (by decide)).2.2 0 77 0x6013004#28 (by decide)).1 (by decide)).2.1) (by decide)),
   runs_of (((((h (idle0.modPart 3 fun p => { p with enable := true }) 3 2 (wr 4) 4 (by decide) (by decide)).2.2 0 77 0x6013004#28 (by decide)).1 (by decide)).2.1) (by decide)),
   runs_of (((((h idle0 3 2 (wr 4) 4 (by decide) (by decide)).2.2 0 0x1234 0x6013620#28 (by decide)).1 (by decide)).2.2) (by decide)),
   runs_of ((((h { idle0 with lds := { Lodestar.reset with acc := [] } } 3 2 (wr 4) 4 (by decide) (by decide)).2.2 0 0x1234 0x6013004#28 (by decide)).2) (by decide) (by decide))⟩

theorem met_HostAccessesReachMemoryAndRegisters (h : Obligations.HostAccessesReachMemoryAndRegisters) :
    runs (.windowWrite 0 2097416#28 3#2 1234605616436508552#64) (hold idle0) ∧
    runs (.windowWrite 0 2097416#28 3#2 1234605616436508552#64) ({ hold idle0 with flt := { (hold idle0).flt with resets := [⟨0, true, false, [], []⟩] } }) ∧
    runs (.windowRead 0 2097416#28 3#2) (hold idle0) ∧
    runs (.windowRead 0 2097416#28 3#2) ((hold idle0).modCore 1 fun q => { q with tileSeal := [0] }) ∧
    runs (.windowWriteRetire 0) (wins (hold idle0) (Place.tile 1 264)) ∧
    runs (.windowWriteRetire 0) (wins (hold idle0) (Place.store 264)) ∧
    runs (.windowWriteRetire 0) (wins { hold idle0 with storeSeal := [0] } (.store 0x108)) ∧
    runs (.windowWriteRetire 0) (denied (wins (hold idle0) (Place.tile 0 264)) Requester.feeder) ∧
    runs (.windowWriteRetire 0) (deniedSl (wins (hold idle0) (Place.store 264))) ∧
    runs (.thmMaxRead (wr 0)) (meas.modPart 7 fun p => { p with coreTicks := 7000000000 }) ∧
    runs (.glbTickLoRead (wr 0)) (meas.modPart 7 fun p => { p with coreTicks := 7000000000 }) ∧
    runs (.prtCoreTicksLoRead 7 (wr 0)) (meas.modPart 7 fun p => { p with coreTicks := 7000000000 }) ∧
    runs (.energyLoRead 2 (wr 0)) (meas.modPart 7 fun p => { p with coreTicks := 7000000000 }) :=
  ⟨runs_of ((((h (hold idle0) 0 0x0200108#28 3#2 0x1122334455667788#64 (.tile 1 0x108) (some 0)).1 (by decide) (by decide) (by decide) (by decide)).1) (by decide) (by decide)),
   runs_of ((((h ({ hold idle0 with flt := { (hold idle0).flt with resets := [⟨0, true, false, [], []⟩] } }) 0 0x0200108#28 3#2 0x1122334455667788#64 (.tile 1 0x108) (some 0)).1 (by decide) (by decide) (by decide) (by decide)).2.1) (by decide) (by decide)),
   runs_of (((((h (hold idle0) 0 0x0200108#28 3#2 0x1122334455667788#64 (.tile 1 0x108) (some 0)).1 (by decide) (by decide) (by decide) (by decide)).2.2 (by decide) (by decide) (by decide) (by decide)).1) (by decide)),
   runs_of (((((h ((hold idle0).modCore 1 fun q => { q with tileSeal := [0] }) 0 0x0200108#28 3#2 0x1122334455667788#64 (.tile 1 0x108) (some 0)).1 (by decide) (by decide) (by decide) (by decide)).2.2 (by decide) (by decide) (by decide) (by decide)).2) (by decide)),
   runs_of ((((h (wins (hold idle0) (.tile 1 0x108)) 0 0x0200108#28 3#2 0x1122334455667788#64 (.tile 1 0x108) (some 0)).2.1 4 [] (by decide) (by intro c a e; cases e; decide) (by intro a e; cases e) (by decide)).1) (by decide)),
   runs_of ((((h (wins (hold idle0) (.store 0x108)) 0 0x0200108#28 3#2 0x1122334455667788#64 (.store 0x108) (some 0)).2.1 4 [] (by decide) (by intro c a e; cases e) (by intro a e; cases e; decide) (by decide)).1) (by decide)),
   runs_of ((((h (wins { hold idle0 with storeSeal := [0] } (.store 0x108)) 0 0x0200108#28 3#2 0x1122334455667788#64 (.store 0x108) (some 0)).2.1 4 [] (by decide) (by intro c a e; cases e) (by intro a e; cases e; decide) (by decide)).2) (by decide)),
   runs_of (((h (denied (wins (hold idle0) (.tile 0 0x108)) .feeder) 0 0x0200108#28 3#2 0x1122334455667788#64 (.tile 0 0x108) (some 0)).2.2.1 4 [] 0 0x108) (by decide) (by decide)),
   runs_of (((h (deniedSl (wins (hold idle0) (.store 0x108))) 0 0x0200108#28 3#2 0x1122334455667788#64 (.store 0x108) (some 0)).2.2.2.1 4 [] 0x108) (by decide) (by decide)),
   runs_of (((h (meas.modPart 7 fun p => { p with coreTicks := 7000000000 }) 0 0#28 3#2 0#64 (.store 0) none).2.2.2.2 (wr 0) 7 2) (by decide) (by decide) (by decide) (by decide) (by decide) (by decide) (by decide)).1,
   runs_of (((h (meas.modPart 7 fun p => { p with coreTicks := 7000000000 }) 0 0#28 3#2 0#64 (.store 0) none).2.2.2.2 (wr 0) 7 2) (by decide) (by decide) (by decide) (by decide) (by decide) (by decide) (by decide)).2.1,
   runs_of (((h (meas.modPart 7 fun p => { p with coreTicks := 7000000000 }) 0 0#28 3#2 0#64 (.store 0) none).2.2.2.2 (wr 0) 7 2) (by decide) (by decide) (by decide) (by decide) (by decide) (by decide) (by decide)).2.2.1,
   runs_of (((h (meas.modPart 7 fun p => { p with coreTicks := 7000000000 }) 0 0#28 3#2 0#64 (.store 0) none).2.2.2.2 (wr 0) 7 2) (by decide) (by decide) (by decide) (by decide) (by decide) (by decide) (by decide)).2.2.2⟩

end Gh

/-! ## Host, partitions, power, faults, Lodestar -/

namespace Gi
def hold (p : Nat) (m : Word) (en : Bool) (s : State) : State := s.modPart p fun q => { q with enable := en, cores := m }
def part0 : State := hold 0 3 true idle0
def tick (s : State) (n : Nat) : State := { s with clk := { s.clk with tick := n } }
def stage (s : State) : State := s.modPart 3 fun q => { q with stage := [1024, 1024, 1024, 1024] }
def grid (f : Grid → Grid) (s : State := idle0) : State := s.modGrid f
def pwr (f : PowerUnit → PowerUnit) (s : State := idle0) : State := { s with pwr := f s.pwr }
def act1 : Activity := ⟨10, 0, 0, 0, 0, 0, 5, 100, 0, 0, 0, 0, 0⟩
def dv : DivProp := ⟨7, 0, 11, 4, false⟩
def chJob : Job := { jobIn .running 3 0 with desc := descOf 3 0 |>.take 0x28 |> (· ++ [7#8] ++ List.replicate 87 0#8), multi := some (0, 2) }
def mapped (s : State) : State := grid (fun g => { g with remap := (List.range 32).map fun i => ⟨i, 1, 0⟩ }) s
def su : SoundUnit := { kind := 0, idx := 5, sub := 7 }
def snd (s : State) : State := { s with flt := { s.flt with sounding := [⟨⟨su.kind, su.idx, su.sub⟩, none⟩] } }
def rst (dr : Bool) : Reset_ := ⟨0, true, dr, [], []⟩
def inRst (dr : Bool) (s : State) : State := { s with flt := { s.flt with resets := [rst dr] } }
def lds (f : Lodestar → Lodestar) (s : State := idle0) : State := { s with lds := f s.lds }

theorem met_PartitionsAreEnabledSharedAndWatched (h : Obligations.PartitionsAreEnabledSharedAndWatched) :
    runs (.partitionEnable 2 (wr 1281)) (hold 2 12 false idle0) ∧
    runs (.partitionEnable 2 (wr 1281)) (hold 2 3 false part0) ∧
    runs (.partitionResetRequest 0 (wr 1283)) part0 ∧
    runs (.prtShareCommit (wr 1)) (stage idle0) ∧
    runs (.prtShareCommit (wr 1)) idle0 ∧
    runs (.watchEnter (wr 258)) (hold 2 4 true idle0) ∧
    runs (.watchEnter (wr 258)) idle0 ∧
    runs (.watchExit (wr 515)) (grid fun g => { g with watch := .watch }) ∧
    runs .reportWindowClose (tick (part0.modPart 1 fun q => { q with slowNow := (1500, 3) }) 100000) ∧
    runs .reportWindowClose (tick (part0.modPart 1 fun q => { q with slowNow := (1500, 3) }) 299999) ∧
    runs .watchEntryComplete ((grid (fun g => { g with watch := .entering, watchIn := 0 }) (hold 0 1 true (onCore0 { runCore with tile := [(4, 1#8)] }))).modCore 1 fun q => { q with tile := [(4, 1#8)] }) ∧
    runs .wakeComplete (grid fun g => { g with watch := .waking }) :=
  ⟨runs_of (((((h (hold 2 12 false idle0) 2 (wr 0x501) 0x501).1 (by decide) (by decide)).1 (by decide) (by decide) (by decide)).1) (by decide)),
   runs_of (((((h (hold 2 3 false part0) 2 (wr 0x501) 0x501).1 (by decide) (by decide)).1 (by decide) (by decide) (by decide)).2) (by decide)),
   runs_of ((((h part0 0 (wr 0x503) 0x503).1 (by decide) (by decide)).2) (by decide) (by decide) (by decide) (by decide)),
   runs_of ((((h (stage idle0) 0 (wr 1) 1).2.1 (by decide)).1) (by decide)),
   runs_of ((((h idle0 0 (wr 1) 1).2.1 (by decide)).2.1) (by decide)),
   runs_of (((((h (hold 2 4 true idle0) 0 (wr 0x102) 0x102).2.1 (by decide)).2.2.1 (by decide) (by decide)).1) (by decide)),
   runs_of (((((h idle0 0 (wr 0x102) 0x102).2.1 (by decide)).2.2.1 (by decide) (by decide)).2) (by decide)),
   runs_of ((((h (grid fun g => { g with watch := .watch }) 0 (wr 0x203) 0x203).2.1 (by decide)).2.2.2) (by decide) (by decide) (by decide)),
   runs_of (((h (tick (part0.modPart 1 fun q => { q with slowNow := (1500, 3) }) 100000) 0 (wr 0) 0).2.2.1 0) (by decide) (by decide) (by decide)),
   runs_of (((h (tick (part0.modPart 1 fun q => { q with slowNow := (1500, 3) }) 299999) 0 (wr 0) 0).2.2.1 1) (by decide) (by decide) (by decide)),
   runs_of (((h ((grid (fun g => { g with watch := .entering, watchIn := 0 }) (hold 0 1 true (onCore0 { runCore with tile := [(4, 1#8)] }))).modCore 1 fun q => { q with tile := [(4, 1#8)] }) 0 (wr 0) 0).2.2.2.1) (by decide)),
   runs_of (((h (grid fun g => { g with watch := .waking }) 0 (wr 0) 0).2.2.2.2) (by decide))⟩

theorem met_PowerIntervalsAndTripsSetLimits (h : Obligations.PowerIntervalsAndTripsSetLimits) :
    runs (.powerIntervalClose [act1] Activity.zero 0) (pwr (fun p => { p with capNext := 3000, msMeasured := 77, ctrl := 1, weights := List.replicate 17 0x40000000#32 }) (tick (onCore0 { runCore with arr := { runCore.arr with limit := 8 } }) 200)) ∧
    runs .oneMsBoundary (pwr (fun p => { p with ctrl := 1, msReckoned := 5, lastSampleE := 6 }) (tick run0 100000)) ∧
    runs .oneMsBoundary (tick run0 100000) ∧
    runs (.currentSample 0 85) (tick run0 100000) ∧
    runs (.currentSample 2 85) (tick run0 100000) ∧
    runs .telemetryLost (pwr (fun p => { p with ctrl := 1 }) (tick run0 100000)) ∧
    runs (.temperatureSample 4 1900#16) run0 ∧
    runs (.temperatureSample 4 1679#16) (pwr (fun p => { p with trip := true, ack := true, temps := [(4, 1900, 0), (5, 1000, 0)] }) run0) ∧
    runs (.sensorSilent 4) (pwr (fun p => { p with temps := [(4, 1000, 0), (5, 1000, 0)] }) (tick run0 100000)) ∧
    runs (.thmTripAck (wr 0)) (pwr (fun p => { p with trip := true }) run0) ∧
    runs (.thmTripAck (wr 0)) run0 :=
  ⟨runs_of (((h (pwr (fun p => { p with capNext := 3000, msMeasured := 77, ctrl := 1, weights := List.replicate 17 0x40000000#32 }) (tick (onCore0 { runCore with arr := { runCore.arr with limit := 8 } }) 200)) [act1] .zero 0 0 0 0 (wr 0) 0).1) (by decide) (by decide)),
   runs_of (((h (pwr (fun p => { p with ctrl := 1, msReckoned := 5, lastSampleE := 6 }) (tick run0 100000)) [act1] .zero 0 0 0 0 (wr 0) 0).2.1) (by decide) (by decide)),
   runs_of (((h (tick run0 100000) [act1] .zero 0 0 0 0 (wr 0) 0).2.1) (by decide) (by decide)),
   runs_of ((h (tick run0 100000) [act1] .zero 0 0 0x55 0 (wr 0) 0).2.2.1),
   runs_of ((h (tick run0 100000) [act1] .zero 0 2 0x55 0 (wr 0) 0).2.2.1),
   runs_of (((h (pwr (fun p => { p with ctrl := 1 }) (tick run0 100000)) [act1] .zero 0 2 0x55 0 (wr 0) 0).2.2.2.1) (by decide) (by decide) (by decide)),
   runs_of ((((h run0 [act1] .zero 0 2 0x55 4 (wr 0) 0).2.2.2.2.1 1900#16).1) (by decide) (by decide)),
   runs_of ((((h (pwr (fun p => { p with trip := true, ack := true, temps := [(4, 1900, 0), (5, 1000, 0)] }) run0) [act1] .zero 0 2 0x55 4 (wr 0) 0).2.2.2.2.1 1679#16).2) (by decide) (by decide) (by decide) (by decide)),
   runs_of (((h (pwr (fun p => { p with temps := [(4, 1000, 0), (5, 1000, 0)] }) (tick run0 100000)) [act1] .zero 0 2 0x55 4 (wr 0) 0).2.2.2.2.2.1 (4, 1000, 0)) (by decide) (by decide) (by decide)),
   runs_of (((h (pwr (fun p => { p with trip := true }) run0) [act1] .zero 0 2 0x55 4 (wr 0) 0).2.2.2.2.2.2) (by decide)),
   runs_of (((h run0 [act1] .zero 0 2 0x55 4 (wr 0) 0).2.2.2.2.2.2) (by decide))⟩

theorem met_OperatingPointsFollowTheirRules (h : Obligations.OperatingPointsFollowTheirRules) :
    runs .operatingPointChange (pwr (fun p => { p with economy := true }) run0) ∧
    runs .operatingPointChange (pwr (fun p => { p with ctrl := 0x10, limHist := List.replicate 5000 (20, 1) }) run0) ∧
    runs .pwVreqAck (pwr (fun p => { p with change := .toNominal, economy := true, vReq := some 700 }) run0) ∧
    runs .pwVreqAck (pwr (fun p => { p with change := .toEconomy, vReq := some p.vEco }) run0) ∧
    runs (.marginReport 0 5) run0 ∧
    runs (.marginReport 0 32) run0 ∧
    runs (.marginReport 31 96) (pwr (fun p => { p with trim := 3, goodSince := some 0, cores := List.replicate 32 { PwrCore.reset with slack := 200 } }) (tick run0 200000000)) ∧
    runs (.pwrCapWrite (wr 3000)) run0 ∧
    runs (.pwrShareCommit (wr 3000)) run0 ∧
    runs (.pwrCapWrite (wr 3000)) (pwr (fun p => { p with staged := [1] }) run0) ∧
    runs (.pwrShareCommit (wr 3000)) (pwr (fun p => { p with staged := [1] }) run0) ∧
    runs (.dividerApply 7) (pwr (fun p => { p with props := [dv] }) (grid (fun g => { g with jobs := [chJob] }) (tick run0 4))) :=
  ⟨runs_of ((((h (pwr (fun p => { p with economy := true }) run0) (wr 0) 0 3 5).1 (by decide) (by decide)).1) (by decide) (by decide)),
   runs_of ((((h (pwr (fun p => { p with ctrl := 0x10, limHist := List.replicate 5000 (20, 1) }) run0) (wr 0) 0 3 5).1 (by decide) (by decide)).2 (by decide) (by decide) (by decide) (by decide) (by decide)) ⟨100000, 5000, by decide +kernel, by decide, by decide⟩),
   runs_of (((h (pwr (fun p => { p with change := .toNominal, economy := true, vReq := some 700 }) run0) (wr 0) 0 3 5).2.1 700) (by decide)),
   runs_of (((h (pwr (fun p => { p with change := .toEconomy, vReq := some p.vEco }) run0) (wr 0) 0 3 5).2.1 run0.pwr.vEco) (by decide)),
   runs_of ((((h run0 (wr 0) 0 0 5).2.2.1 (by decide) (by decide) (by decide)).1) (by decide) (by decide)),
   runs_of ((((h run0 (wr 0) 0 0 32).2.2.1 (by decide) (by decide) (by decide)).2) (by decide) (by decide)),
   runs_of ((((h (pwr (fun p => { p with trim := 3, goodSince := some 0, cores := List.replicate 32 { PwrCore.reset with slack := 200 } }) (tick run0 200000000)) (wr 0) 0 31 96).2.2.1 (by decide) (by decide) (by decide)).2) (by decide) (by decide)),
   runs_of (((h run0 (wr 3000) 3000 31 96).2.2.2.1 (by decide))).1,
   runs_of ((((h run0 (wr 3000) 3000 31 96).2.2.2.1 (by decide))).2.1 (by decide)),
   runs_of (((h (pwr (fun p => { p with staged := [1] }) run0) (wr 3000) 3000 31 96).2.2.2.1 (by decide))).1,
   runs_of ((((h (pwr (fun p => { p with staged := [1] }) run0) (wr 3000) 3000 31 96).2.2.2.1 (by decide))).2.2 (by decide)),
   runs_of (((h (pwr (fun p => { p with props := [dv] }) (grid (fun g => { g with jobs := [chJob] }) (tick run0 4))) (wr 0) 0 31 96).2.2.2.2 dv chJob 7) (by decide) (by decide) (by decide) (by decide) (by decide) (by decide) (by decide) (by decide))⟩

theorem met_ErrorsAreSoundedAndPartitionsReset (h : Obligations.ErrorsAreSoundedAndPartitionsReset) :
    runs (.errorDetected (ErrSite.tile 5 7 false) 9) (mapped idle0) ∧
    runs (.errorDetected (ErrSite.tile 5 7 true) 9) (hold 2 32 true (mapped idle0)) ∧
    runs (.soundingComplete su false) (snd (mapped idle0)) ∧
    runs (.soundingComplete su true) (snd (hold 2 32 true (mapped idle0))) ∧
    runs .transientCountHalve ({ idle0 with clk := { idle0.clk with tick := 2 ^ 32 + 5 }, flt := { FaultUnit.reset with trans := [(⟨0, 5, 7⟩, 3), (⟨0, 5, 8⟩, 1)] } }) ∧
    runs (.partitionResetDrained 0) (inRst false (mesh (hold 0 3 true (onCore0 { runCore with tile := [(3, 4#8)] })) [.notice 0, .notice 5])) ∧
    runs (.partitionResetComplete 0) (inRst true idle0) ∧
    runs (.watchdogExpiry 0) run0 ∧
    runs (.controlCoreRestartDone 0) run0 ∧
    runs (.watchdogExpiry 3) ({ run0 with flt := { run0.flt with restarting := List.replicate 4 true } }) ∧
    runs (.controlCoreRestartDone 3) ({ run0 with flt := { run0.flt with restarting := List.replicate 4 true } }) :=
  ⟨runs_of (((h (mapped idle0) 0 5 7 9 su 0).1) (by decide) (by decide)),
   runs_of (((h (hold 2 0x20 true (mapped idle0)) 2 5 7 9 su 0).2.1) (by decide) (by decide)),
   runs_of ((((h (snd (mapped idle0)) 0 5 7 9 su 0).2.2.1 0 (by decide) (by decide)).1) (by decide)),
   runs_of ((((h (snd (hold 2 0x20 true (mapped idle0))) 2 5 7 9 su 0).2.2.1 0 (by decide) (by decide)).2) (by decide) (by decide) (by decide)),
   runs_of (((h { idle0 with clk := { idle0.clk with tick := 2 ^ 32 + 5 }, flt := { FaultUnit.reset with trans := [(⟨0, 5, 7⟩, 3), (⟨0, 5, 8⟩, 1)] } } 2 5 7 9 su 0).2.2.2.1) (by decide)),
   runs_of ((((h (inRst false (mesh (hold 0 3 true (onCore0 { runCore with tile := [(3, 4#8)] })) [.notice 0, .notice 5])) 0 5 7 9 su 0).2.2.2.2.1 (rst false) (by decide) (by decide) (by decide)).1) (by decide) (by decide) (by decide)),
   runs_of ((((h (inRst true idle0) 0 5 7 9 su 0).2.2.2.2.1 (rst true) (by decide) (by decide) (by decide)).2) (by decide) (by decide) (by decide) (by decide)),
   runs_of (((h run0 0 5 7 9 su 0).2.2.2.2.2 (by decide))).1,
   runs_of (((h run0 0 5 7 9 su 0).2.2.2.2.2 (by decide))).2,
   runs_of (((h { run0 with flt := { run0.flt with restarting := List.replicate 4 true } } 0 5 7 9 su 3).2.2.2.2.2 (by decide))).1,
   runs_of (((h { run0 with flt := { run0.flt with restarting := List.replicate 4 true } } 0 5 7 9 su 3).2.2.2.2.2 (by decide))).2⟩

theorem met_LodestarReportsReleasesKeysAndScrubs (h : Obligations.LodestarReportsReleasesKeysAndScrubs) :
    runs (.reportRequest (wr 1)) (lds fun l => { l with nonce := List.replicate 8 5#32, rptLo := 0x1040 }) ∧
    runs (.reportRequest (wr 1)) (lds fun l => { l with rptQueue := List.replicate 4 ([], 0) }) ∧
    runs (.keyInstall (wr 1)) (lds fun l => { l with keyLo := 0x1340 }) ∧
    runs (.keyInstall (wr 1)) (lds fun l => { l with keyOp := some (.install 4) }) ∧
    runs .reportSnapshot (lds fun l => { l with rptQueue := [([1#8], 64)], dpriv := some 5 }) ∧
    runs .reportWritten (lds (fun l => { l with writing := true }) (accs idle0 [readAcc .report []])) ∧
    runs .keyInstallDone (lds (fun l => { l with keyOp := some (.install 64) }) (accs idle0 [readAcc .keyBlob (List.replicate 256 1#8)])) ∧
    runs (.keyClear (wr 802)) (lds (fun l => l.setKey 2 3 (some ⟨[], 0, [], 0, []⟩))) ∧
    runs (.keyClear (wr 2)) run0 ∧
    runs (.scrubGo (wr 2147483649)) (lds fun l => { l with scrubs := [1] }) ∧
    runs (.scrubGo (wr 2147483648)) run0 ∧
    runs (.scrubGo (wr 2147483648)) idle0 ∧
    runs (.scrubComplete 0) (lds (fun l => { l with scrubs := [0] }) (hold 0 1 true (onCore0 { runCore with tile := [(3, 4#8)], tileSeal := [2] }))) ∧
    runs (.ldsAccLockWrite (wr 1)) idle0 ∧
    runs (.registerWrite 0 (100704512#28 + BitVec.ofNat 28 (4 * ↑7)) (2#2) 99) (lds fun l => { l with accLock := true }) ∧
    runs .deviceKeyDerived idle0 :=
  ⟨runs_of ((((h (lds fun l => { l with nonce := List.replicate 8 5#32, rptLo := 0x1040 }) 0 (wr 1) 1).1 (by decide) (by decide)).1) (by decide)),
   runs_of ((((h (lds fun l => { l with rptQueue := List.replicate 4 ([], 0) }) 0 (wr 1) 1).1 (by decide) (by decide)).2.1) (by decide)),
   runs_of ((((h (lds fun l => { l with keyLo := 0x1340 }) 0 (wr 1) 1).1 (by decide) (by decide)).2.2.1) (by decide)),
   runs_of ((((h (lds fun l => { l with keyOp := some (.install 4) }) 0 (wr 1) 1).1 (by decide) (by decide)).2.2.2) (by decide)),
   runs_of (((h (lds fun l => { l with rptQueue := [([1#8], 64)], dpriv := some 5 }) 0 (wr 1) 1).2.1 [1#8] 64 [] 5) (by decide) (by decide) (by decide) (by decide) (by decide) (by decide)),
   runs_of (((h (lds (fun l => { l with writing := true }) (accs idle0 [readAcc .report []])) 0 (wr 1) 1).2.2.1) (by decide) (by decide)),
   runs_of (((h (lds (fun l => { l with keyOp := some (.install 64) }) (accs idle0 [readAcc .keyBlob (List.replicate 256 1#8)])) 0 (wr 1) 1).2.2.2.1 64) (by decide) (by decide) (by decide)),
   runs_of ((((h (lds (fun l => l.setKey 2 3 (some ⟨[], 0, [], 0, []⟩))) 0 (wr 0x322) 0x322).2.2.2.2.1 (by decide) (by decide) (by decide) (by decide)).1) (by decide)),
   runs_of ((((h run0 0 (wr 2) 2).2.2.2.2.1 (by decide) (by decide) (by decide) (by decide)).2) (by decide)),
   runs_of ((((h (lds fun l => { l with scrubs := [1] }) 1 (wr 0x80000001) 0x80000001).2.2.2.2.2.1 (by decide) (by decide) (by decide)).1) (by decide)),
   runs_of ((((h run0 0 (wr 0x80000000) 0x80000000).2.2.2.2.2.1 (by decide) (by decide) (by decide)).2) (by decide) (by decide) (by decide)),
   runs_of ((((h idle0 0 (wr 0x80000000) 0x80000000).2.2.2.2.2.1 (by decide) (by decide) (by decide)).2) (by decide) (by decide) (by decide)),
   runs_of (((h (lds (fun l => { l with scrubs := [0] }) (hold 0 1 true (onCore0 { runCore with tile := [(3, 4#8)], tileSeal := [2] }))) 0 (wr 0x80000000) 0x80000000).2.2.2.2.2.2.1) (by decide) (by decide) (by decide) (by decide) (by decide) (by decide)),
   runs_of (((h idle0 0 (wr 1) 1).2.2.2.2.2.2.2.1) (by decide) (by decide)),
   runs_of (((h (lds fun l => { l with accLock := true }) 0 (wr 1) 1).2.2.2.2.2.2.2.2.1 (by decide) (by decide) 0 7 99) (by decide)),
   runs_of (((h idle0 0 (wr 1) 1).2.2.2.2.2.2.2.2.2) (by decide) (by decide) (by decide))⟩

end Gi

/-! ## The Intake -/

namespace Gj
def tick (s : State) (n : Nat) : State := { s with clk := { s.clk with tick := n } }
def ses0 : Session := { Session.reset with cfg := 0x14, outCfg := 0x100 ||| 1 ||| (0x1000), outShape := 0x10001, stride := 1, sringLo := 0x4000 }
def ses (f : Session → Session) (s : State := idle0) : State := s.modItk fun t => { t with sess := setAt t.sess 2 (f ses0) }
def b0 (pr : Bool) : Batch := ⟨7, 0, [⟨0, List.replicate 8 0#8, none⟩], pr, 0, [], pr, pr⟩
def recd : State := accs (ses fun x => { x with tail := 2 }) [readAcc (.sampleRecord 2) (List.replicate 64 0#8)]
def lan : ItkLane := ⟨2, .sample (List.replicate 64 0#8) 7 0, 3, 0, none, 0, 0, 0, [], none, [], false⟩
def lnd (s : State) : State := s.setLane 1 (some lan)
def b1 : Batch := { b0 false with closed := true, headed := true }
def fs0 : FStream := { FStream.reset with ctrl := BitVec.ofNat 32 (1 + 4 * 2 ^ 1 + 2 ^ 8 + 2 * 2 ^ 15 + 4 * 2 ^ 18), inShape := 0x30001, outShape := 0x30001, stageLo := 0x10000, outLo := 0x40000, recLo := 0x8000 }
def st (n : Nat) (f : FStream → FStream) (s : State := idle0) : State := s.modItk fun t => { t with streams := setAt t.streams n (f fs0) }
def fr (s : FrameState) (lines : Nat) (line : List Byte) : FrameRec :=
  { no := 4, slot := some 1, tCap := 9, fnum := 8, tStart := 2, tEnd := 0, tDisp := 0, st := s, line := line, last := [], lines := lines, flags := 0, status := 0, stats := [], hasStats := false, trunc := false }
def arr (n : Nat) (lines : Nat) (line : List Byte) : State := st n fun f => { f with frames := [fr .arriving lines line], nextNo := 5, busy := [1] }

theorem met_IntakeSessionsTakeResolveAndPrepare (h : Obligations.IntakeSessionsTakeResolveAndPrepare) :
    runs (.itkBell 2 (wr 3)) (ses id) ∧
    runs (.itkBell 2 (wr 30)) (ses id) ∧
    runs (.itkBatchFree 2 (wr 7)) (ses fun x => { x with batches := [b0 true] }) ∧
    runs (.itkBatchFree 2 (wr 8)) (ses fun x => { x with batches := [b0 true] }) ∧
    runs (.itkFlush 2 (wr 8)) (ses fun x => { x with batches := [b0 false] }) ∧
    runs (.itkSessionCfgWrite 2 (wr 20)) (ses id) ∧
    runs (.itkSessionCfgWrite 2 (wr 20)) (ses fun x => { x with cfg := 4 }) ∧
    runs (.itkSessionCfgWrite 2 (wr 20)) (ses fun x => { x with cfg := 4, stride := 0 }) ∧
    runs (.sampleRecordReread 2) (ses (fun x => { x with retrying := true, nextTry := 5 }) (tick idle0 5)) ∧
    runs (.intakeLaneFree 0) recd ∧
    runs (.sampleResolve 1) (lnd (ses fun x => { x with batches := [b0 false] })) ∧
    runs (.sampleBudgetAbort 1) (lnd (ses (fun x => { x with batches := [b0 false], budget := 0x100 }) (tick idle0 1000))) ∧
    runs (.batchPrepared 2) (ses fun x => { x with batches := [b1] }) :=
  ⟨runs_of ((((h (ses id) 2 0 (wr 3) 3 (by decide) (by decide)).1 (by decide) (by decide)).1) (by decide) (by decide)),
   runs_of ((((h (ses id) 2 0 (wr 30) 30 (by decide) (by decide)).1 (by decide) (by decide)).2.1) (by decide)),
   runs_of ((((h (ses fun x => { x with batches := [b0 true] }) 2 0 (wr 7) 7 (by decide) (by decide)).1 (by decide) (by decide)).2.2.1 (b0 true) []) (by decide) (by decide) (by decide)),
   runs_of ((((h (ses fun x => { x with batches := [b0 true] }) 2 0 (wr 8) 8 (by decide) (by decide)).1 (by decide) (by decide)).2.2.2.1 (b0 true) []) (by decide) (by decide)),
   runs_of ((((h (ses fun x => { x with batches := [b0 false] }) 2 0 (wr 8) 8 (by decide) (by decide)).1 (by decide) (by decide)).2.2.2.2.1 (b0 false)) (by decide)),
   runs_of ((((h (ses id) 2 0 (wr 0x14) 0x14 (by decide) (by decide)).1 (by decide) (by decide)).2.2.2.2.2.1) (by decide) (by decide)),
   runs_of (((((h (ses fun x => { x with cfg := 4 }) 2 0 (wr 0x14) 0x14 (by decide) (by decide)).1 (by decide) (by decide)).2.2.2.2.2.2 (by decide) (by decide)).1) (by decide)),
   runs_of (((((h (ses fun x => { x with cfg := 4, stride := 0 }) 2 0 (wr 0x14) 0x14 (by decide) (by decide)).1 (by decide) (by decide)).2.2.2.2.2.2 (by decide) (by decide)).2) (by decide)),
   runs_of (((h (ses (fun x => { x with retrying := true, nextTry := 5 }) (tick idle0 5)) 2 0 (wr 0x14) 0x14 (by decide) (by decide)).2.1) (by decide) (by decide) (by decide) (by decide)),
   runs_of (((h recd 2 0 (wr 0x14) 0x14 (by decide) (by decide)).2.2.1) (by decide) (by decide) (by decide) (by decide) (by decide)),
   runs_of ((((h (lnd (ses fun x => { x with batches := [b0 false] })) 2 1 (wr 0x14) 0x14 (by decide) (by decide)).2.2.2.1 lan (List.replicate 64 0#8) 7 0 (by decide) (by decide) (by decide)).1) (by decide) (by decide) (by decide)),
   runs_of ((((h (lnd (ses (fun x => { x with batches := [b0 false], budget := 0x100 }) (tick idle0 1000))) 2 1 (wr 0x14) 0x14 (by decide) (by decide)).2.2.2.1 lan (List.replicate 64 0#8) 7 0 (by decide) (by decide) (by decide)).2 100) (by decide) (by decide) (by decide)),
   runs_of (((h (ses fun x => { x with batches := [b1] }) 2 1 (wr 0x14) 0x14 (by decide) (by decide)).2.2.2.2 b1 []) (by decide) (by decide) (by decide) (by decide) (by decide))⟩

theorem met_FrameStreamsReceiveAndRecord (h : Obligations.FrameStreamsReceiveAndRecord) :
    runs (.startOfFrame 2 77 5) (st 2 fun f => { f with busy := [0, 1] }) ∧
    runs (.audioBlockStart 1 77 5) (st 5 fun f => { f with busy := [0, 1] }) ∧
    runs (.videoBeat 2 18838586676582) (arr 2 0 [1#8]) ∧
    runs (.audioBeat 1 287454020) (arr 5 0 [1#8]) ∧
    runs (.endOfLine 2) (arr 2 0 [1#8]) ∧
    runs (.endOfFrame 2) (arr 2 1 []) ∧
    runs (.endOfFrame 2) (arr 2 0 []) ∧
    runs (.endOfFrame 2) (st 2 fun f => { f with frames := [fr .discarding 3 []] }) ∧
    runs (.audioBlockEnd 1) (arr 5 0 [1#8, 2#8]) ∧
    runs (.audioBlockEnd 1) (arr 5 0 []) ∧
    runs (.statisticsBeat 2 true 8 9 true) (arr 2 0 []) ∧
    runs (.statisticsBeat 2 true 8 9 true) (st 2 id) ∧
    runs (.frameRecordWrite 2) (st 2 fun f => { f with frames := [fr .dropped 1 []] }) ∧
    runs (.frmRecHeadWrite 2 (wr 1)) (st 2 fun f => { f with busy := [1, 0] }) ∧
    runs (.frmFree 2 (wr 1)) (st 2 fun f => { f with busy := [1, 0] }) ∧
    runs (.frmCtrlWrite 2 (wr 1)) (st 2 fun f => { f with busy := [1, 0] }) ∧
    runs (.frmRecHeadWrite 2 (wr 0)) (st 2 fun f => { f with busy := [1, 0] }) ∧
    runs (.frmFree 2 (wr 0)) (st 2 fun f => { f with busy := [1, 0] }) ∧
    runs (.frmCtrlWrite 2 (wr 0)) (st 2 fun f => { f with busy := [1, 0] }) :=
  ⟨runs_of (((h (st 2 fun f => { f with busy := [0, 1] }) 2 (wr 0) 0 (by decide) (by decide)).1 77 5 (by decide) (by decide) (by decide)).1 (by decide)),
   runs_of (((h (st 5 fun f => { f with busy := [0, 1] }) 5 (wr 0) 0 (by decide) (by decide)).1 77 5 (by decide) (by decide) (by decide)).2 (by decide)),
   runs_of (((h (arr 2 0 [1#8]) 2 (wr 0) 0 (by decide) (by decide)).2.1 (fr .arriving 0 [1#8]) (by decide)).1 (by decide) 0x112233445566),
   runs_of (((h (arr 5 0 [1#8]) 5 (wr 0) 0 (by decide) (by decide)).2.1 (fr .arriving 0 [1#8]) (by decide)).2.1 (by decide) 0x11223344),
   runs_of ((((h (arr 2 0 [1#8]) 2 (wr 0) 0 (by decide) (by decide)).2.1 (fr .arriving 0 [1#8]) (by decide)).2.2.1 (by decide)) (by decide) (by decide)),
   runs_of (((((h (arr 2 1 []) 2 (wr 0) 0 (by decide) (by decide)).2.1 (fr .arriving 1 []) (by decide)).2.2.2.1 (by decide) (by decide) (by decide)).1) (by decide) (by decide)),
   runs_of (((((h (arr 2 0 []) 2 (wr 0) 0 (by decide) (by decide)).2.1 (fr .arriving 0 []) (by decide)).2.2.2.1 (by decide) (by decide) (by decide)).2.1) (by decide) (by decide)),
   runs_of (((((h (st 2 fun f => { f with frames := [fr .discarding 3 []] }) 2 (wr 0) 0 (by decide) (by decide)).2.1 (fr .discarding 3 []) (by decide)).2.2.2.1 (by decide) (by decide) (by decide)).2.2) (by decide)),
   runs_of ((((h (arr 5 0 [1#8, 2#8]) 5 (wr 0) 0 (by decide) (by decide)).2.1 (fr .arriving 0 [1#8, 2#8]) (by decide)).2.2.2.2 (by decide)) (by decide) (by decide) (by decide) (by decide)),
   runs_of ((((h (arr 5 0 []) 5 (wr 0) 0 (by decide) (by decide)).2.1 (fr .arriving 0 []) (by decide)).2.2.2.2 (by decide)) (by decide) (by decide) (by decide) (by decide)),
   runs_of ((((h (arr 2 0 []) 2 (wr 0) 0 (by decide) (by decide)).2.2.1 (by decide) 8 9).1 (fr .arriving 0 [])) (by decide) (by decide) (by decide) (by decide)),
   runs_of ((((h (st 2 id) 2 (wr 0) 0 (by decide) (by decide)).2.2.1 (by decide) 8 9).2) (by decide)),
   runs_of (((h (st 2 fun f => { f with frames := [fr .dropped 1 []] }) 2 (wr 0) 0 (by decide) (by decide)).2.2.2.1 (fr .dropped 1 []) []) (by decide) (by decide) (by decide) (by decide) (by decide)),
   runs_of (((h (st 2 fun f => { f with busy := [1, 0] }) 2 (wr 1) 1 (by decide) (by decide)).2.2.2.2 (by decide))).1,
   runs_of ((((h (st 2 fun f => { f with busy := [1, 0] }) 2 (wr 1) 1 (by decide) (by decide)).2.2.2.2 (by decide))).2.1 (by decide)),
   runs_of (((((h (st 2 fun f => { f with busy := [1, 0] }) 2 (wr 1) 1 (by decide) (by decide)).2.2.2.2 (by decide))).2.2.1 (by decide)) (by decide)),
   runs_of (((h (st 2 fun f => { f with busy := [1, 0] }) 2 (wr 0) 0 (by decide) (by decide)).2.2.2.2 (by decide))).1,
   runs_of ((((h (st 2 fun f => { f with busy := [1, 0] }) 2 (wr 0) 0 (by decide) (by decide)).2.2.2.2 (by decide))).2.1 (by decide)),
   runs_of (((((h (st 2 fun f => { f with busy := [1, 0] }) 2 (wr 0) 0 (by decide) (by decide)).2.2.2.2 (by decide))).2.2.2 (by decide)) (by decide))⟩

end Gj

/-! ## Link training -/

namespace Gk1
def sx0 : SubLink := SubLink.reset
/-- node 5, time master 0, nodes 0.. by route -/
def lk (f : SubLink → SubLink) (cfg : Word := 1) (s : State := idle0) : State :=
  { s with lnk := { s.lnk with node := 5, ports := [{ LinkPort.reset with cfg := cfg }, { LinkPort.reset with cfg := 1 }], subs := s.lnk.subs.set 0 (f sx0), routes := s.lnk.routes.set 0 0x76154 } }
def B : List Byte := [1#8]
def tr (f : SubLink → SubLink) (cfg : Word := 1) := lk (fun x => f { x with st := .training }) cfg
def dk := (0x1234567890ABCDEF1234567890ABCDEF1234567890ABCDEF1234567890ABCDEF : Nat)
def dev (s : State) : State := { s with lds := { s.lds with dpriv := some dk, devkey := pubKey dk } }
def ky := dev (lk fun x => { x with st := .keying, eph := some 77 })

theorem met_LinksTrainKeyRetrainAndKeepTime (h : Obligations.LinksTrainKeyRetrainAndKeepTime) :
    runs (.laneLock 0) (lk fun x => { x with st := .lock }) ∧
    runs (.trainingRetry 0) (lk fun x => x) ∧
    runs (.trainingSet 0 9 1 4 false 8 7 false) (tr id) ∧
    runs (.trainingSet 0 9 2 4 false 8 240 false) (tr id) ∧
    runs (.trainingSet 0 5 1 4 false 8 255 false) (tr id) ∧
    runs (.trainingSet 0 9 1 4 false 8 255 false) (tr id) ∧
    runs (.trainingSet 0 9 1 4 true 8 240 true) (tr id) ∧
    runs (.trainingSet 0 9 1 9 true 8 255 true) (tr id 3) ∧
    runs (.trainingSet 0 9 1 9 true 8 240 true) (tr fun x => { x with back := true, width := 4, half := 1, epoch := 3, keys := some ⟨B, B, B, B⟩, replay := [⟨4, B⟩] }) ∧
    runs (.linkHandshake 0 B B B 0) ky ∧
    runs (.rekeyTrigger 0) (lk fun x => { x with st := .up, txCtr := 2^47 }) ∧
    runs (.counterEnd 0) (lk fun x => { x with st := .up, rxCtr := 2^48 - 2^32 }) ∧
    runs (.laneLockLoss 0 3) (lk fun x => { x with st := .up, width := 8 }) ∧
    runs (.laneLockLoss 0 3) (lk fun x => { x with st := .up, width := 4 }) ∧
    runs (.linkSoundingComplete 0 0#8) (lk fun x => { x with st := .up, width := 4, sounding := true }) ∧
    runs (.linkSoundingComplete 0 5) (lk fun x => { x with st := .up, width := 8, sounding := true }) ∧
    runs (.linkSoundingComplete 0 5) (lk fun x => { x with st := .up, width := 4, sounding := true }) ∧
    runs (.timeExchange 0) (lk fun x => { x with st := .up, width := 4, timed := true }) ∧
    runs (.timeReply 0 100 201 9) (lk fun x => { x with st := .up, width := 4, timed := true }) ∧
    runs (.timeReply 0 100000 201 9) (lk fun x => { x with st := .keying, width := 4, keys := some ⟨B,B,B,B⟩ }) :=
  ⟨runs_of (((h (lk fun x => { x with st := .lock }) 0 9 1 4 0xFF 0 false false 8 B B B 0 0 0 0 (by decide)).1) (by decide) (by decide)),
   runs_of (((h (lk fun x => x) 0 9 1 4 0xFF 0 false false 8 B B B 0 0 0 0 (by decide)).2.1) (by decide) (by decide) (by decide)),
   runs_of ((((h (tr id) 0 9 1 4 0x7 0 false false 8 B B B 0 0 0 0 (by decide)).2.2.1 (by decide) (by decide) (by decide)).1) (by decide) (by decide)),
   runs_of ((((h (tr id) 0 9 2 4 0xF0 0 false false 8 B B B 0 0 0 0 (by decide)).2.2.1 (by decide) (by decide) (by decide)).2.1) (by decide) (by decide)),
   runs_of ((((h (tr id) 0 5 1 4 0xFF 0 false false 8 B B B 0 0 0 0 (by decide)).2.2.1 (by decide) (by decide) (by decide)).2.2.1) (by decide) (by decide) (by decide)),
   runs_of ((((h (tr id) 0 9 1 4 0xFF 0 false false 8 B B B 0 0 0 0 (by decide)).2.2.1 (by decide) (by decide) (by decide)).2.2.2) (by decide) (by decide) (by decide) (by decide)),
   runs_of ((((h (tr id) 0 9 1 4 0xF0 0 true true 8 B B B 0 0 0 0 (by decide)).2.2.1 (by decide) (by decide) (by decide)).2.2.2) (by decide) (by decide) (by decide) (by decide)),
   runs_of ((((h (tr id 3) 0 9 1 9 0xFF 0 true true 8 B B B 0 0 0 0 (by decide)).2.2.1 (by decide) (by decide) (by decide)).2.2.2) (by decide) (by decide) (by decide) (by decide)),
   runs_of (((h (tr fun x => { x with back := true, width := 4, half := 1, epoch := 3, keys := some ⟨B, B, B, B⟩, replay := [⟨4, B⟩] }) 0 9 1 9 0xF0 0 true true 8 B B B 0 0 0 0 (by decide)).2.2.2.1) (by decide) (by decide) (by decide) (by decide) (by decide) (by decide) (by decide) (by decide) (by decide)),
   runs_of (((h ky 0 9 1 9 0xF0 0 true true 8 B B B 0 0 0 0 (by decide)).2.2.2.2.1 77 dk) (by decide) (by decide) (by decide)),
   runs_of (((h (lk fun x => { x with st := .up, txCtr := 2^47 }) 0 9 1 9 0xF0 0 true true 8 B B B 0 0 0 0 (by decide)).2.2.2.2.2.1) (by decide) (by decide) (by decide) (by decide)),
   runs_of (((h (lk fun x => { x with st := .up, rxCtr := 2^48 - 2^32 }) 0 9 1 9 0xF0 0 true true 8 B B B 0 0 0 0 (by decide)).2.2.2.2.2.2.1) (by decide) (by decide) (by decide)),
   runs_of ((((h (lk fun x => { x with st := .up, width := 8 }) 0 9 1 9 0xF0 0 true true 8 B B B 0 3 0 0 (by decide)).2.2.2.2.2.2.2.1 (by decide)).1) (by decide)),
   runs_of ((((h (lk fun x => { x with st := .up, width := 4 }) 0 9 1 9 0xF0 0 true true 8 B B B 0 3 0 0 (by decide)).2.2.2.2.2.2.2.1 (by decide)).2) (by decide)),
   runs_of ((((h (lk fun x => { x with st := .up, width := 4, sounding := true }) 0 9 1 9 0xF0 0 true true 8 B B B 0 3 0 0 (by decide)).2.2.2.2.2.2.2.2.1 (by decide) (by decide)).1) (by decide) (by decide)),
   runs_of ((((h (lk fun x => { x with st := .up, width := 8, sounding := true }) 0 9 1 9 0xF0 0 true true 8 B B B 0 3 0 0 (by decide)).2.2.2.2.2.2.2.2.1 (by decide) (by decide)).2.1 5) (by decide) (by decide) (by decide)),
   runs_of ((((h (lk fun x => { x with st := .up, width := 4, sounding := true }) 0 9 1 9 0xF0 0 true true 8 B B B 0 3 0 0 (by decide)).2.2.2.2.2.2.2.2.1 (by decide) (by decide)).2.2 5) (by decide) (by decide)),
   runs_of (((h (lk fun x => { x with st := .up, width := 4, timed := true }) 0 9 1 9 0xF0 9 true true 8 B B B 0 3 100 200 (by decide)).2.2.2.2.2.2.2.2.2.1 (by decide) (by decide)).1),
   runs_of ((((h (lk fun x => { x with st := .up, width := 4, timed := true }) 0 9 1 9 0xF0 9 true true 8 B B B 0 3 100 201 (by decide)).2.2.2.2.2.2.2.2.2.1 (by decide) (by decide)).2) (by decide)),
   runs_of ((((h (lk fun x => { x with st := .keying, width := 4, keys := some ⟨B,B,B,B⟩ }) 0 9 1 9 0xF0 9 true true 8 B B B 0 3 100000 201 (by decide)).2.2.2.2.2.2.2.2.2.2 (by decide) (by decide) (by decide) (by decide) (by decide))) (by decide))⟩

end Gk1

/-! ## Frames -/

namespace Gk3
def sx0 : SubLink := SubLink.reset
def lk (f : SubLink → SubLink) (s : State := idle0) : State :=
  { s with lnk := { s.lnk with node := 5, ports := [{ LinkPort.reset with cfg := 3 }, { LinkPort.reset with cfg := 3 }], subs := (s.lnk.subs.set 0 (f { sx0 with st := .up, width := 4 })).set 1 { sx0 with st := .up }, routes := s.lnk.routes.set 0 0x00076154 } }
def f1 : SentFrame := ⟨4, [1#8]⟩
def f2 : SentFrame := ⟨5, [2#8]⟩
def frm : Frame_ := ⟨1, 0, 0, 5, 2, 77, 0x10000, .data [1#8, 2#8], 3, none, 41⟩
def kk : LinkKeys := ⟨List.replicate 32 3#8, List.replicate 4 1#8, List.replicate 32 4#8, List.replicate 4 5#8⟩
def kko : LinkKeys := ⟨List.replicate 32 4#8, List.replicate 4 5#8, List.replicate 32 3#8, List.replicate 4 1#8⟩
def qd (f : Frame_) (tr : Bool) (s : State) : State := { s with lnk := { s.lnk with queue := if tr then [] else [f], transit := if tr then [f] else [] } }
def frc : Frame_ := ⟨4, 2, 0, 5, 2, 0, 0, .cells [.error 3], 3, none, 41⟩
def rf (dst : Nat) : Frame_ := ⟨1, 0, dst, 9, 2, 77, 0x10000, .data [1#8, 2#8], 3, none, 41⟩
def rs : State := lk fun x => { x with rxCtr := 1000, keys := some kk, rx := [⟨4, 2, 5, 0, 0, 0, 0, [], 3⟩] }
def B : List Byte := [1#8, 2#8]
def rp := lk fun x => { x with keys := some kk, replay := [f1, f2, ⟨6, []⟩], nacks := (5,7) }

theorem met_LinkFramesAreSentCheckedAndReplayed (h : Obligations.LinkFramesAreSentCheckedAndReplayed) :
    runs (.frameSlot 0) (lk fun x => { x with slots := 15, ack := true, owed := [1,2,3] }) ∧
    runs (.frameSlot 0) (lk fun x => { x with slots := 15, nack := true, rxCtr := 3, nacksSent := (2,6), owed := [1,2,3] }) ∧
    runs (.frameSlot 0) (lk fun x => { x with slots := 15, nack := true, rxCtr := 3, nacksSent := (3,7), owed := [1,2,3] }) ∧
    runs (.frameSlot 0) (lk fun x => { x with slots := 13, replay := [f1, f2], resend := some 4 }) ∧
    runs (.frameSlot 0) (lk fun x => { x with slots := 13, replay := [f1, f2], resend := some 5 }) ∧
    runs (.frameSlot 0) (lk fun x => { x with slots := 13, replay := List.replicate 64 f1 }) ∧
    runs (.frameSlot 0) (lk fun x => { x with slots := 13, replay := List.replicate 4 f1 }) ∧
    runs (.frameSlot 0) (qd frm false (lk fun x => { x with slots := 13, txCtr := 9, keys := some kk })) ∧
    runs (.frameSlot 0) (qd frc false (lk fun x => { x with slots := 13, txCtr := 9, keys := some kk })) ∧
    runs (.frameSlot 0) (qd { frm with via := some 1 } true (lk fun x => { x with slots := 13, txCtr := 9, keys := some kk })) ∧
    runs (.dataFrameReceive 0 ((rf 5).wire kko 1000)) rs ∧
    runs (.dataFrameReceive 0 ((rf 1).wire kko 1000)) rs ∧
    runs (.dataFrameReceive 0 ((rf 0).wire kko 1000)) rs ∧
    runs (.dataFrameReceive 0 ((rf 9).wire kko 1000)) rs ∧
    runs (.dataFrameReceive 0 ((rf 5).wire kko 1001)) rs ∧
    runs (.dataFrameReceive 0 B) rs ∧
    runs (.dataFrameReceive 0 B) (lk fun x => { x with keys := some kk, skipping := true }) ∧
    runs (.linkAck 0 (f2.counter % 4096)) rp ∧
    runs (.linkNack 0 (f1.counter % 4096)) rp ∧
    runs (.linkNack 0 (f2.counter % 4096)) rp ∧
    runs (.linkCreditReturn 0 1 5) (lk fun x => { x with credits := [4, 31, 2] }) ∧
    runs (.linkCreditReturn 0 2 5) (lk fun x => { x with credits := [4, 31, 2] }) :=
  ⟨runs_of (((h (lk fun x => { x with slots := 15, ack := true, owed := [1,2,3] }) 0 (by decide)).1) (by decide) (by decide) (by decide) (by decide) (by decide)),
   runs_of ((((h (lk fun x => { x with slots := 15, nack := true, rxCtr := 3, nacksSent := (2,6), owed := [1,2,3] }) 0 (by decide)).2.1 (by decide) (by decide) (by decide) (by decide) (by decide)).1) (by decide)),
   runs_of ((((h (lk fun x => { x with slots := 15, nack := true, rxCtr := 3, nacksSent := (3,7), owed := [1,2,3] }) 0 (by decide)).2.1 (by decide) (by decide) (by decide) (by decide) (by decide)).2) (by decide)),
   runs_of ((((h (lk fun x => { x with slots := 13, replay := [f1, f2], resend := some 4 }) 0 (by decide)).2.2.1 (by decide) (by decide) (by decide) (by decide)).1 [] f1 [f2]) (by decide) (by decide) (by decide)),
   runs_of ((((h (lk fun x => { x with slots := 13, replay := [f1, f2], resend := some 5 }) 0 (by decide)).2.2.1 (by decide) (by decide) (by decide) (by decide)).1 [f1] f2 []) (by decide) (by decide) (by decide)),
   runs_of ((((h (lk fun x => { x with slots := 13, replay := List.replicate 64 f1 }) 0 (by decide)).2.2.1 (by decide) (by decide) (by decide) (by decide)).2.1) (by decide) (by decide)),
   runs_of ((((h (lk fun x => { x with slots := 13, replay := List.replicate 4 f1 }) 0 (by decide)).2.2.1 (by decide) (by decide) (by decide) (by decide)).2.2.1) (by decide) (by decide) (by decide) (by decide)),
   runs_of (((((h (qd frm false (lk fun x => { x with slots := 13, txCtr := 9, keys := some kk })) 0 (by decide)).2.2.1 (by decide) (by decide) (by decide) (by decide)).2.2.2 frm kk (by decide) (by decide) (by decide) (by decide) (by decide) (by decide) (by decide) (by decide)).1) (by decide) (by decide) (by decide) (by decide)),
   runs_of (((((h (qd frc false (lk fun x => { x with slots := 13, txCtr := 9, keys := some kk })) 0 (by decide)).2.2.1 (by decide) (by decide) (by decide) (by decide)).2.2.2 frc kk (by decide) (by decide) (by decide) (by decide) (by decide) (by decide) (by decide) (by decide)).1) (by decide) (by decide) (by decide) (by decide)),
   runs_of (((((h (qd { frm with via := some 1 } true (lk fun x => { x with slots := 13, txCtr := 9, keys := some kk })) 0 (by decide)).2.2.1 (by decide) (by decide) (by decide) (by decide)).2.2.2 { frm with via := some 1 } kk (by decide) (by decide) (by decide) (by decide) (by decide) (by decide) (by decide) (by decide)).2 1) (by decide) (by decide) (by decide) (by decide)),
   runs_of (((((h rs 0 (by decide)).2.2.2.1 (rf 5) kk kko B 1000 (by decide) (by decide) (by decide) (by decide) (by decide) (by decide) (by decide) (by decide) (by decide) (by decide) (by decide) (by decide) (by decide) (by decide) (by decide) (by decide) (by decide)).1 (by decide) (by decide)).1) (by decide)),
   runs_of (((((h rs 0 (by decide)).2.2.2.1 (rf 1) kk kko B 1000 (by decide) (by decide) (by decide) (by decide) (by decide) (by decide) (by decide) (by decide) (by decide) (by decide) (by decide) (by decide) (by decide) (by decide) (by decide) (by decide) (by decide)).1 (by decide) (by decide)).2.1 1) (by decide) (by decide) (by decide)),
   runs_of (((((h rs 0 (by decide)).2.2.2.1 (rf 0) kk kko B 1000 (by decide) (by decide) (by decide) (by decide) (by decide) (by decide) (by decide) (by decide) (by decide) (by decide) (by decide) (by decide) (by decide) (by decide) (by decide) (by decide) (by decide)).1 (by decide) (by decide)).2.2) (by decide) (by decide)),
   runs_of (((((h rs 0 (by decide)).2.2.2.1 (rf 9) kk kko B 1000 (by decide) (by decide) (by decide) (by decide) (by decide) (by decide) (by decide) (by decide) (by decide) (by decide) (by decide) (by decide) (by decide) (by decide) (by decide) (by decide) (by decide)).1 (by decide) (by decide)).2.2) (by decide) (by decide)),
   runs_of ((((h rs 0 (by decide)).2.2.2.1 (rf 5) kk kko B 1001 (by decide) (by decide) (by decide) (by decide) (by decide) (by decide) (by decide) (by decide) (by decide) (by decide) (by decide) (by decide) (by decide) (by decide) (by decide) (by decide) (by decide)).2) (by decide) (by decide)),
   runs_of ((h rs 0 (by decide)).2.2.2.2.1 kk B (by decide) (by decide) (by decide) (by decide)),
   runs_of ((h (lk fun x => { x with keys := some kk, skipping := true }) 0 (by decide)).2.2.2.2.1 kk B (by decide) (by decide) (by decide) (by decide)),
   runs_of ((((h rp 0 (by decide)).2.2.2.2.2.1 [f1] [⟨6, []⟩] f2 (by decide) (by decide) (by decide)).1) (by decide)),
   runs_of ((((h rp 0 (by decide)).2.2.2.2.2.1 [] [f2, ⟨6, []⟩] f1 (by decide) (by decide) (by decide)).2.1) (by decide)),
   runs_of ((((h rp 0 (by decide)).2.2.2.2.2.1 [f1] [⟨6, []⟩] f2 (by decide) (by decide) (by decide)).2.2) (by decide)),
   runs_of ((((h (lk fun x => { x with credits := [4, 31, 2] }) 0 (by decide)).2.2.2.2.2.2 1 5)) (by decide) (by decide) (by decide)),
   runs_of ((((h (lk fun x => { x with credits := [4, 31, 2] }) 0 (by decide)).2.2.2.2.2.2 2 5)) (by decide) (by decide) (by decide))⟩

end Gk3

/-! ## Remote accesses and cells -/

namespace Gk4
def sx0 : SubLink := SubLink.reset
def lk (f : SubLink → SubLink) (s : State := idle0) : State :=
  { s with lnk := { s.lnk with node := 5, ports := [{ LinkPort.reset with cfg := 3 }, { LinkPort.reset with cfg := 3 }], subs := (s.lnk.subs.set 0 (f { sx0 with st := .up, width := 4 })).set 1 { sx0 with st := .up }, routes := s.lnk.routes.set 0 0x00076154 } }
def rxd (fr : RxFrame) (s : State := idle0) := lk (fun x => { x with rx := [fr] }) s
def fr0 : RxFrame := ⟨1, 0, 5, 9, 2, 77, 0x10000, [1#8, 2#8], 1⟩
def r0 (s : State) : State := ((s.rxRequest 0).map (·.2)).getD s
def shr (s : State) : State := { s with parts := s.parts.map fun p => { p with share := [1024,1024,1024,1024] } }
def a0 := shr (rxd fr0)
def frr : RxFrame := { fr0 with kind := 2, data := [] }
def a1 := shr (rxd frr)
def win (b : Nat) (s : State) : State := { s with cht := { s.cht with inwin := s.cht.inwin.set 0 (1 + 2 * 2 + 16 * b, 0, 16) } }
def seg2 (near : Bool) : Seg := ⟨0x00100000, 1, 16, if near then 5 else 1⟩
def map (near : Bool) (cached : Bool) (s : State) : State :=
  { s with cht := { s.cht with nearFrames := 32, lnk := { s.cht.lnk with segs := setAt s.cht.lnk.segs 2 (setAt (s.cht.lnk.segs.getD 2 []) 1 (seg2 near)), cache := if cached then [⟨0, List.replicate 16 (if near then 0x20000302#32 else 0x20000001#32)⟩] else [] } } }
def q0 := (map false true (win 1 a0))
def EA := 2^44+65536
def qn := (map true true (win 1 a1))
def rem (w : Bool) (o : FabOwner) (len : Nat) : RemAcc := ⟨77, o, w, 9, 1, 0, len, [], 2, true, [7#8], false⟩
def remS (f : RxFrame) (a : RemAcc) (s : State := idle0) : State := let u := rxd f s; { u with fab := { u.fab with rem := [a] } }
def rsp : RxFrame := { fr0 with kind := 3 }
def clf (n : Nat) : RxFrame := { fr0 with kind := 4, left := n, cls := 2, data := [] }
def cl : RxFrame := clf 2
def hj (ph : JobPhase) : Job := { jobIn ph 1 0 with multi := some (4, 3) }
def hb := rxd cl
def hbf (n : Nat) : State := let s := hb; s.modPart 2 fun p => { p with hqs := modAt p.hqs 3 fun q => { q with q := List.replicate n 5 } }
def hput (b : Bool) : State := rxd cl (onCore0 { runCore with seq := { runCore.seq with running := none }, tasks := runCore.tasks.set 0 { runTask with st := .waiting, wait := .hqPut 3 0x1234 b } })
def cjS (cnt : Nat) (first : Nat) (s : State) : State := { s with lnk := { s.lnk with cjob := s.lnk.cjob.set 0 (BitVec.ofNat 32 (3 + first * 2^16 + (cnt-1) * 2^24), 5) } }
def cje (cnt first : Nat) : Word × Word := (BitVec.ofNat 32 (3 + first * 2^16 + (cnt-1) * 2^24), 5)
def rest15 : List (Word × Word) := List.replicate 15 (0, 0)
def e0 (cnt first : Nat) : Word × Word := (BitVec.ofNat 32 (first * 2^16 + (cnt-1) * 2^24), 5)
def hj2 (ph : JobPhase) (first cnt : Nat) : Job := { jobIn ph 3 0 with multi := some (first, cnt) }
def withJob (j : Job) (s : State) : State := { s with grid := { s.grid with jobs := [j] } }
def arrS (s : State) : State := { s with lnk := { s.lnk with cjob := s.lnk.cjob.set 0 (e0 2 5), arrivals := [(0, 2, 1, 6)] } }
def s3 (s : State) : State := { s with lnk := { s.lnk with subs := [{ SubLink.reset with rx := [cl] }, .reset, .reset, { SubLink.reset with st := .up, peer := 8 }] } }

theorem met_RemoteAccessesAreServedAndAnswered (h : Obligations.RemoteAccessesAreServedAndAnswered) :
    runs (.remoteWrite 0 true) a0 ∧
    runs (.remoteReadRequest 0 64) a1 ∧
    runs (.remoteWrite 0 true) (map false false (win 1 a0)) ∧
    runs (.remoteWrite 0 true) (win 1 a0) ∧
    runs (.remoteWrite 0 false) (win 1 a0) ∧
    runs (.remoteWrite 0 true) q0 ∧
    runs (.remoteWrite 0 false) q0 ∧
    runs (.remoteReadRequest 0 64) qn ∧
    runs (.remoteReadResponse 0) (remS rsp (rem false (FabOwner.stream 0 0 0) 3)) ∧
    runs (.remoteReadResponse 0) (remS rsp (rem false (FabOwner.stream 0 0 0) 30)) ∧
    runs (.remoteWriteAck 0 (BitVec.ofNat 16 (rem true (FabOwner.write 0 0 0) 3).id)) (remS (clf 2) (rem true (FabOwner.write 0 0 0) 3)) ∧
    runs (.remoteErrorCell 0 (BitVec.ofNat 16 (rem false (FabOwner.stream 0 0 0) 3).id)) (remS (clf 1) (rem false (FabOwner.stream 0 0 0) 3) run0) :=
  ⟨runs_of (((((h a0 0 fr0).1 (r0 a0) 2 true (by decide +kernel) (by decide +kernel) (by decide +kernel) (by decide +kernel) (by decide +kernel)).1) (by decide +kernel) (by decide +kernel)).1 (by decide +kernel)),
   runs_of (((((h a1 0 frr).1 (r0 a1) 64 true (by decide +kernel) (by decide +kernel) (by decide +kernel) (by decide +kernel) (by decide +kernel)).1) (by decide +kernel) (by decide +kernel)).2 (by decide +kernel)),
   runs_of ((((((h (map false false (win 1 a0)) 0 fr0).1 (r0 (map false false (win 1 a0))) 2 true (by decide +kernel) (by decide +kernel) (by decide +kernel) (by decide +kernel) (by decide +kernel)).2 2 EA (by decide +kernel)).1 false) (by decide +kernel)).1 (by decide +kernel)),
   runs_of ((((((h (win 1 a0) 0 fr0).1 (r0 (win 1 a0)) 2 true (by decide +kernel) (by decide +kernel) (by decide +kernel) (by decide +kernel) (by decide +kernel)).2 2 EA (by decide +kernel)).2.1 0x801) (by decide +kernel)).1 (by decide +kernel)),
   runs_of ((((((h (win 1 a0) 0 fr0).1 (r0 (win 1 a0)) 2 false (by decide +kernel) (by decide +kernel) (by decide +kernel) (by decide +kernel) (by decide +kernel)).2 2 EA (by decide +kernel)).2.1 0x801) (by decide +kernel)).1 (by decide +kernel)),
   runs_of ((((((h q0 0 fr0).1 (r0 q0) 2 true (by decide +kernel) (by decide +kernel) (by decide +kernel) (by decide +kernel) (by decide +kernel)).2 2 EA (by decide +kernel)).2.2 0x100110000 false false) (by decide +kernel)).1 (by decide +kernel)),
   runs_of ((((((h q0 0 fr0).1 (r0 q0) 2 false (by decide +kernel) (by decide +kernel) (by decide +kernel) (by decide +kernel) (by decide +kernel)).2 2 EA (by decide +kernel)).2.2 0x100110000 false false) (by decide +kernel)).1 (by decide +kernel)),
   runs_of ((((((h qn 0 frr).1 (r0 qn) 64 true (by decide +kernel) (by decide +kernel) (by decide +kernel) (by decide +kernel) (by decide +kernel)).2 2 EA (by decide +kernel)).2.2 0x30000 true false) (by decide +kernel)).2 (by decide +kernel)),
   runs_of ((((h (remS rsp (rem false (.stream 0 0 0) 3)) 0 rsp).2 (rem false (.stream 0 0 0) 3) (by decide +kernel) (by decide +kernel) (by decide +kernel) (by decide +kernel) (by decide +kernel) (by decide +kernel)).1) (by decide +kernel) (by decide +kernel) (by decide +kernel)),
   runs_of ((((h (remS rsp (rem false (.stream 0 0 0) 30)) 0 rsp).2 (rem false (.stream 0 0 0) 30) (by decide +kernel) (by decide +kernel) (by decide +kernel) (by decide +kernel) (by decide +kernel) (by decide +kernel)).1) (by decide +kernel) (by decide +kernel) (by decide +kernel)),
   runs_of ((((h (remS (clf 2) (rem true (.write 0 0 0) 3)) 0 (clf 2)).2 (rem true (.write 0 0 0) 3) (by decide +kernel) (by decide +kernel) (by decide +kernel) (by decide +kernel) (by decide +kernel) (by decide +kernel)).2.1 0 0 0) (by decide +kernel) (by decide +kernel) (by decide +kernel) (by decide +kernel)),
   runs_of ((((h (remS (clf 1) (rem false (.stream 0 0 0) 3) run0) 0 (clf 1)).2 (rem false (.stream 0 0 0) 3) (by decide +kernel) (by decide +kernel) (by decide +kernel) (by decide +kernel) (by decide +kernel) (by decide +kernel)).2.2 0 0 0) (by decide +kernel) (by decide +kernel) (by decide +kernel) (by decide +kernel))⟩

theorem met_CellsOfOtherInstancesTakeEffect (h : Obligations.CellsOfOtherInstancesTakeEffect) :
    runs (.handleCell 0 (HandleMsg.put 3 0 2 4660)) hb ∧
    runs (.handleCell 0 (HandleMsg.put 3 0 2 4660)) (hbf 31) ∧
    runs (.handleCell 0 (HandleMsg.put 3 0 2 4660)) (hbf 32) ∧
    runs (.handleCell 0 (HandleMsg.reply 0 0 true)) (hput false) ∧
    runs (.handleCell 0 (HandleMsg.space 0 0)) (hput true) ∧
    runs (.chainBarrierArrivalCell 0 3 2 1) (cjS 3 4 hb) ∧
    runs (.chainBarrierArrivalCell 0 0 2 1) (arrS (withJob (hj2 JobPhase.running 5 2) hb)) ∧
    runs (.chainBarrierCompletionCell 0 0 2) (withJob (hj2 JobPhase.running 5 2) hb) ∧
    runs (.dividerProposalCell 0 0 7 99) (withJob (hj2 JobPhase.running 5 2) hb) ∧
    runs (.downNotice 0 [6]) (s3 (withJob (hj2 JobPhase.running 5 2) hb)) ∧
    runs (.downNotice 0 [7]) (s3 (withJob (hj2 JobPhase.running 5 2) hb)) ∧
    runs (.restartCell 0 0 3) (withJob (hj2 JobPhase.running 5 2) hb) :=
  ⟨runs_of ((((h hb 0 cl 3 2 1 (hj .running) (by decide) (by decide)).1 3 0 2 0x1234 2 (by decide) (by decide)).1) (by decide) (by decide)),
   runs_of ((((h (hbf 31) 0 cl 3 2 1 (hj .running) (by decide) (by decide)).1 3 0 2 0x1234 2 (by decide) (by decide)).1) (by decide) (by decide)),
   runs_of ((((h (hbf 32) 0 cl 3 2 1 (hj .running) (by decide) (by decide)).1 3 0 2 0x1234 2 (by decide) (by decide)).2.1) (by decide)),
   runs_of ((((h (hput false) 0 cl 3 2 1 (hj .running) (by decide) (by decide)).1 3 0 0 0x1234 2 (by decide) (by decide)).2.2.1) (by decide) (by decide) (by decide) (by decide)),
   runs_of ((((h (hput true) 0 cl 3 2 1 (hj .running) (by decide) (by decide)).1 3 0 0 0x1234 2 (by decide) (by decide)).2.2.2) (by decide) (by decide) (by decide) (by decide)),
   runs_of ((((h (cjS 3 4 hb) 0 cl 3 2 1 (hj .running) (by decide) (by decide)).2.1 (cje 3 4) rest15 (by decide) (by decide) (by decide)).1) (by decide) (by decide)),
   runs_of ((((h (arrS (withJob (hj2 .running 5 2) hb)) 0 cl 0 2 1 (hj2 .running 5 2) (by decide) (by decide)).2.1 (e0 2 5) rest15 (by decide) (by decide) (by decide)).2 6) (by decide) (by decide) (by decide) (by decide) (by decide) (by decide)),
   runs_of ((((h (withJob (hj2 .running 5 2) hb) 0 cl 0 2 1 (hj2 .running 5 2) (by decide) (by decide)).2.2.1)) (by decide) (by decide) (by decide)),
   runs_of (((h (withJob (hj2 .running 5 2) hb) 0 cl 0 2 1 (hj2 .running 5 2) (by decide) (by decide)).2.2.2.1 7 99)),
   runs_of ((((h (s3 (withJob (hj2 .running 5 2) hb)) 0 cl 0 2 1 (hj2 .running 5 2) (by decide) (by decide)).2.2.2.2.1 6 (5,2) (by decide) (by decide) (by decide) (by decide) (by decide) (by decide)).1) (by decide) (by decide) (by decide)),
   runs_of ((((h (s3 (withJob (hj2 .running 5 2) hb)) 0 cl 0 2 1 (hj2 .running 5 2) (by decide) (by decide)).2.2.2.2.1 7 (5,2) (by decide) (by decide) (by decide) (by decide) (by decide) (by decide)).2) (by decide)),
   runs_of ((((h (withJob (hj2 .running 5 2) hb) 0 cl 0 2 1 (hj2 .running 5 2) (by decide) (by decide)).2.2.2.2.2 3)) (by decide) (by decide) (by decide) (by decide) (by decide))⟩

end Gk4

/-! ## Start-up, the Almanac, ports -/

namespace Gl
def ph (p : Phase) (f : Almanac → Almanac := id) : State := { State.reset with alm := f { Almanac.reset with phase := p } }
def fu : Fuses := { Fuses.none with bad := [3] }
def B : List Byte := [1#8]
def clr : State := let s := ph .clear; { s with lds := { s.lds with dpriv := some 77 }, store := [(5, 6#8)], lnk := { s.lnk with ports := [{ LinkPort.reset with cfg := 1 }, LinkPort.reset] } }
def rd (f : Almanac → Almanac) (s : State := idle0) : State := { s with alm := f s.alm }
def go (op : Nat) : HostAcc := wr (2 ^ 31 + op)
def pa (op : AlmOp) := accs (rd fun a => { a with busy := true, op := some op, st := if op = .program 4 then .ready else .activating }) [readAcc .almanac (List.replicate 64 0#8)]
def ra (w : Bool) (o : FabOwner) (part : Option Nat) (re : Bool := false) : FabAcc := { no := 1, owner := o, write := w, near := false, coh := false, addr := 64, len := 128, data := [5#8], part := part, deadline := none, src := 0, chan := 1, tag := some 3, got := List.replicate 64 0#8, done := false, again := none, retried := re, held := false }
def sa (a : FabAcc) (s : State := run0) := accs s [a]
def recJ : Job := { jobIn .record 1 0 with desc := toLe 4 0 ++ toLe 4 1 ++ List.replicate 24 0#8 ++ toLe 4 5 ++ List.replicate 92 0#8, bell := 0 }
def recd : Record := ⟨0, 0, 0, List.replicate 64 0#8, false, true, 0, some 1, none⟩
def recS : State := sa (ra true (.record 0) (some 0)) { run0 with grid := { run0.grid with jobs := [recJ], records := [recd] }, clk := { run0.clk with tick := 50 } }
def rt : FabAcc := { ra true .logbook none with tag := none, again := some 0 }
def tp (t : TapState) (ir : Option (List Bool)) : State := { State.reset with tap := { Tap.reset with st := t, ir := ir, irShift := [true, false, false, true], dr := [true, false] } }

theorem met_StartUpPhasesLeadToReady (h : Obligations.StartUpPhasesLeadToReady) :
    runs .porAssert ({ idle0 with pending := [.porAssert], tap := { idle0.tap with st := .idle } }) ∧
    runs (.porDeassert true 1) (ph Phase.held) ∧
    runs (.fuseSenseDone fu) (ph Phase.fuses) ∧
    runs .pllLock (ph Phase.pll) ∧
    runs .binnacleBootDone (ph .boot fun a => { a with fuses := { fu with bad := List.range 6 } }) ∧
    runs .binnacleBootDone (ph .boot fun a => { a with fuses := fu }) ∧
    runs (.nvmDiscoveryDone 2 true) (ph Phase.discover) ∧
    runs (.copyReadDone B) (ph Phase.copyA) ∧
    runs (.copyReadDone []) (ph Phase.copyA) ∧
    runs (.copyReadDone []) (ph Phase.copyB) ∧
    runs .sectionsApplied (ph .apply fun a => { a with image := B }) ∧
    runs .chartClearDone clr :=
  ⟨runs_of ((h { idle0 with pending := [.porAssert], tap := { idle0.tap with st := .idle } } true true 1 fu 2 B).1),
   runs_of (((h (ph .held) true true 1 fu 2 B).2.1) (by decide)),
   runs_of (((h (ph .fuses) true true 1 fu 2 B).2.2.1) (by decide)),
   runs_of (((h (ph .pll) true true 1 fu 2 B).2.2.2.1) (by decide)),
   runs_of ((((h (ph .boot fun a => { a with fuses := { fu with bad := List.range 6 } }) true true 1 fu 2 B).2.2.2.2.1 (by decide)).1) (by decide)),
   runs_of ((((h (ph .boot fun a => { a with fuses := fu }) true true 1 fu 2 B).2.2.2.2.1 (by decide)).2) (by decide)),
   runs_of (((h (ph .discover) true true 1 fu 2 B).2.2.2.2.2.1) (by decide)),
   runs_of (((h (ph .copyA) true true 1 fu 2 B).2.2.2.2.2.2.1) (by decide)),
   runs_of (((h (ph .copyA) true true 1 fu 2 []).2.2.2.2.2.2.1) (by decide)),
   runs_of (((h (ph .copyB) true true 1 fu 2 []).2.2.2.2.2.2.2.1) (by decide)),
   runs_of (((h (ph .apply fun a => { a with image := B }) true true 1 fu 2 B).2.2.2.2.2.2.2.2.1) (by decide)),
   runs_of (((h clr true true 1 fu 2 B).2.2.2.2.2.2.2.2.2 77) (by decide) (by decide) (by decide))⟩

theorem met_AlmanacOperationsAndPowerDown (h : Obligations.AlmanacOperationsAndPowerDown) :
    runs .porAssert run0 ∧
    runs (.almLoad (go 0)) (rd fun a => { a with busy := true }) ∧
    runs (.almLoad (go 0)) (rd fun a => a) ∧
    runs (.almLoad (go 0)) (rd fun a => { a with st := .awaitHost, len := 0 }) ∧
    runs (.almLoad (go 0)) (rd fun a => { a with st := .awaitHost, len := 200 }) ∧
    runs (.almProgram (go 1)) (rd fun a => { a with st := .awaitHost, len := 200 }) ∧
    runs (.almProgram (go 1)) (rd fun a => { a with len := 2000, srcLo := 0x1080 }) ∧
    runs (.almActivate (go 2)) (rd fun a => { a with st := .awaitHost, len := 200 }) ∧
    runs (.almActivate (go 2)) (rd (fun a => { a with len := 200 }) run0) ∧
    runs (.almActivate (go 2)) (rd fun a => { a with len := 2000, srcLo := 0x1080 }) ∧
    runs (.almOperationDone true) (pa (AlmOp.program 4)) ∧
    runs (.almOperationDone true) (pa (AlmOp.activate 4)) ∧
    runs (.pwDownReq true) idle0 ∧
    runs (.pwDownReq true) run0 ∧
    runs (.pwDownReq false) run0 ∧
    runs .downReady ({ run0 with pw := { run0.pw with preparing := true } }) :=
  ⟨runs_of ((h run0 (wr 2) true 4).1),
   runs_of ((((h (rd fun a => { a with busy := true }) (go 0) true 4).2.1 (by decide)).1) (by decide)),
   runs_of ((((h (rd fun a => a) (go 0) true 4).2.1 (by decide)).2.1) (by decide) (by decide)),
   runs_of ((((h (rd fun a => { a with st := .awaitHost, len := 0 }) (go 0) true 4).2.1 (by decide)).2.2) (by decide) (by decide)),
   runs_of ((((h (rd fun a => { a with st := .awaitHost, len := 200 }) (go 0) true 4).2.1 (by decide)).2.2) (by decide) (by decide)),
   runs_of ((((h (rd fun a => { a with st := .awaitHost, len := 200 }) (go 1) true 4).2.2.1 (by decide)).1) (by decide) (by decide)),
   runs_of ((((h (rd fun a => { a with len := 2000, srcLo := 0x1080 }) (go 1) true 4).2.2.1 (by decide)).2) (by decide) (by decide) (by decide)),
   runs_of ((((h (rd fun a => { a with st := .awaitHost, len := 200 }) (go 2) true 4).2.2.2.1 (by decide) (by decide)).1) (by decide)),
   runs_of ((((h (rd (fun a => { a with len := 200 }) run0) (go 2) true 4).2.2.2.1 (by decide) (by decide)).1) (by decide)),
   runs_of ((((h (rd fun a => { a with len := 2000, srcLo := 0x1080 }) (go 2) true 4).2.2.2.1 (by decide) (by decide)).2) (by decide) (by decide) (by decide)),
   runs_of ((((h (pa (.program 4)) (go 2) true 4).2.2.2.2.1 (by decide)).1) (by decide)),
   runs_of ((((h (pa (.activate 4)) (go 2) true 4).2.2.2.2.1 (by decide)).2) (by decide)),
   runs_of ((((h idle0 (go 2) true 4).2.2.2.2.2.1 (by decide) (by decide) (by decide)).1) (by decide) (by decide) (by decide)),
   runs_of ((((h run0 (go 2) true 4).2.2.2.2.2.1 (by decide) (by decide) (by decide)).2) (by decide)),
   runs_of ((h run0 (go 2) true 4).2.2.2.2.2.2.1),
   runs_of (((h { run0 with pw := { run0.pw with preparing := true } } (go 2) true 4).2.2.2.2.2.2.2) (by decide) (by decide))⟩

theorem met_PortsBringResponsesAndScan (h : Obligations.PortsBringResponsesAndScan) :
    runs (.fabricReadResponse (ra false (FabOwner.stream 0 0 0) (some 0)).chan 3 B false false) (sa (ra false (FabOwner.stream 0 0 0) (some 0))) ∧
    runs (.fabricReadResponse (ra false (FabOwner.stream 0 0 0) (some 0)).chan 3 B true false) (sa (ra false (FabOwner.stream 0 0 0) (some 0))) ∧
    runs (.fabricReadResponse (ra false (FabOwner.stream 0 0 0) (some 0)).chan 3 B true true) (sa (ra false (FabOwner.stream 0 0 0) (some 0))) ∧
    runs (.fabricWriteAck (ra true (FabOwner.write 0 0 0) (some 0)).chan 3 false) (sa (ra true (FabOwner.write 0 0 0) (some 0))) ∧
    runs (.fabricWriteAck (ra true (FabOwner.record 0) (some 0)).chan 3 false) recS ∧
    runs (.fabricWriteAck (ra true FabOwner.logbook none).chan 3 true) (sa (ra true FabOwner.logbook none)) ∧
    runs (.fabricWriteAck (ra true FabOwner.logbook none true).chan 3 true) (sa (ra true FabOwner.logbook none true)) ∧
    runs (.fabricRetry rt.no) (sa rt) ∧
    runs (.testPortTck true true true true) (tp TapState.shiftDr none) ∧
    runs (.testPortTck true true true false) (tp TapState.shiftDr none) ∧
    runs (.testPortTck true true true false) (tp TapState.shiftIr none) ∧
    runs (.testPortTck true true true false) (tp TapState.captureDr none) ∧
    runs (.testPortTck false true true false) (tp TapState.shiftDr none) ∧
    runs (.testPortTck false true true false) (tp TapState.updateIr none) :=
  ⟨runs_of (((h.1 (sa (ra false (.stream 0 0 0) (some 0))) (ra false (.stream 0 0 0) (some 0)) 3 B (by decide) (by decide) (by decide) (by decide) (by decide)).1 (by decide)).1),
   runs_of ((((h.1 (sa (ra false (.stream 0 0 0) (some 0))) (ra false (.stream 0 0 0) (some 0)) 3 B (by decide) (by decide) (by decide) (by decide) (by decide)).1 (by decide)).2 0 0 0 (by decide)).1),
   runs_of (((((h.1 (sa (ra false (.stream 0 0 0) (some 0))) (ra false (.stream 0 0 0) (some 0)) 3 B (by decide) (by decide) (by decide) (by decide) (by decide)).1 (by decide)).2 0 0 0 (by decide)).2 0) (by decide) (by decide)),
   runs_of ((((h.1 (sa (ra true (.write 0 0 0) (some 0))) (ra true (.write 0 0 0) (some 0)) 3 B (by decide) (by decide) (by decide) (by decide) (by decide)).2 (by decide)).1 0 0 0) (by decide)),
   runs_of ((((h.1 recS (ra true (.record 0) (some 0)) 3 B (by decide) (by decide) (by decide) (by decide) (by decide)).2 (by decide)).2.1 0 recd recJ) (by decide) (by decide) (by decide) (by decide) (by decide) (by decide) (by decide) (by decide) (by decide) (by decide) (by decide)),
   runs_of (((((h.1 (sa (ra true .logbook none)) (ra true .logbook none) 3 B (by decide) (by decide) (by decide) (by decide) (by decide)).2 (by decide)).2.2 (by decide) (by decide)).1) (by decide)),
   runs_of (((((h.1 (sa (ra true .logbook none true)) (ra true .logbook none true) 3 B (by decide) (by decide) (by decide) (by decide) (by decide)).2 (by decide)).2.2 (by decide) (by decide)).2) (by decide)),
   runs_of ((h.2.1 (sa rt) rt 0) (by decide) (by decide) (by decide) (by decide) (by decide)),
   runs_of ((h.2.2 (tp .shiftDr none) true true true).1),
   runs_of (((h.2.2 (tp .shiftDr none) true true true).2.2 (by decide)).1),
   runs_of (((h.2.2 (tp .shiftIr none) true true true).2.2 (by decide)).1),
   runs_of (((h.2.2 (tp .captureDr none) true true true).2.2 (by decide)).1),
   runs_of (((h.2.2 (tp .shiftDr none) true true true).2.2 (by decide)).2),
   runs_of (((h.2.2 (tp .updateIr none) true true true).2.2 (by decide)).2)⟩

end Gl

/-! ## Statements over whole steps -/

theorem met_EmptyQueueLetsOneFCyclePass (h : Obligations.EmptyQueueLetsOneFCyclePass) :
    step run0 = .next run0.fCycle ∧ run0.fCycle.clk.fcyc = run0.clk.fcyc + 1 :=
  ⟨(h run0 (by decide)).1, (h run0 (by decide)).2.2 (by decide)⟩

theorem met_EmptyQueue_held (h : Obligations.EmptyQueueLetsOneFCyclePass) : step State.reset = .next State.reset :=
  (h State.reset (by decide)).2.1 (by decide)

theorem met_StepRunsTheFrontCommand (h : Obligations.StepRunsTheFrontCommand) :
    step { run0 with pending := [.pllLock] } = exec .pllLock { run0 with pending := [] } :=
  h { run0 with pending := [.pllLock] } .pllLock [] rfl

theorem met_StepsKeepMemoriesCanonical (h : Obligations.StepsKeepMemoriesCanonical) : memOk run0.fCycle = true :=
  h run0 run0.fCycle (by decide +kernel) rfl

/-- What a command leaves. -/
def after (i : Instr) (s : State) : State :=
  match exec i s with
  | .next u => u
  | _ => s

theorem met_CommandsLeaveQueueAndConfiguration (h : Obligations.CommandsLeaveQueueAndConfiguration) :
    (after (.porDeassert true 1) State.reset).pending = [] ∧ (after (.porDeassert true 1) State.reset).cfg = .sd32 :=
  h (.porDeassert true 1) State.reset _ rfl

/-! ## Ill-formed commands -/

theorem test_ill_handshake_key : WellFormed (.linkHandshake 0 [] (List.replicate 97 0#8) (List.replicate 96 0#8) 0) = false := by decide
theorem test_ill_handshake_eph : WellFormed (.linkHandshake 0 (List.replicate 97 0#8) [] (List.replicate 96 0#8) 0) = false := by decide
theorem test_ill_handshake_sig : WellFormed (.linkHandshake 0 (List.replicate 97 0#8) (List.replicate 97 0#8) [] 0) = false := by decide
theorem test_ill_frame : WellFormed (.dataFrameReceive 0 [1#8]) = false := by decide
theorem test_ill_read_zero : WellFormed (.remoteReadRequest 0 0) = false := by decide
theorem test_ill_read_long : WellFormed (.remoteReadRequest 0 1025) = false := by decide
theorem test_ill_node : WellFormed (.downNotice 0 [256]) = false := by decide
theorem test_ill_response_channel : WellFormed (.fabricReadResponse 14 0 [] true true) = false := by decide
theorem test_ill_response_tag : WellFormed (.fabricReadResponse 12 64 [] true true) = false := by decide
theorem test_ill_response_data : WellFormed (.fabricReadResponse 0 0 [1#8] true false) = false := by decide
theorem test_ill_ack_channel : WellFormed (.fabricWriteAck 14 0 false) = false := by decide
theorem test_ill_ack_tag : WellFormed (.fabricWriteAck 0 128 false) = false := by decide
theorem test_ill_line : WellFormed (.chartLineReturn 0 (2 ^ 21)) = false := by decide
theorem test_ill_activity : WellFormed (.powerIntervalClose (List.replicate 33 Activity.zero) Activity.zero 0) = false := by decide
theorem test_ill_secret : WellFormed (.fuseSenseDone { Fuses.none with signer := List.replicate 48 0#8 }) = false := by decide
theorem test_ill_signer : WellFormed (.fuseSenseDone { Fuses.none with secret := List.replicate 32 0#8 }) = false := by decide
theorem test_ill_bad_core :
    WellFormed (.fuseSenseDone ⟨[34], [], List.replicate 32 0#8, 0, List.replicate 48 0#8, 0⟩) = false := by decide
theorem test_ill_credit : WellFormed (.linkCreditReturn 0 0 (2 ^ 16)) = false := by decide
theorem test_ill_restart : WellFormed (.restartCell 0 0 0) = false := by decide
theorem test_ill_restart_many : WellFormed (.restartCell 0 0 17) = false := by decide
theorem test_well_frame : WellFormed (.dataFrameReceive 0 (List.replicate 320 0#8)) = true := by decide +kernel

/-! ## Single steps -/

/-- Task 0 of core 0 after a command of core 0. -/
def task0 (i : Fields → Instr) (f : Fields) : Task := ((after (i f) run0).core 0).task 0

/-- 64 + 0xFFFFFFFF wraps to 63 (Table 6.4). -/
theorem test_add_wraps : (task0 (.add 0) (fld3 3 1 0 1 0xFFFFFFFF)).reg 3 = 63#32 := by decide

/-- The shift amount is taken modulo 32 (Table 6.4). -/
theorem test_shl_amount : (task0 (.shl 0) (fld3 3 1 0 1 33)).reg 3 = 128#32 := by decide

/-- A load and a store meet at the same tile byte order, little-endian (section 0's conventions). -/
theorem test_store_low_byte : ((after (.st 0 (fld3 0 1 2 0 4)) run0).core 0).tile.byte 68 = 7#8 := by decide

/-- A false guard of a predicate leaves the destination (R198). -/
theorem test_guard : (task0 (.add 0) { fld3 3 1 0 1 5 with pg := 1 }).reg 3 = 0#32 := by decide

/-- A load of a misaligned word stops the core with 0x0306 (Table 6.18). -/
theorem test_ld_misaligned : ((after (.ld 0 (fld3 3 1 0 0 1)) run0).core 0).seq.stop = some 0x0306 := by decide

/-- At reset the PLL's lock is not awaited yet, and changes nothing (R504). -/
theorem test_pll_early : exec .pllLock State.reset = .next State.reset := rfl

/-! ## The mesh -/

/-- Table 1.2: stops, router-only stops, core diameter, start reach. -/
theorem test_table_1_2 : [Model.sd4, .sd8, .sd16, .sd32].map (fun m => (m.stops, m.routerOnly, m.coreDiameter, m.startReach)) =
    [(15, 2, 3, 3), (20, 1, 4, 5), (35, 3, 7, 7), (56, 1, 10, 10)] := by decide +kernel

/-- A packet of 3 flits over 4 hops: the first flit is out after 2 + 2 · 4 F-cycles, the last 2 later (R23). -/
def far : Routers := { Routers.reset with flights := [Flight.new .request (1, 1) (4, 2) 768 false true] }

theorem test_R23_first : ((far.runUntil (fun x => x.flights.any (fun f => f.flits.headD (0, 0) = (6, 9))) 64).cyc) = 10 := by
  decide +kernel

theorem test_R23_last : ((far.runUntil (fun x => x.flights.all Flight.done) 64).cyc) = 12 := by decide +kernel

/-- A bank grants the better class, on equal class the request that waited longer, and a host write that waited 56 A-cycles goes ahead
(R394, Table 12.2). -/
theorem test_bank_class : bankGrant 0 [(.pipe, 0), (.feeder, 0)] = some (.feeder, false) := by decide
theorem test_bank_age : bankGrant 0 [(.pipe, 3), (.writer, 5)] = some (.writer, false) := by decide
theorem test_bank_host : bankGrant 0 [(.feeder, 0), (.window, 56)] = some (.window, false) := by decide

end Sys2Proof.Tests
end

section
/-! SUPPORT. The path of a doorbell to a job: what the issue of accesses and of records leaves unchanged, one equation per outcome of a
doorbell, of a dispatch and of a fetched descriptor, and the statement on doorbells and dispatch (R34 to R37, R45, R337, R341 to R344). -/

namespace Sys2Proof.Machine

/-! ## Lists, bytes and parts of the state -/

@[simp] theorem length_modAt {α : Type} (l : List α) (i : Nat) (f : α → α) : (modAt l i f).length = l.length := by
  induction l generalizing i with
  | nil => rfl
  | cons x xs ih => cases i <;> simp [modAt, ih]

theorem getD_modAt {α : Type} {l : List α} {i : Nat} (f : α → α) (d : α) (h : i < l.length) :
    (modAt l i f).getD i d = f (l.getD i d) := by
  induction l generalizing i with
  | nil => simp at h
  | cons x xs ih =>
    cases i with
    | zero => rfl
    | succ i => simpa [modAt] using ih (by simpa using h)

theorem length_slice (bs : List Byte) (off n : Nat) : (slice bs off n).length = n := by
  simp only [slice, List.length_append, List.length_take, List.length_drop, List.length_replicate]
  omega

theorem ofLe_lt (bs : List Byte) : ofLe bs < 256 ^ bs.length := by
  induction bs with
  | nil => simp [ofLe]
  | cons b bs ih =>
    have := b.isLt
    simp only [ofLe, List.length_cons, Nat.pow_succ]
    omega

theorem leAt_lt (bs : List Byte) (off n : Nat) : leAt bs off n < 256 ^ n := by
  simpa [leAt, length_slice] using ofLe_lt (slice bs off n)

/-- The upper half of the four bytes a list begins with. -/
theorem leAt_upper_half (x : Nat) (bs : List Byte) : leAt (toLe 4 x ++ bs) 2 2 = x / 2 ^ 16 % 2 ^ 16 := by
  have h : leAt (toLe 4 x ++ bs) 2 2 = x / 256 / 256 % 2 ^ 8 + 256 * (x / 256 / 256 / 256 % 2 ^ 8) := rfl
  omega

theorem State.part_modPart_or (s : State) (p q : Nat) (f : Part → Part) :
    (s.modPart p f).part q = s.part q ∨ (s.modPart p f).part q = f (s.part q) := by
  unfold State.modPart
  split
  · rename_i hp
    by_cases hq : p = q
    · subst hq
      exact .inr (by simp [State.part, hp])
    · exact .inl (by simp [State.part, hq])
  · exact .inl rfl

@[simp] theorem State.modRing_grid (s : State) (p r : Nat) (f : Ring → Ring) : (s.modRing p r f).grid = s.grid := State.modPart_grid ..
@[simp] theorem State.modRing_cores (s : State) (p r : Nat) (f : Ring → Ring) : (s.modRing p r f).cores = s.cores := State.modPart_cores ..
@[simp] theorem State.modRing_fab (s : State) (p r : Nat) (f : Ring → Ring) : (s.modRing p r f).fab = s.fab := State.modPart_fab ..
@[simp] theorem State.modRing_cfg (s : State) (p r : Nat) (f : Ring → Ring) : (s.modRing p r f).cfg = s.cfg := State.modPart_cfg ..
@[simp] theorem State.modRing_cht (s : State) (p r : Nat) (f : Ring → Ring) : (s.modRing p r f).cht = s.cht := State.modPart_cht ..

@[simp] theorem State.part_modGrid (s : State) (f : Grid → Grid) (p : Nat) : (s.modGrid f).part p = s.part p := rfl
@[simp] theorem State.ring_modGrid (s : State) (f : Grid → Grid) (p r : Nat) : (s.modGrid f).ring p r = s.ring p r := rfl

/-- A partition whose ring has changed. -/
theorem State.part_modRing (s : State) (p : Fin 8) (r : Nat) (f : Ring → Ring) :
    (s.modRing p r f).part p = { s.part p with rings := modAt (s.part p).rings r f } := by
  simp [State.modRing]

theorem State.ring_modRing {s : State} {p r : Fin 8} (f : Ring → Ring) (h : (s.part p).rings.length = 8) :
    (s.modRing p r f).ring p r = f (s.ring p r) := by
  rw [State.ring, State.part_modRing]
  exact getD_modAt f _ (by rw [h]; exact r.isLt)

/-! ## What the issue of accesses changes (R237, R392, R405, R521) -/

/-- b is partition a with, at most, other counts of waits: a grant counts those who lost, and latches a closed window's figures. -/
def Part.CountsOnly (a b : Part) : Prop :=
  b = { a with slow := b.slow, slowNow := b.slowNow, wait := b.wait, waitNow := b.waitNow, reportSeq := b.reportSeq }

theorem Part.CountsOnly.refl (a : Part) : a.CountsOnly a := rfl

theorem Part.CountsOnly.trans {a b c : Part} (h : a.CountsOnly b) (k : b.CountsOnly c) : a.CountsOnly c := by
  unfold Part.CountsOnly at *
  rw [k, h]

/-- b is access a, on which its stop may have acted. -/
def FabAcc.IssuedAs (a b : FabAcc) : Prop := b = { a with tag := b.tag, held := b.held }

theorem FabAcc.IssuedAs.trans {a b c : FabAcc} (h : a.IssuedAs b) (k : b.IssuedAs c) : a.IssuedAs c := by
  unfold FabAcc.IssuedAs at *
  rw [k, h]

theorem FabAcc.IssuedAs.ite {a b c : FabAcc} {P : Prop} [Decidable P] (h : a.IssuedAs b) (k : a.IssuedAs c) :
    a.IssuedAs (if P then b else c) := by
  split
  · exact h
  · exact k

/-- From s to u stops have accepted and issued accesses, and nothing else has happened: every earlier access is still there. -/
structure State.OnlyIssues (s u : State) : Prop where
  rest : u = { s with parts := u.parts, grid := u.grid, fab := u.fab, noc := u.noc }
  grid : u.grid = { s.grid with windows := u.grid.windows, reportDue := u.grid.reportDue }
  part : ∀ p, (s.part p).CountsOnly (u.part p)
  accs : ∀ a ∈ s.fab.accs, ∃ b ∈ u.fab.accs, a.IssuedAs b

namespace State.OnlyIssues

variable {s t u : State}

theorem refl (s : State) : s.OnlyIssues s := ⟨rfl, rfl, fun _ => rfl, fun a h => ⟨a, h, rfl⟩⟩

theorem trans (h : s.OnlyIssues t) (k : t.OnlyIssues u) : s.OnlyIssues u where
  rest := by rw [k.rest, h.rest]
  grid := by rw [k.grid, h.grid]
  part p := (h.part p).trans (k.part p)
  accs a ha := by
    obtain ⟨b, hb, hab⟩ := h.accs a ha
    obtain ⟨c, hc, hbc⟩ := k.accs b hb
    exact ⟨c, hc, hab.trans hbc⟩

theorem cores (h : s.OnlyIssues u) : u.cores = s.cores := by rw [h.rest]
theorem jobs (h : s.OnlyIssues u) : u.grid.jobs = s.grid.jobs := by rw [h.grid]
theorem fetches (h : s.OnlyIssues u) : u.grid.fetches = s.grid.fetches := by rw [h.grid]
theorem disp (h : s.OnlyIssues u) : u.grid.disp = s.grid.disp := by rw [h.grid]
theorem records (h : s.OnlyIssues u) : u.grid.records = s.grid.records := by rw [h.grid]
theorem ring (h : s.OnlyIssues u) (p r : Nat) : u.ring p r = s.ring p r := by
  rw [State.ring, h.part p]
  rfl

/-- Steps that each only issue accesses, one after another. -/
theorem foldl {α : Type} {f : State → α → State} (h : ∀ (s : State) x, s.OnlyIssues (f s x)) (l : List α) (s : State) :
    s.OnlyIssues (l.foldl f s) := by
  induction l generalizing s with
  | nil => exact refl s
  | cons x l ih => exact (h s x).trans (ih _)

/-- A change of one partition's counts of waits. -/
theorem of_modPart (s : State) (p : Nat) {f : Part → Part} (h : ∀ a : Part, a.CountsOnly (f a)) : s.OnlyIssues (s.modPart p f) where
  rest := by unfold State.modPart; split <;> rfl
  grid := by rw [State.modPart_grid]
  part q := by
    rcases s.part_modPart_or p q f with e | e <;> rw [e]
    · rfl
    · exact h _
  accs a ha := ⟨a, by simpa using ha, rfl⟩

theorem reportTurn (s : State) : s.OnlyIssues s.reportTurn := by
  unfold State.reportTurn
  dsimp only
  split
  · exact refl s
  · refine ⟨rfl, rfl, fun p => ?_, fun a ha => ⟨a, ha, rfl⟩⟩
    by_cases hp : p < 8 <;> simp [State.part, hp, Part.CountsOnly]

theorem countWaits (s : State) (res winner : Nat) (req : List Nat) : s.OnlyIssues (s.countWaits res winner req) :=
  (reportTurn s).trans <| foldl
    (fun s p => of_modPart s p (f := fun q => { q with waitNow := modAt q.waitNow res (· + 1) }) (fun _ => rfl)) _ _

/-- A change of the fabric that keeps every access. -/
theorem of_fab (s : State) {f : Fabric} (h : ∀ a ∈ s.fab.accs, ∃ b ∈ f.accs, a.IssuedAs b) : s.OnlyIssues { s with fab := f } :=
  ⟨rfl, rfl, fun _ => rfl, h⟩

/-- A change of the fabric that acts on each access. -/
theorem of_map (s : State) {f : Fabric} {g : FabAcc → FabAcc} (hf : f.accs = s.fab.accs.map g) (hg : ∀ a : FabAcc, a.IssuedAs (g a)) :
    s.OnlyIssues { s with fab := f } :=
  of_fab s fun a ha => ⟨g a, hf ▸ List.mem_map_of_mem ha, hg a⟩

theorem grant {ch : Nat} (h : s.grant ch = some u) : s.OnlyIssues u := by
  unfold State.grant at h
  dsimp only at h
  split at h
  · cases h
  · split at h
    · cases h
    · cases h
    · injection h with h
      subst h
      split
      · refine trans (of_map s rfl fun a => ?_) (countWaits ..)
        exact .ite rfl (.ite rfl rfl)
      · refine of_map s rfl fun a => ?_
        exact .ite rfl (.ite rfl rfl)

theorem pumpCh (s : State) (ch n : Nat) : s.OnlyIssues (s.pumpCh ch n) := by
  induction n generalizing s with
  | zero => exact refl s
  | succ n ih =>
    unfold State.pumpCh
    split
    · exact refl s
    · rename_i h
      exact (grant h).trans (ih _)

theorem pump (s : State) : s.OnlyIssues s.pump := by
  unfold State.pump
  split
  · exact refl s
  · exact foldl (fun s ch => pumpCh s ch _) _ _

theorem carry (s : State) (cls : PktClass) (src dst : Nat × Nat) (bytes : Nat) : s.OnlyIssues (s.carry cls src dst bytes) := by
  unfold State.carry
  split
  · exact refl s
  · exact ⟨rfl, rfl, fun _ => rfl, fun a ha => ⟨a, ha, rfl⟩⟩

/-- A stop that accepts an access has it as its next one, not returned, and issues what it can. -/
theorem access_pumps (s : State) (o : FabOwner) (write near coh : Bool) (addr len : Nat) (data : List Byte) (part : Option Nat)
    (deadline : Option Word) (src : Nat) : ∃ t, s.access o write near coh addr len data part deadline src = t.pump ∧
      s.OnlyIssues t ∧ ∃ y ∈ t.fab.accs, y.no = s.fab.next ∧ y.owner = o ∧ y.write = write ∧ y.near = (near && s.cfg.nearPort) ∧
        y.addr = addr ∧ y.len = len ∧ y.data = data ∧ y.done = false := by
  refine ⟨_, rfl, (carry s ..).trans (of_fab _ fun a ha => ⟨a, List.mem_append_left _ ha, rfl⟩), _,
    List.mem_append_right _ (List.mem_singleton_self _), ?_, rfl, rfl, rfl, rfl, rfl, rfl, rfl⟩
  unfold State.carry
  dsimp only
  split <;> rfl

theorem access (s : State) (o : FabOwner) (write near coh : Bool) (addr len : Nat) (data : List Byte) (part : Option Nat)
    (deadline : Option Word) (src : Nat) : s.OnlyIssues (s.access o write near coh addr len data part deadline src) := by
  obtain ⟨t, e, h, -⟩ := access_pumps s o write near coh addr len data part deadline src
  exact e ▸ h.trans (pump t)

end State.OnlyIssues

/-- An accepted access is the stops' next one, and has not returned. -/
theorem State.access_accs (s : State) (o : FabOwner) (write near coh : Bool) (addr len : Nat) (data : List Byte) (part : Option Nat)
    (deadline : Option Word) (src : Nat) :
    ∃ y ∈ (s.access o write near coh addr len data part deadline src).fab.accs, y.no = s.fab.next ∧ y.owner = o ∧ y.write = write ∧
      y.near = (near && s.cfg.nearPort) ∧ y.addr = addr ∧ y.len = len ∧ y.data = data ∧ y.done = false := by
  obtain ⟨t, e, -, y, hy, h⟩ := OnlyIssues.access_pumps s o write near coh addr len data part deadline src
  obtain ⟨z, hz, hyz⟩ := (OnlyIssues.pump t).accs y hy
  exact ⟨z, e ▸ hz, by rw [hyz]; exact h⟩

theorem accesses_access (s : State) (o : FabOwner) (write near coh : Bool) (addr len : Nat) (data : List Byte) (part : Option Nat)
    (deadline : Option Word) (src : Nat) : Accesses s (s.access o write near coh addr len data part deadline src) o write
      (near && s.cfg.nearPort) addr len data := by
  obtain ⟨y, hy, hno, ho, hw, hn, ha, hl, hd, -⟩ := s.access_accs o write near coh addr len data part deadline src
  exact ⟨y, hy, hno, ho, hw, hn, ha, hl, hd⟩

/-- An accepted access is in the stops' list whatever they issue afterwards. -/
theorem accesses_of_onlyIssues {s t u : State} {o : FabOwner} {write near : Bool} {addr len : Nat} {data : List Byte}
    (h : Accesses s t o write near addr len data) (k : t.OnlyIssues u) : Accesses s u o write near addr len data := by
  obtain ⟨y, hy, h⟩ := h
  obtain ⟨z, hz, e⟩ := k.accs y hy
  exact ⟨z, hz, by rw [e]; exact h⟩

/-- Only the number of the stops' next access counts of the state before. -/
theorem accesses_of_next {s t u : State} {o : FabOwner} {write near : Bool} {addr len : Nat} {data : List Byte}
    (h : t.fab.next = s.fab.next) (k : Accesses t u o write near addr len data) : Accesses s u o write near addr len data := by
  unfold Accesses at *
  rwa [← h]

/-! ## Doorbells (R341, R342, R35, R45) -/

/-- A doorbell the port takes from a master it admits. -/
theorem State.bell_of_admitted {s : State} {p : Fin 8} {a : HostAcc} (hp : p.val < s.cfg.parts) (ho : s.portOpen = true)
    (ha : s.ctlAdmits p a = true) : s.bell p a = s.doorbell p a.size.toNat a.data := by
  simp [State.bell, ho, ha, Nat.not_le.mpr hp]

theorem State.doorbell_of_size {s : State} {p : Nat} {size : Nat} {d : DWord} (h : size ≠ 3) : s.doorbell p size d = s.dropBell p := by
  simp [State.doorbell, h]

/-- A doorbell that names a legal ring is presented to its partition. -/
theorem State.bell_of_rings {s : State} {p r : Fin 8} {a : HostAcc} (h : Rings s p r a) : s.bell p a = s.presentBell p a.data := by
  obtain ⟨hp, ho, hr, ha, hs, -⟩ := h
  rw [State.bell_of_admitted hp ho ha]
  simp [State.doorbell, hs, hr]

@[simp] theorem State.stamp_fst (s : State) : s.stamp.1 = s.grid.seq := rfl
@[simp] theorem State.stamp_snd (s : State) : s.stamp.2 = s.modGrid (fun g => { g with seq := g.seq + 1 }) := rfl

/-- A doorbell for a hot ring of its generation is stamped and becomes a hot one (R45). -/
theorem State.presentBell_of_hot {s : State} {p r : Fin 8} {a : HostAcc} (h : Rings s p r a) (hot : (s.ring p r).hot = true)
    (pin : (s.ring p r).unpin = false) (gen : (s.ring p r).pinnedGen = BitVec.ofNat 16 (fld 31 16 a.data.toNat))
    (run : s.runStopped p r = false) : s.presentBell p a.data =
      s.stamp.2.hotBell p r (BitVec.ofNat 32 (fld 63 32 a.data.toNat)) s.grid.seq := by
  obtain ⟨-, -, -, -, -, hscrub, hwatch, -, hring, -⟩ := h
  have hs : s.stamp.2.inScrub p = false := hscrub
  have hrun : s.stamp.2.runStopped p r = false := run
  have hw : ¬(s.stamp.2.grid.watch = .watch ∧ s.stamp.2.grid.watchPart ≠ p) := fun k => hwatch k.1
  unfold State.presentBell
  simp only [hring, hs, hrun, hot, pin, gen, hw, State.stamp_fst, if_false]
  simp only [Bool.not_false, Bool.and_self, decide_true, Bool.not_true, Bool.false_and, Bool.or_self, Bool.false_eq_true, if_false,
    if_true]

/-- A doorbell for an enabled ring that is not hot, of at most its size beyond its head, is stamped and queued (R35, R341). -/
theorem State.presentBell_of_cold {s : State} {p r : Fin 8} {a : HostAcc} (h : Rings s p r a) (cold : (s.ring p r).hot = false)
    (on : (s.ring p r).on = true)
    (fits : (BitVec.ofNat 32 (fld 63 32 a.data.toNat) - (s.ring p r).head).toNat ≤ 2 ^ (s.ring p r).k)
    (con : (s.part p).cringOn = true) : s.presentBell p a.data =
      s.stamp.2.queueBell p r (BitVec.ofNat 16 (fld 31 16 a.data.toNat)) (BitVec.ofNat 32 (fld 63 32 a.data.toNat)) s.grid.seq := by
  obtain ⟨-, -, -, -, -, hscrub, hwatch, hzero, hring, -⟩ := h
  have hs : s.stamp.2.inScrub p = false := hscrub
  have hw : ¬(s.stamp.2.grid.watch = .watch ∧ s.stamp.2.grid.watchPart ≠ p) := fun k => hwatch k.1
  have hcon : (s.stamp.2.part p).cringOn = true := con
  unfold State.presentBell
  simp only [hring, hs, hzero, cold, on, hw, hcon, State.stamp_fst, if_false, decide_eq_false (Nat.not_lt.mpr fits)]
  simp only [Bool.false_and, Bool.not_false, ne_eq, not_true_eq_false, decide_false, Bool.and_false, Bool.or_self,
    Bool.false_eq_true, if_false, Bool.not_true]

/-- What a queued doorbell with a new tail does: it restarts the ring's re-reads, updates the ring, and appends an entry to the dispatch
queue, which has none of the ring (R35, R344). -/
theorem State.queueBell_of_new {s : State} {p r : Nat} {gen : Half} {tail : Word} {seq : Nat} (ht : tail ≠ (s.ring p r).tail)
    (hd : ∀ e ∈ s.grid.disp, ¬(e.part = p ∧ e.ring = r)) : s.queueBell p r gen tail seq =
      (((s.modGrid (fun g => { g with fetches := g.fetches.map (fun f =>
          if f.part = p ∧ f.ring = r ∧ f.retrying then { f with tries := 0, nextTry := s.tick } else f) })).modRing p r
        (fun q => { q with gen := gen, tail := tail, bells := q.bells ++ [(tail, s.tick, seq)] })).modGrid
        (fun g => { g with disp := g.disp ++ [⟨p, r, s.tick, seq, false⟩] })) := by
  have hany : s.grid.disp.any (fun e => e.part = p && e.ring = r) = false := by simpa using hd
  have htick : ∀ (t : State) f, (t.modRing p r f).tick = t.tick := fun t f => congrArg Clock.tick (State.modPart_clk t p _)
  unfold State.queueBell
  simp only [ht, if_false, State.modRing_grid, State.modGrid_grid, hany, htick, Bool.false_eq_true]
  rfl

/-- What a hot doorbell does while fewer than 15 runs are pending. -/
theorem State.hotBell_of_room {s : State} {p r : Nat} {tail : Word} {seq : Nat} (h : (s.ring p r).pendingRuns.length < 15) :
    s.hotBell p r tail seq = s.modRing p r (fun q => { q with pendingRuns := q.pendingRuns ++ [(tail, s.tick, seq)] }) := by
  unfold State.hotBell
  exact if_pos (by split <;> omega)

theorem does_doorbell_of_eq {s u : State} {p : Fin 8} {a : HostAcc} {P : State → Prop} (h : s.bell p a = u) (hP : P u) :
    Does (.doorbell p a) s P := ⟨s.bell p a, rfl, h ▸ hP⟩

/-- The doorbell of a ring that has no entry (R35, R341). -/
theorem does_doorbell_queued {s : State} {p r : Fin 8} {a : HostAcc} (h : Rings s p r a) (cold : (s.ring p r).hot = false)
    (on : (s.ring p r).on = true)
    (fits : (BitVec.ofNat 32 (fld 63 32 a.data.toNat) - (s.ring p r).head).toNat ≤ 2 ^ (s.ring p r).k)
    (con : (s.part p).cringOn = true) (new : BitVec.ofNat 32 (fld 63 32 a.data.toNat) ≠ (s.ring p r).tail)
    (absent : ∀ e ∈ s.grid.disp, ¬(e.part = p.val ∧ e.ring = r.val)) : Does (.doorbell p a) s (fun u =>
      u.ring p r = { s.ring p r with
        gen := BitVec.ofNat 16 (fld 31 16 a.data.toNat), tail := BitVec.ofNat 32 (fld 63 32 a.data.toNat)
        bells := (s.ring p r).bells ++ [(BitVec.ofNat 32 (fld 63 32 a.data.toNat), s.tick, s.grid.seq)] } ∧
      u.grid.seq = s.grid.seq + 1 ∧ u.grid.disp = s.grid.disp ++ [⟨p, r, s.tick, s.grid.seq, false⟩] ∧ u.cores = s.cores ∧
      u.fab = s.fab) := by
  refine does_doorbell_of_eq
    ((State.bell_of_rings h).trans ((State.presentBell_of_cold h cold on fits con).trans (State.queueBell_of_new new absent))) ?_
  obtain ⟨-, -, -, -, -, -, -, -, -, hlen⟩ := h
  exact ⟨(State.ring_modGrid ..).trans (State.ring_modRing (s := s.stamp.2.modGrid _) _ hlen),
    (congrArg Grid.seq (State.modRing_grid ..)).trans rfl,
    (congrArg (fun g : Grid => g.disp ++ [_]) (State.modRing_grid ..)).trans rfl, State.modRing_cores .., State.modRing_fab ..⟩

/-- The doorbell of a hot ring of its generation (R45). -/
theorem does_doorbell_hot {s : State} {p r : Fin 8} {a : HostAcc} (h : Rings s p r a) (hot : (s.ring p r).hot = true)
    (pin : (s.ring p r).unpin = false) (gen : (s.ring p r).pinnedGen = BitVec.ofNat 16 (fld 31 16 a.data.toNat))
    (run : s.runStopped p r = false) (room : (s.ring p r).pendingRuns.length < 15) : Does (.doorbell p a) s (fun u =>
      u.ring p r = { s.ring p r with
        pendingRuns := (s.ring p r).pendingRuns ++ [(BitVec.ofNat 32 (fld 63 32 a.data.toNat), s.tick, s.grid.seq)] } ∧
      u.grid.disp = s.grid.disp) := by
  refine does_doorbell_of_eq
    ((State.bell_of_rings h).trans ((State.presentBell_of_hot h hot pin gen run).trans (State.hotBell_of_room room))) ?_
  obtain ⟨-, -, -, -, -, -, -, -, -, hlen⟩ := h
  exact ⟨State.ring_modRing _ hlen, by simp⟩

/-- A write to HST_DOORBELL that is no 8 B write (R342). -/
theorem does_doorbell_dropped {s : State} {p : Fin 8} {a : HostAcc} (hp : p.val < s.cfg.parts) (ho : s.portOpen = true)
    (ha : s.ctlAdmits p a = true) (hs : a.size ≠ 3#2) : Does (.doorbell p a) s (fun u =>
      u = s.dropBell p ∧ (u.part p).bellDrops = min 65535 ((s.part p).bellDrops + 1)) := by
  have hsize : a.size.toNat ≠ 3 := fun e => hs (BitVec.eq_of_toNat_eq e)
  refine does_doorbell_of_eq ((State.bell_of_admitted hp ho ha).trans (State.doorbell_of_size hsize)) ⟨rfl, ?_⟩
  simp [State.dropBell]

/-! ## Dispatch and re-reads (R36, R37, R344) -/

theorem State.onlyIssues_issueFetch (s : State) (p r : Nat) (pos : Word) : s.OnlyIssues (s.issueFetch p r pos) :=
  State.OnlyIssues.access ..

/-- The read of a descriptor is 128 B at its place in the ring. -/
theorem State.accesses_issueFetch (s : State) (p r : Nat) (pos : Word) : Accesses s (s.issueFetch p r pos) (.desc p r pos) false false
    ((s.ring p r).base + 128 * (pos.toNat % 2 ^ (s.ring p r).k)) 128 [] :=
  accesses_access ..

/-- While a descriptor is read, control core 0 is dispatching. -/
theorem State.dispatching_issueFetch (s : State) (p r : Nat) (pos : Word) : (s.issueFetch p r pos).dispatching = true := by
  obtain ⟨y, hy, -, ho, -, -, -, -, -, hd⟩ := s.access_accs (.desc p r pos) false false true
    ((s.ring p r).base + 128 * (pos.toNat % 2 ^ (s.ring p r).k)) 128 [] (some p) none 40
  have hout : (s.issueFetch p r pos).fetchesOut ≠ 0 := by
    unfold State.fetchesOut
    refine Nat.ne_of_gt (List.length_pos_of_mem (List.mem_filter.mpr ⟨hy, ?_⟩))
    simp [ho, hd]
  simp [State.dispatching, hout]

/-- The fetch that a dispatch of an entry of a ring begins. -/
def State.nextFetch (s : State) (e : DispEntry) : Fetch :=
  let q := s.ring e.part e.ring
  ⟨e.part, e.ring, q.head, (q.bellOf q.head (e.tick, e.seq)).1, (q.bellOf q.head (e.tick, e.seq)).2, 0, false, 0⟩

/-- A dispatch whose first entry can be served takes it; the entry goes to the back while its ring holds more. -/
theorem State.dispatchTake_of_first {s : State} {e : DispEntry} {rest : List DispEntry} (out : s.fetchesOut < 4)
    (hd : s.grid.disp = e :: rest) (held : e.held = false) (may : s.mayDispatch e.part = true) (free : s.barred e.part = false)
    (idle : s.ringFetches e.part e.ring = []) (work : (s.ring e.part e.ring).head ≠ (s.ring e.part e.ring).tail)
    (on : (s.ring e.part e.ring).on = true) : s.dispatchTake =
      (s.modGrid (fun g => { g with
        disp := if (s.ring e.part e.ring).head + 1#32 = (s.ring e.part e.ring).tail then rest else rest ++ [e]
        fetches := g.fetches ++ [s.nextFetch e] })).issueFetch e.part e.ring (s.ring e.part e.ring).head := by
  unfold State.dispatchTake
  rw [if_neg (Nat.not_le.mpr out), hd, List.find?_cons_of_pos (by simp [held, may, free, idle])]
  simp [idle, work, on, State.nextFetch]

/-- The dispatch of a first entry that can be served (R36, R37). -/
theorem does_dispatchTake {s : State} {p r : Fin 8} {e : DispEntry} {rest : List DispEntry} (duty : s.dutyOk 0 = true)
    (out : s.fetchesOut < 4) (hd : s.grid.disp = e :: rest) (hp : e.part = p.val) (hr : e.ring = r.val) (held : e.held = false)
    (may : s.mayDispatch p = true) (free : s.barred p = false) (idle : s.ringFetches p r = [])
    (work : (s.ring p r).head ≠ (s.ring p r).tail) (on : (s.ring p r).on = true) : Does .dispatchTake s (fun u =>
      u.grid.fetches = s.grid.fetches ++ [s.nextFetch e] ∧
      u.grid.disp = (if (s.ring p r).head + 1#32 = (s.ring p r).tail then rest else rest ++ [e]) ∧ u.dispatching = true ∧
      Accesses s u (.desc p r (s.ring p r).head) false false
        ((s.ring p r).base + 128 * ((s.ring p r).head.toNat % 2 ^ (s.ring p r).k)) 128 []) := by
  rw [← hp, ← hr] at *
  refine ⟨s.dispatchTake, congrArg _ (if_pos duty), ?_⟩
  rw [State.dispatchTake_of_first out hd held may free idle work on]
  exact ⟨(State.onlyIssues_issueFetch ..).fetches, (State.onlyIssues_issueFetch ..).disp, State.dispatching_issueFetch ..,
    accesses_of_next rfl (State.accesses_issueFetch (s.modGrid _) ..)⟩

/-- A re-read that is due (R344). -/
theorem does_descriptorReread {s : State} {p r : Fin 8} {f : Fetch} (duty : s.dutyOk 0 = true) (hf : s.grid.fetches = [f])
    (hp : f.part = p.val) (hr : f.ring = r.val) (again : f.retrying = true) (due : f.nextTry ≤ s.tick) (out : s.fetchesOut < 4)
    (unread : s.accsOf (.desc p r f.pos) = []) : Does (.descriptorReread p r) s (fun u =>
      u.grid.fetches = [{ f with tries := f.tries + 1 }] ∧
      Accesses s u (.desc p r f.pos) false false ((s.ring p r).base + 128 * (f.pos.toNat % 2 ^ (s.ring p r).k)) 128 []) := by
  refine ⟨s.reread p r, congrArg _ (if_pos duty), ?_⟩
  have hring : s.ringFetches p r = [f] := by simp [State.ringFetches, hf, hp, hr]
  have hre : s.reread p r =
      (s.modGrid (fun g => { g with fetches := [{ f with tries := f.tries + 1 }] })).issueFetch p r f.pos := by
    simp [State.reread, hring, again, unread, hf, State.modGrid, Nat.not_lt.mpr due, Nat.not_le.mpr out]
  rw [hre]
  exact ⟨(State.onlyIssues_issueFetch ..).fetches, accesses_of_next rfl (State.accesses_issueFetch (s.modGrid _) ..)⟩

/-! ## Records and refusals (R350, R353) -/

/-- From s to u records have been issued to their rings, and nothing of the rings of jobs, the dispatch or the cores has changed. -/
structure State.OnlyRecords (s u : State) : Prop where
  cores : u.cores = s.cores
  jobs : u.grid.jobs = s.grid.jobs
  fetches : u.grid.fetches = s.grid.fetches
  ring : ∀ p r, u.ring p r = s.ring p r
  records : ∀ x ∈ s.grid.records, ∃ y ∈ u.grid.records, y = { x with issued := y.issued }

namespace State.OnlyRecords

variable {s t u : State}

theorem refl (s : State) : s.OnlyRecords s := ⟨rfl, rfl, rfl, fun _ _ => rfl, fun x h => ⟨x, h, rfl⟩⟩

theorem trans (h : s.OnlyRecords t) (k : t.OnlyRecords u) : s.OnlyRecords u where
  cores := k.cores.trans h.cores
  jobs := k.jobs.trans h.jobs
  fetches := k.fetches.trans h.fetches
  ring p r := (k.ring p r).trans (h.ring p r)
  records x hx := by
    obtain ⟨y, hy, hxy⟩ := h.records x hx
    obtain ⟨z, hz, hyz⟩ := k.records y hy
    exact ⟨z, hz, by rw [hyz, hxy]⟩

theorem of_onlyIssues (h : s.OnlyIssues u) : s.OnlyRecords u :=
  ⟨h.cores, h.jobs, h.fetches, h.ring, fun x hx => ⟨x, h.records ▸ hx, rfl⟩⟩

/-- A record takes the number of its write. -/
theorem of_issued (s : State) (r : Record) (no : Nat) : s.OnlyRecords (s.modGrid (fun g => { g with
    records := g.records.map (fun x => if x = r then { x with issued := some no } else x) })) := by
  refine ⟨rfl, rfl, rfl, fun _ _ => rfl, fun x hx => ⟨_, List.mem_map_of_mem hx, ?_⟩⟩
  split <;> rfl

/-- A change of a partition that leaves its rings. -/
theorem of_modPart (s : State) (p : Nat) {f : Part → Part} (h : ∀ a : Part, (f a).rings = a.rings) : s.OnlyRecords (s.modPart p f) := by
  refine ⟨by simp, by simp, by simp, fun q r => ?_, fun x hx => ⟨x, by simpa using hx, rfl⟩⟩
  unfold State.ring
  rcases s.part_modPart_or p q f with e | e <;> simp [e, h]

theorem pumpRecords (s : State) (p n : Nat) : s.OnlyRecords (s.pumpRecords p n) := by
  induction n generalizing s with
  | zero => exact refl s
  | succ n ih =>
    unfold State.pumpRecords
    dsimp only
    split
    · exact refl s
    · split
      · exact refl s
      · refine trans ?_ (ih _)
        refine trans ?_ (of_onlyIssues (OnlyIssues.access ..))
        refine trans ?_ (of_modPart _ p fun _ => rfl)
        exact of_issued s _ _

end State.OnlyRecords

/-- A posted record is in the list, and nothing else of the jobs, the rings or the cores changes. -/
theorem State.post_frame (s : State) (x : Record) : (s.post x).cores = s.cores ∧ (s.post x).grid.jobs = s.grid.jobs ∧
    (s.post x).grid.fetches = s.grid.fetches ∧ (∀ p r, (s.post x).ring p r = s.ring p r) ∧
    ∃ y ∈ (s.post x).grid.records, y = { x with issued := y.issued } := by
  obtain ⟨hcores, hjobs, hfetches, hring, hrecords⟩ := State.OnlyRecords.pumpRecords
    (s.modGrid (fun g => { g with records := g.records ++ [x] })) x.part (s.grid.records.length + 1)
  exact ⟨hcores, hjobs, hfetches, hring, hrecords x (List.mem_append_right _ (List.mem_singleton_self x))⟩

@[simp] theorem State.headOn_cores (s : State) (p r : Nat) (stamp : Half) : (s.headOn p r stamp).cores = s.cores :=
  State.modRing_cores ..
@[simp] theorem State.headOn_jobs (s : State) (p r : Nat) (stamp : Half) : (s.headOn p r stamp).grid.jobs = s.grid.jobs := by
  simp [State.headOn]

/-- The next descriptor is the one behind; the stamp is the last one taken. -/
theorem State.ring_headOn {s : State} {p r : Fin 8} (stamp : Half) (h : (s.part p).rings.length = 8) :
    ((s.headOn p r stamp).ring p r).head = (s.ring p r).head + 1#32 ∧ ((s.headOn p r stamp).ring p r).stamp = stamp := by
  have e := State.ring_modRing (r := r) (fun q => { q with
    head := q.head + 1#32, stamp := stamp, retrying := false
    bells := q.bells.filter (fun b => 0 < (b.1 - (q.head + 1#32)).toInt) }) h
  exact ⟨congrArg Ring.head e, congrArg Ring.stamp e⟩

/-- The only fetch, of this ring, is over. -/
theorem State.headOn_fetches {s : State} {p r : Nat} {f : Fetch} (stamp : Half) (hf : s.grid.fetches = [f]) (hp : f.part = p)
    (hr : f.ring = r) : (s.headOn p r stamp).grid.fetches = [] := by
  simp [State.headOn, State.ringFetches, hf, hp, hr]

/-- The status a refusal's record carries (Table 10.6). -/
theorem State.status_refusalRecord (s : State) (p r : Nat) (d : List Byte) (stamp : Half) (pos : Word) (bell : Nat) {st : Nat}
    (hr : r < 8) (hst : st < 65536) : leAt (s.refusalRecord p r d stamp pos bell st).bytes 2 2 = st := by
  simp only [State.refusalRecord, List.append_assoc, leAt_upper_half]
  omega

/-- A refused descriptor is passed with its stamp, and a record of its status is posted; no job changes. -/
theorem State.refuse_frame {s : State} {p r : Fin 8} (d : List Byte) (bell : Nat) {st : Nat} (h : (s.part p).rings.length = 8)
    (hst : st < 65536) :
    ((s.refuse p r d bell st).ring p r).head = (s.ring p r).head + 1#32 ∧
    ((s.refuse p r d bell st).ring p r).stamp = BitVec.ofNat 16 (leAt d 0 2) ∧
    (s.refuse p r d bell st).grid.jobs = s.grid.jobs ∧
    (s.refuse p r d bell st).grid.fetches = (s.headOn p r (BitVec.ofNat 16 (leAt d 0 2))).grid.fetches ∧
    ∃ x ∈ (s.refuse p r d bell st).grid.records, x.part = p.val ∧ x.ring = r.val ∧ x.job = false ∧ leAt x.bytes 2 2 = st := by
  obtain ⟨hhead, hstamp⟩ := State.ring_headOn (r := r) (BitVec.ofNat 16 (leAt d 0 2)) h
  have hstatus := s.status_refusalRecord p r d (BitVec.ofNat 16 (leAt d 0 2)) (s.ring p r).head bell r.isLt hst
  obtain ⟨-, hjobs, hfetches, hring, y, hy, e⟩ :=
    (s.headOn p r (BitVec.ofNat 16 (leAt d 0 2))).post_frame
      (s.refusalRecord p r d (BitVec.ofNat 16 (leAt d 0 2)) (s.ring p r).head bell st)
  exact ⟨(congrArg Ring.head (hring p r)).trans hhead, (congrArg Ring.stamp (hring p r)).trans hstamp,
    hjobs.trans (State.headOn_jobs ..), hfetches, y, hy, by rw [e]; exact ⟨rfl, rfl, rfl, hstatus⟩⟩

/-- A refused job in admission is gone, its descriptor refused. -/
theorem State.refuseJob_frame {s : State} {p r : Fin 8} {j : Job} {st : Nat} {l : List Job} (hjobs : s.grid.jobs = l ++ [j])
    (new : j ∉ l) (hp : j.part = p.val) (hr : j.ring = r.val) (h : (s.part p).rings.length = 8) (hst : st < 65536) :
    (s.refuseJob j st).grid.jobs = l ∧ ((s.refuseJob j st).ring p r).head = (s.ring p r).head + 1#32 ∧
    ∃ x ∈ (s.refuseJob j st).grid.records, x.part = p.val ∧ x.ring = r.val ∧ leAt x.bytes 2 2 = st := by
  obtain ⟨hhead, -, hkept, -, x, hx, hxp, hxr, -, hxs⟩ := State.refuse_frame (r := r) j.desc j.bell
    (s := (s.voidReads (fun o => o.ofHead j.part j.ring)).modGrid (fun g => { g with jobs := g.jobs.erase j })) h hst
  have herase : (l ++ [j]).erase j = l := by rw [List.erase_append_right _ new]; simp
  unfold State.refuseJob
  rw [hp, hr] at *
  refine ⟨hkept.trans ?_, hhead, x, hx, hxp, hxr, hxs⟩
  exact (congrArg (List.erase · j) hjobs).trans herase

/-! ## The descriptor's job and its first read (R225, R337, R338) -/

/-- A descriptor that passes the checks names a core. -/
theorem State.mask_ne_zero_of_descStatus {s : State} {p r : Nat} {d : List Byte} (h : s.descStatus p r d = none) : leAt d 4 4 ≠ 0 := by
  intro hz
  simp only [State.descStatus, hz, true_or, if_true] at h
  split at h <;> cases h

/-- A mask field that is not 0 names a core. -/
theorem exists_core_of_mask {d : List Byte} (h : leAt d 4 4 ≠ 0) : ∃ c < 32, (leAt d 4 4).testBit c = true := by
  obtain ⟨c, hbit⟩ := Nat.exists_testBit_of_ne_zero h
  exact ⟨c, (Nat.pow_lt_pow_iff_right (show 1 < 2 by decide)).mp
    (Nat.lt_of_le_of_lt (Nat.ge_two_pow_of_testBit hbit) (leAt_lt d 4 4)), hbit⟩

/-- The job a descriptor becomes when it has passed checks 1 to 5; one image serves all its cores when flag 3 is set. -/
def State.jobOfDesc (s : State) (p r : Nat) (f : Fetch) (d : List Byte) : Job :=
  let one := (leAt d 2 2).testBit 3
  let j : Job :=
    { part := p, ring := r, kind := 0, desc := d, stamp := BitVec.ofNat 16 (leAt d 0 2), pos := f.pos, dpos := f.pos,
      phase := if one then .headers else .table, bell := f.tick, bellSeq := f.seq,
      multi := s.chainEntry p (leAt d 0x28 2), tStart := none, tFinal := 0, status := 0, stopCore := none,
      replays := 0, addrs := [], got := [], images := [], loads := [], ran := [], notices := [], numflags := 0, energy := 0,
      measured := false, silent := false, lost := false, opened := 0, resume := none, certTicks := 0 }
  if one then { j with addrs := j.coreList.map (fun _ => leAt d 8 6) } else j

/-- The length of the first read for a job: an image's header, or the table with 8 B per core. -/
def firstLen (d : List Byte) : Nat :=
  if (leAt d 2 2).testBit 3 then 128 else 8 * ((List.range 32).filter (fun c => (leAt d 4 4).testBit c)).length

theorem firstLen_pos {d : List Byte} (h : leAt d 4 4 ≠ 0) : 0 < firstLen d := by
  unfold firstLen
  split
  · decide
  · obtain ⟨c, hc, hbit⟩ := exists_core_of_mask h
    exact Nat.mul_pos (by decide) (List.length_pos_of_mem (List.mem_filter.mpr ⟨List.mem_range.mpr hc, hbit⟩))

theorem State.jobOfDesc_fields (s : State) (p r : Nat) (f : Fetch) (d : List Byte) :
    (s.jobOfDesc p r f d).part = p ∧ (s.jobOfDesc p r f d).ring = r ∧ (s.jobOfDesc p r f d).desc = d ∧
    (s.jobOfDesc p r f d).stamp = BitVec.ofNat 16 (leAt d 0 2) ∧ (s.jobOfDesc p r f d).status = 0 ∧
    (s.jobOfDesc p r f d).phase = (if (leAt d 2 2).testBit 3 then .headers else .table) ∧ (s.jobOfDesc p r f d).bell = f.tick := by
  unfold State.jobOfDesc
  dsimp only
  split <;> exact ⟨rfl, rfl, rfl, rfl, rfl, rfl, rfl⟩

/-- The first read for a job: from the engine address of its descriptor on. -/
theorem State.binRead_jobOfDesc (s : State) (p r : Nat) (f : Fetch) {d : List Byte} (h : leAt d 4 4 ≠ 0) :
    (s.jobOfDesc p r f d).binRead = some (leAt d 8 6, 0, firstLen d) := by
  unfold State.jobOfDesc firstLen Job.binRead
  by_cases one : (leAt d 2 2).testBit 3 = true
  · simp [one, headNext, Job.coreList, Job.has, exists_core_of_mask h]
  · simp only [one, Bool.false_eq_true, if_false, if_true]
    rfl

/-- A first read whose segment fails its check refuses the job. -/
theorem State.binStart_of_bad {s : State} {j : Job} {a o n st : Nat} (hread : j.binRead = some (a, o, n))
    (hseg : segStatus s.cfg.chartLog (segAt (s.part j.part).segs a) (eaOff a + o : Nat) ((eaOff a + o + n : Nat) - 1) = some st) :
    s.binStart j = s.refuseJob j st := by
  simp only [State.binStart, hread, hseg]

/-- The Chart region's port is the near-memory port only where there is one. -/
theorem State.chartLine_near (s : State) (l : Nat) : ((s.chartLine l).2 && s.cfg.nearPort) = (s.chartLine l).2 := by
  simp [State.chartLine, Bool.and_assoc]

/-- The read of a Chart line for a job's pages. -/
def State.readLine (s : State) (j : Job) (l : Nat) : State :=
  s.access (.entries j.part j.ring) false (s.chartLine l).2 false (s.chartLine l).1 64 [] (some j.part) none 40

theorem State.onlyIssues_readLine (s : State) (j : Job) (l : Nat) : s.OnlyIssues (s.readLine j l) := State.OnlyIssues.access ..

theorem State.accesses_readLine (s : State) (j : Job) (l : Nat) :
    Accesses s (s.readLine j l) (.entries j.part j.ring) false (s.chartLine l).2 (s.chartLine l).1 64 [] := by
  have h := accesses_access s (.entries j.part j.ring) false (s.chartLine l).2 false (s.chartLine l).1 64 [] (some j.part) none 40
  rwa [State.chartLine_near] at h

/-- A first read whose segment passes reads the Chart lines of its pages, its first page's first, and changes nothing else. -/
theorem State.binStart_of_ok {s : State} {j : Job} {a o n : Nat} (hread : j.binRead = some (a, o, n)) (hn : 0 < n)
    (hseg : segStatus s.cfg.chartLog (segAt (s.part j.part).segs a) (eaOff a + o : Nat) ((eaOff a + o + n : Nat) - 1) = none)
    (near : (segAt (s.part j.part).segs a).remote = false) :
    s.OnlyIssues (s.binStart j) ∧
    let line := s.chartLine (((segAt (s.part j.part).segs a).chartBase + (eaOff a + o) / 65536) / 16)
    Accesses s (s.binStart j) (.entries j.part j.ring) false line.2 line.1 64 [] := by
  obtain ⟨i, hi⟩ : ∃ i, (segAt (s.part j.part).segs a).chartBase + (eaOff a + o) / 65536 = i := ⟨_, rfl⟩
  obtain ⟨k, hk⟩ : ∃ k, (segAt (s.part j.part).segs a).chartBase + (eaOff a + o + n - 1) / 65536 = k := ⟨_, rfl⟩
  have hik : i / 16 ≤ k / 16 := by omega
  rw [hi]
  have hstart : s.binStart j = (List.range (k / 16 + 1 - i / 16)).foldl (fun s d => s.readLine j (i / 16 + d)) s := by
    simp only [State.binStart, hread, hseg, near, hi, hk]
    rfl
  have hlines := State.OnlyIssues.foldl (fun s d => State.onlyIssues_readLine s j (i / 16 + d))
  obtain ⟨m, hm⟩ : ∃ m, k / 16 + 1 - i / 16 = m + 1 := ⟨k / 16 - i / 16, by omega⟩
  refine ⟨hstart ▸ hlines _ s, ?_⟩
  rw [hstart, hm, List.range_succ_eq_map, List.foldl_cons]
  exact accesses_of_onlyIssues (s.accesses_readLine j (i / 16)) (hlines _ _)

/-! ## A fetched descriptor (R337, R343, R344) -/

/-- The only fetch, of ring r of partition p, has brought the descriptor d, and control core 0 may work on it. -/
structure State.Fetched (s : State) (p r : Fin 8) (f : Fetch) (d : List Byte) : Prop where
  only : s.grid.fetches = [f]
  part : f.part = p.val
  ring : f.ring = r.val
  free : s.barred p = false
  enabled : (s.part p).enable = true
  noOpen : s.openJob = none
  done : s.accsDone (.desc p r f.pos) = true
  data : s.accsData (.desc p r f.pos) = d

/-- A descriptor is current for its ring (R343). -/
abbrev State.currentAt (s : State) (p r : Nat) (d : List Byte) : Bool :=
  descCurrent (BitVec.ofNat 16 (leAt d 0 2)) (s.ring p r).gen (s.ring p r).stamp (s.ring p r).head (s.ring p r).tail

/-- The segment of the first read for a job. -/
abbrev State.firstSeg (s : State) (p : Nat) (d : List Byte) : Seg := segAt (s.part p).segs (leAt d 8 6)

/-- The check of that segment. -/
abbrev State.firstStatus (s : State) (p : Nat) (d : List Byte) : Option Nat :=
  segStatus s.cfg.chartLog (s.firstSeg p d) (eaOff (leAt d 8 6) : Nat) ((eaOff (leAt d 8 6) + firstLen d : Nat) - 1)

/-- The state in which a descriptor that has passed the checks is a job, its first read not begun. -/
def State.admitting (s : State) (p r : Nat) (f : Fetch) (d : List Byte) : State :=
  ((s.dropAccs (.desc p r f.pos)).modRing p r (fun q => { q with retrying := false })).modGrid
    (fun g => { g with jobs := g.jobs ++ [s.jobOfDesc p r f d] })

theorem State.ring_dropAccs (s : State) (o : FabOwner) (p r : Nat) : (s.dropAccs o).ring p r = s.ring p r := rfl
theorem State.descStatus_dropAccs (s : State) (o : FabOwner) (p r : Nat) (d : List Byte) :
    (s.dropAccs o).descStatus p r d = s.descStatus p r d := rfl

section
variable (s : State) (p r : Fin 8) (f : Fetch) (d : List Byte)

theorem State.admitting_jobs : (s.admitting p r f d).grid.jobs = s.grid.jobs ++ [s.jobOfDesc p r f d] := by
  simp only [State.admitting, State.modGrid_grid, State.modRing_grid]
  rfl

theorem State.admitting_cores : (s.admitting p r f d).cores = s.cores := State.modRing_cores ..
theorem State.admitting_cfg : (s.admitting p r f d).cfg = s.cfg := State.modRing_cfg ..
theorem State.admitting_next : (s.admitting p r f d).fab.next = s.fab.next := by
  simp only [State.admitting, State.modGrid_fab, State.modRing_fab]
  rfl
theorem State.admitting_chartLine (l : Nat) : (s.admitting p r f d).chartLine l = s.chartLine l := by
  simp only [State.admitting, State.chartLine, State.modGrid_cht, State.modRing_cht, State.modGrid_cfg, State.modRing_cfg]
  rfl

theorem State.admitting_part : (s.admitting p r f d).part p =
    { s.part p with rings := modAt (s.part p).rings r (fun q => { q with retrying := false }) } :=
  State.part_modRing (s.dropAccs _) ..

theorem State.admitting_head (hlen : (s.part p).rings.length = 8) :
    ((s.admitting p r f d).ring p r).head = (s.ring p r).head := by
  rw [State.admitting, State.ring_modGrid, State.ring_modRing (s := s.dropAccs (.desc p r f.pos)) _ hlen]
  rfl

end

namespace State.Fetched

variable {s : State} {p r : Fin 8} {f : Fetch} {d : List Byte}

theorem ringFetches (h : s.Fetched p r f d) : (s.ringFetches p r).head? = some f := by
  simp [State.ringFetches, h.only, h.part, h.ring]

/-- The job of the descriptor is none of those there are: none of them is in the reading of its images. -/
theorem new (h : s.Fetched p r f d) : s.jobOfDesc p r f d ∉ s.grid.jobs := by
  intro hj
  have hopen := List.find?_eq_none.mp h.noOpen _ hj
  obtain ⟨-, -, -, -, -, hphase, -⟩ := s.jobOfDesc_fields p r f d
  rw [hphase] at hopen
  split at hopen <;> simp at hopen

/-- A descriptor that is not current stays to be read again (R343, R344). -/
theorem fetchReturn_of_stale (h : s.Fetched p r f d) (tries : f.tries < 64) (stale : s.currentAt p r d = false) :
    s.fetchReturn p r =
      ((s.dropAccs (.desc p r f.pos)).modGrid (fun g => { g with fetches := g.fetches.map (fun x => if x = f then
        { f with retrying := true, nextTry := if f.retrying then f.nextTry + 100 else s.tick + 100 } else x) })).modRing p r
        (fun q => { q with retrying := true }) := by
  unfold State.fetchReturn
  rw [h.ringFetches]
  simp only [h.data, h.done, h.free, h.enabled, h.noOpen, State.ring_dropAccs, stale, Nat.not_le.mpr tries]
  rfl

/-- A current descriptor that fails a check is refused (R338). -/
theorem fetchReturn_of_bad (h : s.Fetched p r f d) {st : Nat} (current : s.currentAt p r d = true)
    (bad : s.descStatus p r d = some st) : s.fetchReturn p r = (s.dropAccs (.desc p r f.pos)).refuse p r d f.tick st := by
  unfold State.fetchReturn
  rw [h.ringFetches]
  simp only [h.data, h.done, h.free, h.enabled, h.noOpen, State.ring_dropAccs, current, State.descStatus_dropAccs, bad]
  rfl

/-- A current descriptor that passes the checks becomes a job, and the first read for it starts (R337). -/
theorem fetchReturn_of_ok (h : s.Fetched p r f d) (current : s.currentAt p r d = true) (ok : s.descStatus p r d = none) :
    s.fetchReturn p r = (s.admitting p r f d).binStart (s.jobOfDesc p r f d) := by
  unfold State.fetchReturn
  rw [h.ringFetches]
  simp only [h.data, h.done, h.free, h.enabled, h.noOpen, State.ring_dropAccs, current, State.descStatus_dropAccs, ok]
  rfl

/-- A stale descriptor is due again 1 µs on, its ring's head where it was (R343, R344). -/
theorem does_of_stale (h : s.Fetched p r f d) (duty : s.dutyOk 0 = true) (hlen : (s.part p).rings.length = 8) (tries : f.tries < 64)
    (stale : s.currentAt p r d = false) : Does (.descriptorFetchReturn p r) s (fun u =>
      u.grid.fetches = [{ f with retrying := true, nextTry := if f.retrying then f.nextTry + 100 else s.tick + 100 }] ∧
      u.grid.jobs = s.grid.jobs ∧ (u.ring p r).head = (s.ring p r).head) := by
  refine ⟨s.fetchReturn p r, congrArg _ (if_pos duty), ?_⟩
  rw [h.fetchReturn_of_stale tries stale]
  have honly : (s.dropAccs (.desc p r f.pos)).grid.fetches = [f] := h.only
  refine ⟨by simp [honly], (congrArg Grid.jobs (State.modRing_grid ..)).trans rfl, ?_⟩
  rw [State.ring_modRing (s := (s.dropAccs (.desc p r f.pos)).modGrid _) _ hlen]
  rfl

/-- A descriptor that fails a check is passed, and its record carries the status (R338, R353). -/
theorem does_of_bad (h : s.Fetched p r f d) (duty : s.dutyOk 0 = true) (hlen : (s.part p).rings.length = 8) {st : Nat}
    (current : s.currentAt p r d = true) (bad : s.descStatus p r d = some st) (hst : st < 65536) :
    Does (.descriptorFetchReturn p r) s (fun u =>
      (u.ring p r).head = (s.ring p r).head + 1#32 ∧ (u.ring p r).stamp = BitVec.ofNat 16 (leAt d 0 2) ∧
      u.grid.fetches = [] ∧ u.grid.jobs = s.grid.jobs ∧
      ∃ x ∈ u.grid.records, x.part = p.val ∧ x.ring = r.val ∧ x.job = false ∧ leAt x.bytes 2 2 = st) := by
  refine ⟨s.fetchReturn p r, congrArg _ (if_pos duty), ?_⟩
  rw [h.fetchReturn_of_bad current bad]
  obtain ⟨hhead, hstamp, hjobs, hfetches, hrecord⟩ := State.refuse_frame (s := s.dropAccs (.desc p r f.pos)) (r := r) d f.tick hlen hst
  exact ⟨hhead, hstamp, hfetches.trans (State.headOn_fetches _ h.only h.part h.ring), hjobs, hrecord⟩

/-- A descriptor whose first read may start becomes a job, and the Chart line of the read's first page is read (R337). -/
theorem does_of_ok (h : s.Fetched p r f d) (duty : s.dutyOk 0 = true) (current : s.currentAt p r d = true)
    (ok : s.descStatus p r d = none) (seg : s.firstStatus p d = none) (near : (s.firstSeg p d).remote = false) :
    Does (.descriptorFetchReturn p r) s (fun u =>
      u.grid.jobs = s.grid.jobs ++ [s.jobOfDesc p r f d] ∧ u.cores = s.cores ∧
      let line := s.chartLine (((s.firstSeg p d).chartBase + eaOff (leAt d 8 6) / 65536) / 16)
      Accesses s u (.entries p r) false line.2 line.1 64 []) := by
  have hmask := State.mask_ne_zero_of_descStatus ok
  obtain ⟨hpart, hring, -⟩ := s.jobOfDesc_fields p r f d
  obtain ⟨hissues, haccess⟩ := State.binStart_of_ok (s := s.admitting p r f d) (s.binRead_jobOfDesc p r f hmask) (firstLen_pos hmask)
    (by rw [hpart, State.admitting_part, State.admitting_cfg]; exact seg) (by rw [hpart, State.admitting_part]; exact near)
  rw [hpart, hring, State.admitting_part, State.admitting_chartLine] at haccess
  refine ⟨s.fetchReturn p r, congrArg _ (if_pos duty), ?_⟩
  rw [h.fetchReturn_of_ok current ok]
  exact ⟨hissues.jobs.trans (State.admitting_jobs ..), hissues.cores.trans (State.admitting_cores ..),
    accesses_of_next (State.admitting_next ..) haccess⟩

/-- A descriptor whose first read fails its segment's check is refused, and no job is left (R337, R353). -/
theorem does_of_bad_segment (h : s.Fetched p r f d) (duty : s.dutyOk 0 = true) (hlen : (s.part p).rings.length = 8) {st : Nat}
    (current : s.currentAt p r d = true) (ok : s.descStatus p r d = none) (seg : s.firstStatus p d = some st) (hst : st < 65536) :
    Does (.descriptorFetchReturn p r) s (fun u =>
      u.grid.jobs = s.grid.jobs ∧ (u.ring p r).head = (s.ring p r).head + 1#32 ∧
      ∃ x ∈ u.grid.records, x.part = p.val ∧ x.ring = r.val ∧ leAt x.bytes 2 2 = st) := by
  have hmask := State.mask_ne_zero_of_descStatus ok
  obtain ⟨hpart, hring, -⟩ := s.jobOfDesc_fields p r f d
  have hstart := State.binStart_of_bad (s := s.admitting p r f d) (st := st) (s.binRead_jobOfDesc p r f hmask)
    (by rw [hpart, State.admitting_part, State.admitting_cfg]; exact seg)
  obtain ⟨hjobs, hhead, hrecord⟩ := State.refuseJob_frame (s := s.admitting p r f d) (State.admitting_jobs s p r f d) h.new hpart hring
    (by rw [State.admitting_part, length_modAt]; exact hlen) hst
  refine ⟨s.fetchReturn p r, congrArg _ (if_pos duty), ?_⟩
  rw [h.fetchReturn_of_ok current ok, hstart]
  exact ⟨hjobs, hhead.trans (congrArg (· + 1#32) (State.admitting_head s p r f d hlen)), hrecord⟩

end State.Fetched

/-! ## The statement -/

/-- Settles O39: it holds. A doorbell is queued, joins a hot ring's runs or is dropped; a dispatch reads a descriptor; what the read
brought is refused, becomes a job, or is read again. -/
theorem doorbellsAreQueuedAndDispatched : Obligations.DoorbellsAreQueuedAndDispatched := by
  intro s p r a
  refine ⟨does_doorbell_queued, does_doorbell_hot, does_doorbell_dropped, ?dispatch, ?fetched, fun _ => does_descriptorReread⟩
  case dispatch =>
    intro duty out e rest hd hp hr held may free idle work on
    have h := does_dispatchTake duty out hd hp hr held may free idle work on
    simpa only [State.nextFetch, hp, hr] using h
  case fetched =>
    intro f duty only part ring free enabled noOpen done hlen d stamp
    have h : s.Fetched p r f d := ⟨only, part, ring, free, enabled, noOpen, done, rfl⟩
    refine ⟨fun _ => h.does_of_bad duty hlen, fun current ok => ⟨fun seg near => ?_, ?_⟩,
      fun stale tries => h.does_of_stale duty hlen tries stale⟩
    · obtain ⟨u, hu, hjobs, hcores, haccess⟩ := h.does_of_ok duty current ok seg near
      obtain ⟨hpart, hring, hdesc, hstamp, hstatus, hphase, hbell⟩ := s.jobOfDesc_fields p r f d
      exact ⟨u, hu, ⟨_, hjobs, hpart, hring, hdesc, hstamp, hstatus, hphase, hbell⟩, hcores, haccess⟩
    · exact fun _ => h.does_of_bad_segment duty hlen current ok

end Sys2Proof.Machine
end

section
/-! SUPPORT. The instructions on tasks: the stop an instruction makes, the task that task.decl declares and the core that a task
leaves by task.yield or task.end (R52, R215, R216, R220, R221). -/

namespace Sys2Proof.Machine

/-! ## A stop made by an instruction (R52) -/

/-- A change of one core that keeps stops keeps every core's stop. -/
theorem State.stop_modCore {f : Core → Core} (hf : ∀ q, (f q).seq.stop = q.seq.stop) (s : State) (d : Nat) (c : Fin 32) :
    ((s.modCore d f).core c).seq.stop = (s.core c).seq.stop := by
  by_cases hd : d < 32
  · obtain ⟨d, rfl⟩ : ∃ e : Fin 32, e.val = d := ⟨⟨d, hd⟩, rfl⟩
    by_cases h : c = d
    · rw [h, State.core_modCore, hf]
    · rw [State.core_modCore_ne _ _ _ _ h]
  · simp [State.modCore, hd]

theorem State.stop_foldl_modCore {f : Core → Core} (hf : ∀ q, (f q).seq.stop = q.seq.stop) (s : State) (l : List Nat)
    (c : Fin 32) : ((l.foldl (fun s d => s.modCore d f) s).core c).seq.stop = (s.core c).seq.stop := by
  induction l generalizing s with
  | nil => rfl
  | cons d l ih => exact (ih _).trans (State.stop_modCore hf s d c)

@[simp] theorem State.core_modJobOf (s : State) (c d : Nat) (f : Job → Job) : (s.modJobOf c f).core d = s.core d := by
  unfold State.modJobOf
  split <;> rfl

/-- Carrying a stop to the job changes no core's own stop. -/
theorem State.stop_jobStopped (s : State) (c : Nat) (st : Nat) (d : Fin 32) :
    ((s.jobStopped c st).core d).seq.stop = (s.core d).seq.stop := by
  unfold State.jobStopped
  split
  · rfl
  · dsimp only
    rw [State.stop_foldl_modCore (fun _ => by rfl)]
    split
    · rw [State.core_modJobOf]
    · rfl

/-- After a step of a core its stop is the one the step made. -/
theorem State.stop_onCore (s : State) (c : Fin 32) (F : Core → Core) :
    ((s.onCore c F).core c).seq.stop = (F (s.core c)).seq.stop := by
  unfold State.onCore
  dsimp only
  split
  · rw [State.stop_jobStopped, State.core_modCore]
  · rw [State.core_modCore]

/-- An instruction that stops its core. -/
theorem does_of_stopAt {i : Instr} {s : State} {c : Fin 32} {F : Core → Core} {q : Core} {t : Fin 4} {st : Nat}
    (hi : exec i s = .next (s.onCore c F)) (hF : F (s.core c) = q.stopAt t st) :
    Does i s (fun u => (u.core c).seq.stop = some st) :=
  ⟨_, hi, (s.stop_onCore c F).trans (congrArg (fun r : Core => r.seq.stop) hF)⟩

/-! ## What the end of an instruction leaves unchanged -/

@[simp] theorem Core.tile_spend (q : Core) (n m : Nat) : (q.spend n m).tile = q.tile := rfl
@[simp] theorem Core.tile_setTask (q : Core) (t : Fin 4) (k : Task) : (q.setTask t k).tile = q.tile := rfl
@[simp] theorem Core.tile_done (q : Core) (t : Fin 4) : (q.done t).tile = q.tile := rfl

@[simp] theorem Core.tile_switchFrom (q : Core) (t : Fin 4) : (q.switchFrom t).tile = q.tile := by
  rw [(Core.switchFrom_rest q t).1]

@[simp] theorem Core.seq_spend_running (q : Core) (n m : Nat) : (q.spend n m).seq.running = q.seq.running := rfl
@[simp] theorem Core.seq_done_running (q : Core) (t : Fin 4) : (q.done t).seq.running = q.seq.running := rfl

/-- An instruction with no stall that ends at once changes only its task's pc and loops, and the sequencer's counts. -/
theorem taskFrame_done (q : Core) (t : Fin 4) : TaskFrame q ((q.spend 0 0).done t) t [] [] := by
  refine ⟨rfl, rfl, fun v hv => Core.task_done_ne _ _ _ hv, ?_⟩
  rw [Core.task_done]
  exact ⟨fun _ _ => rfl, fun _ _ => rfl, rfl, rfl, rfl⟩

/-- The end of an instruction takes its task to the next one. -/
theorem nextPc_done {q r : Core} {t : Fin 4} (h : r.task t = q.task t) : NextPc q (r.done t) t := by
  rw [NextPc, Core.task_done, h]
  exact ⟨rfl, rfl⟩

/-! ## task.decl (R215) -/

/-- A task as task k declares it: ready at its entry, with copies of s0 to s3, and the releases it still holds. -/
def Task.declared (k : Task) (entry : Nat) (rels : List Wpt) : Task :=
  { Task.idle0 with
    pc := entry
    s := (((Task.idle0.s.set 0 k.s[0]).set 1 k.s[1]).set 2 k.s[2]).set 3 k.s[3]
    st := .ready
    rels := rels }

theorem Task.reg_declared (k : Task) (entry : Nat) (rels : List Wpt) (n : BitVec 5) :
    (k.declared entry rels).reg n = if n.toNat < 4 then k.reg n else 0#32 := by
  have hn := n.isLt
  simp only [Task.reg, Task.declared, Task.idle0]
  by_cases h : n.toNat < 4
  · obtain h | h | h | h : n.toNat = 0 ∨ n.toNat = 1 ∨ n.toNat = 2 ∨ n.toNat = 3 := by omega
    all_goals simp [h]
  · simp only [if_neg h, Vector.getElem_set, Vector.getElem_replicate]
    iterate 4 rw [if_neg (by omega)]

theorem Task.pred_declared (k : Task) (entry : Nat) (rels : List Wpt) {n : BitVec 3} (hn : n ≠ 0#3) :
    (k.declared entry rels).pred n = false := by
  simp [Task.pred, Task.declared, Task.idle0, hn]

/-- A word that names a task in x and uses neither rd nor rb is a legal task.decl (R199). -/
theorem Fields.unused_of_task {f : Fields} {v : Fin 4} (hrd : f.rd = 0#5) (hrb : f.rb = 0#5) (hx : f.x.toNat = v.val) :
    Fields.unused false true false true 3 f = true := by
  have hmask : ∀ v : Fin 4, v.val &&& 4 = 0 := by decide
  simp [Fields.unused, hrd, hrb, hx, hmask]

section
variable {q : Core} {t v : Fin 4} {f : Fields} (h : Issues q t f [f.ra, 0#5, 1#5, 2#5, 3#5]) (hrd : f.rd = 0#5)
  (hrb : f.rb = 0#5) (hx : f.x.toNat = v.val)
include h hrd hrb hx

/-- What a task.decl of task v that issues does. -/
theorem Core.taskDecl_of_issues : q.taskDecl f = if (q.task v).st ≠ .idle then (q.spend 0 0).stopAt t 0x0307
    else ((q.spend 0 0).setTask v ((q.task t).declared (f.addr (q.task t)).toNat (q.task v).rels)).done t := by
  have hv : (⟨f.x.toNat % 4, Nat.mod_lt _ (by decide)⟩ : Fin 4) = v := Fin.ext (by simp [hx])
  unfold Core.taskDecl
  rw [illegalUnless_true (Fields.unused_of_task hrd hrb hx), Core.issue_of_issues h, hv]
  rfl

end

/-! ## A task that leaves the running state (R216, R220, R221) -/

/-- Task t has issued an instruction that takes it to the state x; no other task runs yet. -/
def Core.left (q : Core) (t : Fin 4) (x : TaskState) : Core := (q.done t).modTask t (fun k => { k with st := x })

/-- The first ready task after t, else t if it is ready itself. -/
theorem Core.nextReady_eq_or (q : Core) (t : Fin 4) : q.nextReady t =
    ([t + 1, t + 2, t + 3].find? (fun w => (q.task w).st = .ready)).or (if (q.task t).st = .ready then some t else none) := by
  have hlist : [t + 1, t + 2, t + 3, t] = [t + 1, t + 2, t + 3] ++ [t] := rfl
  rw [Core.nextReady, hlist, List.find?_append]
  by_cases h : (q.task t).st = .ready <;> simp [h]

theorem ne_of_mem_later : ∀ t : Fin 4, ∀ w ∈ [t + 1, t + 2, t + 3], w ≠ t := by decide

section
variable (q : Core) (t : Fin 4) (x : TaskState)

@[simp] theorem Core.task_left : (q.left t x).task t = { (q.task t).advance with st := x } := by
  rw [Core.left, Core.task_modTask, Core.task_done]

@[simp] theorem Core.seq_left_stop : (q.left t x).seq.stop = q.seq.stop := rfl
@[simp] theorem Core.tile_left : (q.left t x).tile = q.tile := rfl

theorem Core.task_left_ne {v : Fin 4} (h : v ≠ t) : (q.left t x).task v = q.task v := by
  rw [Core.left, Core.task_modTask_ne _ _ _ _ h, Core.task_done_ne _ _ _ h]

@[simp] theorem Core.reg_left (v : Fin 4) (n : BitVec 5) : ((q.left t x).task v).reg n = (q.task v).reg n := by
  by_cases h : v = t
  · subst h
    rw [Core.task_left]
    rfl
  · rw [Core.task_left_ne q t x h]

theorem Core.nextReady_left : (q.left t x).nextReady t =
    ([t + 1, t + 2, t + 3].find? (fun w => (q.task w).st = .ready)).or (if x = .ready then some t else none) := by
  have hothers : [t + 1, t + 2, t + 3].find? (fun w => ((q.left t x).task w).st = .ready) =
      [t + 1, t + 2, t + 3].find? (fun w => (q.task w).st = .ready) := by
    have hkept : ∀ w ∈ [t + 1, t + 2, t + 3], (q.left t x).task w = q.task w :=
      fun w hw => Core.task_left_ne q t x (ne_of_mem_later t w hw)
    simp only [List.forall_mem_cons] at hkept
    obtain ⟨h1, h2, h3, -⟩ := hkept
    simp only [List.find?_cons, List.find?_nil, h1, h2, h3]
  rw [Core.nextReady_eq_or, hothers, Core.task_left]

/-- After the switch the task is as its instruction left it, unless it is the one that runs. -/
theorem Core.switchFrom_left (h : (q.left t x).nextReady t ≠ some t) :
    ((q.left t x).switchFrom t).task t = { (q.task t).advance with st := x } := by
  rw [Core.switchFrom_task, if_neg h, Core.task_left]

end

/-- A word whose operand fields are all 0 is legal for an instruction without operands (R199). -/
theorem Fields.unused_of_zero {f : Fields} (hrd : f.rd = 0#5) (hra : f.ra = 0#5) (hrb : f.rb = 0#5) (hx : f.x = 0#3)
    (himm : f.imm = 0#32) : Fields.unused false false false false 0 f = true := by
  simp [Fields.unused, hrd, hra, hrb, hx, himm]

section
variable {q : Core} {t : Fin 4} {f : Fields} (h : Issues q t f []) (hrd : f.rd = 0#5) (hra : f.ra = 0#5) (hrb : f.rb = 0#5)
  (hx : f.x = 0#3) (himm : f.imm = 0#32)
include h hrd hra hrb hx himm

/-- What a task.yield that issues does. -/
theorem Core.taskYield_of_issues : q.taskYield f =
    if (∃ w, w ≠ t ∧ (q.task w).st = .ready) then ((q.spend 0 0).left t .ready).switchFrom t else (q.spend 0 0).done t := by
  have hother : (List.finRange 4).any (fun u => u ≠ t && (((q.spend 0 0).done t).task u).st = .ready) =
      decide (∃ w, w ≠ t ∧ (q.task w).st = .ready) := by
    rw [Bool.eq_iff_iff]
    simp only [List.any_eq_true, List.mem_finRange, true_and, Bool.and_eq_true, decide_eq_true_eq]
    refine exists_congr fun w => and_congr_right fun hw => ?_
    rw [Core.task_done_ne _ _ _ hw, Core.task_spend]
  unfold Core.taskYield
  rw [illegalUnless_true (Fields.unused_of_zero hrd hra hrb hx himm), Core.issue_of_issues h]
  simp only [hother, decide_eq_true_eq]
  rfl

/-- What a task.end that issues does. -/
theorem Core.taskEnd_of_issues : q.taskEnd f =
    if t = 0 then (q.spend 0 0).stopAt t 0x0307 else ((q.spend 0 0).left t .idle).switchFrom t := by
  unfold Core.taskEnd
  rw [illegalUnless_true (Fields.unused_of_zero hrd hra hrb hx himm), Core.issue_of_issues h]
  rfl

end

/-! ## The statement -/

theorem exec_taskDecl (c : Fin 32) (f : Fields) (s : State) :
    exec (.taskDecl c f) s = .next (s.onCore c (fun q => q.taskDecl f)) := rfl

theorem exec_taskYield (c : Fin 32) (f : Fields) (s : State) :
    exec (.taskYield c f) s = .next (s.onCore c (fun q => q.taskYield f)) := rfl

theorem exec_taskEnd (c : Fin 32) (f : Fields) (s : State) :
    exec (.taskEnd c f) s = .next (s.onCore c (fun q => q.taskEnd f)) := rfl

section
variable {s : State} {c : Fin 32} {t : Fin 4} {f : Fields}

/-- A task.decl of an idle task makes it ready; the declaring task goes on, and the other two are as they were (R215). -/
theorem does_taskDecl_of_idle {v : Fin 4} (h : Issues (s.core c) t f [f.ra, 0#5, 1#5, 2#5, 3#5]) (hrd : f.rd = 0#5)
    (hrb : f.rb = 0#5) (hx : f.x.toNat = v.val) (hv : v ≠ t) (idle : ((s.core c).task v).st = .idle) :
    Does (.taskDecl c f) s (fun u => OnlyCore s u c ∧ NextPc (s.core c) (u.core c) t ∧
      (u.core c).task v = ((s.core c).task t).declared (f.addr ((s.core c).task t)).toNat ((s.core c).task v).rels ∧
      (∀ w, w ≠ t → w ≠ v → (u.core c).task w = (s.core c).task w) ∧ (u.core c).tile = (s.core c).tile) := by
  have heff := Core.taskDecl_of_issues h hrd hrb hx
  rw [if_neg (fun busy => busy idle)] at heff
  refine does_of_core (exec_taskDecl c f s) heff ?stop fun u honly hu => ⟨honly, ?_⟩
  case stop => rw [Core.seq_done_stop, Core.seq_setTask, Core.seq_spend_stop, stop_of_issues h]
  rw [hu]
  refine ⟨nextPc_done ?_, ?_, fun w hwt hwv => ?_, ?_⟩
  · rw [Core.task_setTask_ne _ _ _ _ hv.symm, Core.task_spend]
  · rw [Core.task_done_ne _ _ _ hv, Core.task_setTask]
  · rw [Core.task_done_ne _ _ _ hwt, Core.task_setTask_ne _ _ _ _ hwv, Core.task_spend]
  · rw [Core.tile_done, Core.tile_setTask, Core.tile_spend]

/-- A task.decl of a task that is not idle stops the core with 0x0307 (R215). -/
theorem does_taskDecl_of_busy {v : Fin 4} (h : Issues (s.core c) t f [f.ra, 0#5, 1#5, 2#5, 3#5]) (hrd : f.rd = 0#5)
    (hrb : f.rb = 0#5) (hx : f.x.toNat = v.val) (busy : ((s.core c).task v).st ≠ .idle) :
    Does (.taskDecl c f) s (fun u => (u.core c).seq.stop = some 0x0307) :=
  does_of_stopAt (exec_taskDecl c f s) ((Core.taskDecl_of_issues h hrd hrb hx).trans (if_pos busy))

/-- An instruction that takes its task to the state x and switches, when the task does not run on: the task goes to its next
instruction, the first ready task after it runs, and no register and no memory of the core changes (R216, R220, R221). -/
theorem does_of_left {i : Instr} {F : Core → Core} {x : TaskState} (hi : exec i s = .next (s.onCore c F))
    (hF : F (s.core c) = (((s.core c).spend 0 0).left t x).switchFrom t) (hstop : (s.core c).seq.stop = none)
    {next : Option (Fin 4)}
    (hnext : ([t + 1, t + 2, t + 3].find? (fun w => ((s.core c).task w).st = .ready)).or
      (if x = .ready then some t else none) = next) (hne : next ≠ some t) :
    Does i s (fun u => OnlyCore s u c ∧ NextPc (s.core c) (u.core c) t ∧ ((u.core c).task t).st = x ∧
      (u.core c).seq.running = next ∧ (∀ w, next = some w → ((u.core c).task w).st = .running) ∧
      (∀ w n, ((u.core c).task w).reg n = ((s.core c).task w).reg n) ∧ (u.core c).tile = (s.core c).tile) := by
  have hready : (((s.core c).spend 0 0).left t x).nextReady t = next := (Core.nextReady_left _ t x).trans hnext
  obtain ⟨-, hkeep, hrun, -⟩ := Core.switchFrom_rest (((s.core c).spend 0 0).left t x) t
  have htask := Core.switchFrom_left ((s.core c).spend 0 0) t x (hready ▸ hne)
  refine does_of_core hi hF ?stop fun u honly hu => ⟨honly, ?_⟩
  case stop => rw [hkeep, Core.seq_left_stop, Core.seq_spend_stop, hstop]
  rw [hu]
  refine ⟨?_, ?_, hrun.trans hready, fun w hw => ?_, fun w n => ?_, ?_⟩
  · rw [NextPc, htask]
    exact ⟨rfl, rfl⟩
  · rw [htask]
  · rw [Core.switchFrom_task, if_pos (hready.trans hw)]
  · rw [Core.switchFrom_reg, Core.reg_left, Core.task_spend]
  · rw [Core.tile_switchFrom, Core.tile_left, Core.tile_spend]

section
variable (h : Issues (s.core c) t f []) (hrd : f.rd = 0#5) (hra : f.ra = 0#5) (hrb : f.rb = 0#5) (hx : f.x = 0#3)
  (himm : f.imm = 0#32)
include h hrd hra hrb hx himm

/-- A task.yield with no other task ready goes on (R220). -/
theorem does_taskYield_of_alone (alone : ∀ w, w ≠ t → ((s.core c).task w).st ≠ .ready) :
    Does (.taskYield c f) s (fun u => OnlyCore s u c ∧ TaskFrame (s.core c) (u.core c) t [] [] ∧
      NextPc (s.core c) (u.core c) t ∧ (u.core c).seq.running = some t) := by
  have heff := Core.taskYield_of_issues h hrd hra hrb hx himm
  rw [if_neg (by simpa using alone)] at heff
  obtain ⟨-, hstop, hrunning⟩ := Core.issuer_live h.1
  refine does_of_core (exec_taskYield c f s) heff ?stop fun u honly hu => ⟨honly, ?_⟩
  case stop => rw [Core.seq_done_stop, Core.seq_spend_stop, hstop]
  rw [hu]
  refine ⟨taskFrame_done _ t, nextPc_done (Core.task_spend ..), ?_⟩
  rw [Core.seq_done_running, Core.seq_spend_running, hrunning]

/-- A task.yield with the next task ready runs that one (R220, R221). -/
theorem does_taskYield_of_ready (ready : ((s.core c).task (t + 1)).st = .ready) :
    Does (.taskYield c f) s (fun u => OnlyCore s u c ∧ NextPc (s.core c) (u.core c) t ∧
      ((u.core c).task t).st = .ready ∧ (u.core c).seq.running = some (t + 1) ∧ ((u.core c).task (t + 1)).st = .running ∧
      ∀ w n, ((u.core c).task w).reg n = ((s.core c).task w).reg n) := by
  have hne : t + 1 ≠ t := ne_of_mem_later t _ List.mem_cons_self
  have heff := Core.taskYield_of_issues h hrd hra hrb hx himm
  rw [if_pos ⟨t + 1, hne, ready⟩] at heff
  obtain ⟨u, hu, honly, hpc, hst, hrun, hrunning, hreg, -⟩ := does_of_left (next := some (t + 1)) (exec_taskYield c f s) heff
    (stop_of_issues h) (by simp [ready]) (fun e => hne (Option.some.inj e))
  exact ⟨u, hu, honly, hpc, hst, hrun, hrunning _ rfl, hreg⟩

/-- A task.end in another task than 0 makes the task idle (R216). -/
theorem does_taskEnd_of_ne (ht : t ≠ 0) : Does (.taskEnd c f) s (fun u => OnlyCore s u c ∧ ((u.core c).task t).st = .idle ∧
    (u.core c).seq.running = [t + 1, t + 2, t + 3].find? (fun w => ((s.core c).task w).st = .ready) ∧
    (∀ w n, ((u.core c).task w).reg n = ((s.core c).task w).reg n) ∧ (u.core c).tile = (s.core c).tile) := by
  have heff := Core.taskEnd_of_issues h hrd hra hrb hx himm
  rw [if_neg ht] at heff
  obtain ⟨u, hu, honly, -, hst, hrun, -, hreg, htile⟩ := does_of_left (exec_taskEnd c f s) heff (stop_of_issues h)
    (Option.or_none) fun e => ne_of_mem_later t t (List.mem_of_find?_eq_some e) rfl
  exact ⟨u, hu, honly, hst, hrun, hreg, htile⟩

/-- A task.end in task 0 stops the core with 0x0307 (R216). -/
theorem does_taskEnd_of_zero (ht : t = 0) : Does (.taskEnd c f) s (fun u => (u.core c).seq.stop = some 0x0307) :=
  does_of_stopAt (exec_taskEnd c f s) ((Core.taskEnd_of_issues h hrd hra hrb hx himm).trans (if_pos ht))

end
end

/-- Settles O19: it holds. task.decl declares an idle task or stops the core; task.yield goes on or switches; task.end ends its
task or stops the core. -/
theorem taskInstructionsDeclareYieldEnd : Obligations.TaskInstructionsDeclareYieldEnd := by
  intro s c t v f
  refine ⟨fun h hrd hrb hx => ⟨fun hv idle => ?_, does_taskDecl_of_busy h hrd hrb hx⟩, fun h hrd hra hrb hx himm =>
    ⟨does_taskYield_of_alone h hrd hra hrb hx himm, does_taskYield_of_ready h hrd hra hrb hx himm,
      does_taskEnd_of_ne h hrd hra hrb hx himm, does_taskEnd_of_zero h hrd hra hrb hx himm⟩⟩
  obtain ⟨u, hu, honly, hpc, hdecl, hother, htile⟩ := does_taskDecl_of_idle h hrd hrb hx hv idle
  refine ⟨u, hu, honly, hpc, ?_⟩
  rw [hdecl]
  exact ⟨rfl, rfl, Task.reg_declared _ _ _, fun n hn => Task.pred_declared _ _ _ hn, rfl, rfl, hother, htile⟩

end Sys2Proof.Machine
end
